-- ==== Sys2Proof/Word.lean ====
section
/-! DEFINITION. The units of data (R3) and their plainest arithmetic. -/
namespace Sys2Proof

/-- R3: 8 bits. -/
abbrev Byte := BitVec 8
/-- R3: a dword, 64 bits; scalar registers, addresses and PCs. -/
abbrev Word := BitVec 64
/-- R90: a vector register, 512 bits. -/
abbrev Vec := BitVec 512
/-- R36: an instruction word, 96 bits. -/
abbrev IWord := BitVec 96

/-- R8: Bits(x, hi, lo), as an unsigned integer. -/
def bits (x hi lo : Nat) : Nat := x / 2 ^ lo % 2 ^ (hi + 1 - lo)

/-- R8: Sext(x, n) as a mathematical integer: x of n bits read as two's complement. -/
def sextInt (x n : Nat) : Int :=
  let y := x % 2 ^ n
  if n ≠ 0 ∧ y ≥ 2 ^ (n - 1) then (y : Int) - 2 ^ n else y

/-- R8: Trunc(x, n): x modulo 2^n. -/
def truncInt (x : Int) (n : Nat) : Nat := (x % (2 ^ n : Int)).toNat

/-- Sext(IMM, 32) as a 64-bit value (R41). -/
def sext32 (imm : BitVec 32) : Word := imm.signExtend 64

/-- Zext(IMM, 32) as a 64-bit value. -/
def zext32 (imm : BitVec 32) : Word := imm.setWidth 64

end Sys2Proof
end

