-- ==== Sys2Proof/Syntax.lean ====
section
/-! DEFINITION. The operand forms of the instruction word (R36 to R45), the data that hardware events carry,
and the ONE inductive of operations: a constructor for every row of the opcode table. -/
namespace Sys2Proof

/-- R43: a scalar register field. -/
abbrev Sreg := Fin 64
/-- R43: a vector destination. -/
abbrev Vreg := Fin 32

/-- R43: a vector source: v0 to v31, or a channel c0 to c7 (field values 32 to 39). -/
inductive VSrc where
  | reg (v : Fin 32)
  | chan (c : Fin 8)
  deriving DecidableEq, Repr

/-- R42: the element types, in code order 0x0 to 0xE. -/
inductive Ty where
  | i8 | i16 | i32 | i64 | n8 | n16 | n32 | n64 | f32 | f16 | bf16 | e4m3 | e5m2 | cb8 | e8m0
  deriving DecidableEq, Repr

/-- R12, R38: the scopes, in code order 0 to 5. -/
inductive Scope where
  | none | core | cluster | sg | pkg | pod
  deriving DecidableEq, Repr

/-- R38: RND, in code order 0 to 5. -/
inductive Rnd where
  | rne | rtz | rup | rdn | sto | rmode
  deriving DecidableEq, Repr

/-- R38: SPACE, 0 local and 1 global. -/
inductive Space where
  | loc | glob
  deriving DecidableEq, Repr

/-- R45: the guard GN, GP. -/
structure Guard where
  neg : Bool
  p : Fin 8
  deriving DecidableEq, Repr

/-- A second operand: register B, or IMM under IMMB (R41). -/
inductive Src where
  | reg (r : Sreg)
  | imm (v : BitVec 32)
  deriving DecidableEq, Repr

/-- A second vector operand: register or channel B, or IMM under IMMB (R139). -/
inductive VOp where
  | vec (v : VSrc)
  | imm (v : BitVec 32)
  deriving DecidableEq, Repr

/-- R40: the addressing modes 0 to 4. -/
inductive AMode where
  | base (a : Sreg) (imm : BitVec 32)
  | idx (a b : Sreg)
  | scaled (a b : Sreg)
  | post (p : Fin 8)
  | off (p : Fin 8) (imm : BitVec 32)
  deriving DecidableEq, Repr

/-- R38, R39: SCOPE, ACQ and REL. -/
structure Order where
  scope : Scope
  acq : Bool
  rel : Bool
  deriving DecidableEq, Repr

/-- R138: MSK and ZRO of a vector instruction, or SUB[2:0] and SUB[3] of a vector load (R169). -/
structure MaskZ where
  msk : Fin 8
  zro : Bool
  deriving DecidableEq, Repr

/-- R94: TOK with field C, or no token. -/
abbrev Tok := Option Sreg

/-- R87: the memory conditions of WAIT, SUB 0 to 3. -/
inductive WCond where
  | eq | ne | ltu | geu
  deriving DecidableEq, Repr

/-- R100: the conditions of CMP, SUB 0 to 7. -/
inductive Cond where
  | eq | ne | lt | ge | ltu | geu | tst | ntst
  deriving DecidableEq, Repr

/-- R101: the operations of PLOG, SUB 0 to 5. -/
inductive POp where
  | and | or | xor | andn | nand | nor
  deriving DecidableEq, Repr

/-- R102: the forms of PMOV, SUB 0 to 4. -/
inductive PMov where
  | mov (d a : Fin 8)
  | not (d a : Fin 8)
  | nz (d : Fin 8) (a : Sreg)
  | get (d : Sreg) (a : Fin 8)
  | imm (d : Fin 8) (v : Bool)
  deriving DecidableEq, Repr

/-- R103: the conditions of TSTM, SUB 0 to 2. -/
inductive MCond where
  | any | all | none
  deriving DecidableEq, Repr

/-- R105: the forms of PTSET, SUB 0 to 4. -/
inductive PtSet where
  | all (b : Src)
  | base | cur | step | limit
  deriving DecidableEq, Repr

/-- R106: the selectors of PTGET, SUB 0 to 4. -/
inductive PtGet where
  | addr | base | cur | step | limit
  deriving DecidableEq, Repr

/-- R259: the operations of AMO, SUB 0 to 6. -/
inductive AmoOp where
  | add | and | or | xor | min | max | swap
  deriving DecidableEq, Repr

/-- R261: the operations of AMOF, SUB[1:0] 0 to 2. -/
inductive FOp where
  | add | min | max
  deriving DecidableEq, Repr

/-- R147: the conditions of VCMP, SUB 0 to 6. -/
inductive VCond where
  | eq | ne | lt | le | gt | ge | un
  deriving DecidableEq, Repr

/-- R153: the operations of VRED, SUB 0 to 5. -/
inductive RedOp where
  | add | min | max | and | or | xor
  deriving DecidableEq, Repr

/-- R156: the forms of VBCAST. -/
inductive BCast where
  | scalar (a : Sreg)
  | imm (v : BitVec 32)
  | lane (a : VSrc) (n : Fin 64)
  deriving DecidableEq, Repr

/-- R156: the lane operand of VINS and VEXT. -/
inductive LaneSel where
  | imm (n : Fin 64)
  | reg (b : Sreg)
  deriving DecidableEq, Repr

/-- R187: the forms of MXLD: .acc (a tile), .r64 and the full row (an operand slot). -/
inductive MxLd where
  | full (o : Fin 4)
  | r64 (o : Fin 4)
  | acc (t : Fin 8)
  deriving DecidableEq, Repr

/-- R191: an operand of MXMMA: a slot or a scalar that holds a local offset. -/
inductive MxOp where
  | slot (o : Fin 4)
  | loc (a : Sreg)
  deriving DecidableEq, Repr

/-- R295: the selectors of THINFO, SUB 0 to 6. -/
inductive ThSel where
  | state | base | bytes | extent | parent | dims | home
  deriving DecidableEq, Repr

/-- R203: the message kinds 0 to 7. -/
inductive MsgKind where
  | plain | code | reply | refusal | crate | dispatch | task | gang
  deriving DecidableEq, Repr

/-- R203: a message: header fields and payload bytes (16 × LEN of them). -/
structure Message where
  dest : Nat
  queue : Nat
  hid : Nat
  len : Nat
  kind : MsgKind
  prio : Nat
  clines : Nat
  src : Nat
  agent : Bool
  msgid : Nat
  payload : List Byte
  /-- what sent it: R309: the whole number of the transaction that a dispatch message starts, whose low half MSGID is; R343: the
  front-end packet whose message it is (queue × 2^64 + packet); R67: the member that a gang start is for -/
  num : Option Nat := none
  deriving DecidableEq, Repr

/-- The two engines of a core (R172, R180). -/
inductive Engine where
  | matrix | copy
  deriving DecidableEq, Repr

/-- R267, R268: one deterministic update on its way to its home. -/
structure DetUpdate where
  pa : Nat
  round : Nat
  issuer : Nat
  seq : Nat
  op : FOp
  value : BitVec 32
  area : Option (Nat × Nat)
  deriving DecidableEq, Repr

/-- R267, R270: what reaches a package's home slices of a deterministic round: an update, or the close that a DRCLOSE of another
package makes at pod scope. -/
inductive DetArrival where
  | update (u : DetUpdate)
  | close (round : Nat)
  deriving DecidableEq, Repr

/-- R235: an invalidation request accepted and not complete. -/
structure InvReq where
  asid : Nat
  kind : Nat
  scope : Nat
  va : Nat
  len : Nat
  sig : Nat
  bad : Bool
  deriving DecidableEq, Repr

/-- R235, R236: what the invalidation unit of this package is told: by a doorbell write here, the address of a request record; by another
package, a request of SCOPE 5; that every other package of the pod has answered the oldest request of SCOPE 5 with this SIG. -/
inductive InvBell where
  | record (v : Word)
  | other (r : InvReq)
  | answered (sig : Nat)
  deriving DecidableEq, Repr

/-- R221, R222: the output channel port of a gang. -/
structure GangPort where
  gid : Nat
  port : Nat
  deriving DecidableEq, Repr

/-- R238, R245, R259 to R265: what an access of another package does at a home of this one. -/
inductive FarAct where
  | load (n : Nat)
  | store (bytes : List Byte)
  | amo (op : AmoOp) (t : Ty) (c : Nat)
  | cas (t : Ty) (want new : Nat)
  | amof (op : FOp) (c : Nat)
  | ldf (take : Bool)
  | stf (v : Word)
  deriving DecidableEq, Repr

/-- R238, R241, R246: what reaches the homes of this package: the stores of a cluster's buffer, all of them or those to one atom; or
an access that another package sends, with its number there, its physical address, whether it is an acquire, and the scope of its
release. -/
inductive HomeNews where
  | leave (cluster : Nat) (atom : Option Nat)
  | far (pkg id pa : Nat) (act : FarAct) (acq : Bool) (rel : Scope)
  deriving DecidableEq, Repr

/-- R281, R283: a lock manager: a physical one of this package, a logical one of another. -/
structure LockMan where
  pkg : Nat
  lm : Nat
  deriving DecidableEq, Repr

/-- R282: a tenure request: global number, handle, W or R. -/
structure TenReq where
  num : Nat
  handle : Nat
  w : Bool
  deriving DecidableEq, Repr

/-- R283, R302: what TENURE_REQUEST_ARRIVAL says of a request: it arrives at a lock manager here, from an address space; or another
package's lock manager holds it, or is full and returns it. -/
inductive TenNews where
  | request (asid : Nat)
  | accepted
  | returned
  deriving DecidableEq, Repr

/-- R285: the handle that a commit grant is for, and the next holder, where another package's lock manager names one. -/
structure Granted where
  handle : Nat
  next : Option Nat := none
  deriving DecidableEq, Repr

/-- R358: the steps of a live update that the device sees: firmware of a version loaded on the standby, which can read the table's
format or not; a write of FE_CTL. -/
inductive UpdateStep where
  | load (ver : BitVec 16) (reads : Bool)
  | write (v : Word)
  deriving DecidableEq, Repr

/-- R273: a tile descriptor's fields. -/
structure TileDesc where
  base : Nat
  esz : Nat
  rank : Nat
  domain : Nat
  state : Nat
  dims : List Nat
  strides : List Nat
  deriving DecidableEq, Repr

/-- R282, R284, R285: a grant that comes from another package's lock manager: the version and state of the tile, whether the grant or
the push fails, and the tile's packed bytes; prev: the number of the previous holder, where that one pushes them. -/
structure TilePush where
  ver : BitVec 32
  frozen : Bool
  fail : Bool
  data : List Byte
  prev : Option Nat := none
  deriving DecidableEq, Repr

/-- R285: what HOME_RECEIPT says of a commit: another package's holder sends the packed bytes to this home; the home on another package
has them, or its pages refused them (R275); the next holder on another package has them. -/
inductive Receipt where
  | data (bytes : List Byte)
  | home (ok : Bool)
  | next
  deriving DecidableEq, Repr

/-- R288: a tile operation on its way to a home lock manager. -/
inductive TileOp where
  | create (desc : TileDesc) (valid : Bool)
  | split (handle dim n : Nat)
  | join (handle : Nat)
  | freeze (handle : Nat)
  | thaw (handle : Nat)
  | free (handle : Nat)
  | info (handle : Nat) (sel : ThSel)
  deriving DecidableEq, Repr

/-- R288: the answer of a tile operation: a value for D, a tile fault, or a protection fault. -/
inductive TileAns where
  | value (v : Word)
  | tileFault
  | protFault
  deriving DecidableEq, Repr

/-- R371: the units that report errors. -/
inductive HwUnit where
  | bank (core b : Nat)
  | core (c : Nat)
  | slice (n : Nat)
  | frame (pa : Nat)
  | channel (n : Nat)
  | link (port half : Nat)
  deriving DecidableEq, Repr

/-- The operations of the opcode table: 163 encoded instructions, each with its guard first, and 117 hardware
events, each with the data that names where it comes about. -/
inductive Instr where
  -- Handler slots, traps, special registers
  | nop (g : Guard)
  | trap (g : Guard) (noretry : Bool) (imm : BitVec 32)
  | brk (g : Guard) (code : BitVec 16)
  | resume (g : Guard) (d a : Sreg)
  | resumeAbort (g : Guard) (d a : Sreg)
  | mfsr (g : Guard) (d : Sreg) (n : BitVec 12)
  | mtsr (g : Guard) (n : BitVec 12) (a : Sreg)
  | wait (g : Guard) (cond : WCond) (d a b c : Sreg) (imm : BitVec 32) (sp : Space) (o : Order)
  | waitClk (g : Guard) (c : Sreg)
  | prio (g : Guard) (d : Sreg) (b : Src)
  -- Scalar integer (R98)
  | add (g : Guard) (d a : Sreg) (b : Src)
  | sub (g : Guard) (d a : Sreg) (b : Src)
  | mul (g : Guard) (d a : Sreg) (b : Src)
  | mulh (g : Guard) (d a : Sreg) (b : Src)
  | mulhu (g : Guard) (d a : Sreg) (b : Src)
  | div (g : Guard) (d a : Sreg) (b : Src)
  | divu (g : Guard) (d a : Sreg) (b : Src)
  | rem (g : Guard) (d a : Sreg) (b : Src)
  | remu (g : Guard) (d a : Sreg) (b : Src)
  | and (g : Guard) (d a : Sreg) (b : Src)
  | or (g : Guard) (d a : Sreg) (b : Src)
  | xor (g : Guard) (d a : Sreg) (b : Src)
  | andn (g : Guard) (d a : Sreg) (b : Src)
  | shl (g : Guard) (d a : Sreg) (b : Src)
  | shr (g : Guard) (d a : Sreg) (b : Src)
  | sar (g : Guard) (d a : Sreg) (b : Src)
  | rot (g : Guard) (d a : Sreg) (b : Src)
  | min (g : Guard) (d a : Sreg) (b : Src)
  | max (g : Guard) (d a : Sreg) (b : Src)
  | minu (g : Guard) (d a : Sreg) (b : Src)
  | maxu (g : Guard) (d a : Sreg) (b : Src)
  | clz (g : Guard) (d a : Sreg)
  | ctz (g : Guard) (d a : Sreg)
  | popc (g : Guard) (d a : Sreg)
  | ext (g : Guard) (t : Ty) (d a : Sreg)
  | bfx (g : Guard) (signed : Bool) (d a : Sreg) (pos lenm1 : Fin 64)
  | bfi (g : Guard) (d a : Sreg) (pos lenm1 : Fin 64)
  | li (g : Guard) (zx : Bool) (d : Sreg) (imm : BitVec 32)
  | lih (g : Guard) (d : Sreg) (imm : BitVec 32)
  | sel (g : Guard) (d : Sreg) (p : Fin 8) (a : Sreg) (b : Src)
  -- Compare, predicate, mask test, pointers
  | cmp (g : Guard) (cond : Cond) (d : Fin 8) (a : Sreg) (b : Src)
  | plog (g : Guard) (op : POp) (d a b : Fin 8)
  | pmov (g : Guard) (f : PMov)
  | tstm (g : Guard) (cond : MCond) (t : Ty) (d m : Fin 8)
  | ptset (g : Guard) (f : PtSet) (d : Fin 8) (a : Sreg)
  | ptget (g : Guard) (f : PtGet) (d : Sreg) (a : Fin 8)
  | ptadv (g : Guard) (steps : Bool) (d : Fin 8) (b : Src)
  -- Control
  | br (g : Guard) (imm : BitVec 32)
  | jal (g : Guard) (d : Sreg) (imm : BitVec 32)
  | jalr (g : Guard) (d a : Sreg) (imm : BitVec 32)
  | loop (g : Guard) (d : Sreg) (imm : BitVec 32)
  -- Loads and stores (R169)
  | ld (g : Guard) (t : Ty) (d : Sreg) (m : AMode) (sp : Space) (o : Order)
  | st (g : Guard) (t : Ty) (m : AMode) (c : Sreg) (sp : Space) (o : Order)
  | vld (g : Guard) (t : Ty) (d : Vreg) (m : AMode) (z : MaskZ) (sp : Space) (o : Order)
  | vst (g : Guard) (t : Ty) (m : AMode) (c : VSrc) (msk : Fin 8) (sp : Space) (o : Order)
  | vlds (g : Guard) (t : Ty) (d : Vreg) (m : AMode) (b : Sreg) (z : MaskZ) (sp : Space) (o : Order)
  | vsts (g : Guard) (t : Ty) (m : AMode) (b : Sreg) (c : VSrc) (msk : Fin 8) (sp : Space) (o : Order)
  | vgth (g : Guard) (t it : Ty) (d : Vreg) (m : AMode) (b : VSrc) (z : MaskZ) (sp : Space) (o : Order)
  | vsct (g : Guard) (t it : Ty) (m : AMode) (b c : VSrc) (msk : Fin 8) (sp : Space) (o : Order)
  -- Atomics, futures, fences (R258)
  | amo (g : Guard) (op : AmoOp) (t : Ty) (d : Sreg) (m : AMode) (c : Sreg) (sp : Space) (o : Order)
  | amocas (g : Guard) (t : Ty) (p : Fin 8) (m : AMode) (b c : Sreg) (sp : Space) (o : Order)
  | amof (g : Guard) (op : FOp) (det : Bool) (d : Sreg) (m : AMode) (c : Sreg) (o : Order)
  | vamof (g : Guard) (det : Bool) (it : Ty) (m : AMode) (b c : VSrc) (msk : Fin 8) (o : Order)
  | drclose (g : Guard) (d a : Sreg) (scope : Scope)
  | ldf (g : Guard) (d : Sreg) (p : Fin 8) (m : AMode) (o : Order)
  | ldft (g : Guard) (d : Sreg) (p : Fin 8) (m : AMode) (o : Order)
  | stf (g : Guard) (p : Fin 8) (m : AMode) (c : Sreg) (o : Order)
  | fence (g : Guard) (scope : Scope)
  -- Vector lanes (R141)
  | vadd (g : Guard) (t : Ty) (sat : Bool) (r : Rnd) (z : MaskZ) (d : Vreg) (a : VSrc) (b : VOp)
  | vsub (g : Guard) (t : Ty) (sat : Bool) (r : Rnd) (z : MaskZ) (d : Vreg) (a : VSrc) (b : VOp)
  | vmul (g : Guard) (t : Ty) (sat : Bool) (r : Rnd) (z : MaskZ) (d : Vreg) (a : VSrc) (b : VOp)
  | vfma (g : Guard) (t : Ty) (sat : Bool) (r : Rnd) (z : MaskZ) (d : Vreg) (a : VSrc) (b : VOp) (c : VSrc)
  | vfms (g : Guard) (t : Ty) (sat : Bool) (r : Rnd) (z : MaskZ) (d : Vreg) (a : VSrc) (b : VOp) (c : VSrc)
  | vmin (g : Guard) (t : Ty) (z : MaskZ) (d : Vreg) (a : VSrc) (b : VOp)
  | vmax (g : Guard) (t : Ty) (z : MaskZ) (d : Vreg) (a : VSrc) (b : VOp)
  | vabs (g : Guard) (t : Ty) (sat : Bool) (z : MaskZ) (d : Vreg) (a : VSrc)
  | vneg (g : Guard) (t : Ty) (sat : Bool) (z : MaskZ) (d : Vreg) (a : VSrc)
  | vrcp (g : Guard) (t : Ty) (r : Rnd) (z : MaskZ) (d : Vreg) (a : VSrc)
  | vrsq (g : Guard) (t : Ty) (r : Rnd) (z : MaskZ) (d : Vreg) (a : VSrc)
  | vexp2 (g : Guard) (t : Ty) (r : Rnd) (z : MaskZ) (d : Vreg) (a : VSrc)
  | vlog2 (g : Guard) (t : Ty) (r : Rnd) (z : MaskZ) (d : Vreg) (a : VSrc)
  | vand (g : Guard) (t : Ty) (z : MaskZ) (d : Vreg) (a : VSrc) (b : VOp)
  | vor (g : Guard) (t : Ty) (z : MaskZ) (d : Vreg) (a : VSrc) (b : VOp)
  | vxor (g : Guard) (t : Ty) (z : MaskZ) (d : Vreg) (a : VSrc) (b : VOp)
  | vshl (g : Guard) (t : Ty) (z : MaskZ) (d : Vreg) (a : VSrc) (b : VOp)
  | vshr (g : Guard) (t : Ty) (z : MaskZ) (d : Vreg) (a : VSrc) (b : VOp)
  | vsar (g : Guard) (t : Ty) (z : MaskZ) (d : Vreg) (a : VSrc) (b : VOp)
  | vcmp (g : Guard) (cond : VCond) (t : Ty) (z : MaskZ) (d : Fin 8) (a : VSrc) (b : VOp)
  | vsel (g : Guard) (t : Ty) (k : Fin 8) (d : Vreg) (a b : VSrc)
  | vcvt (g : Guard) (td ts : Ty) (part : Fin 8) (sat : Bool) (r : Rnd) (z : MaskZ) (d : Vreg) (a : VSrc)
  | vqnt (g : Guard) (td : Ty) (part : Bool) (d : Vreg) (a b : VSrc) (c : Sreg)
  | vdeq (g : Guard) (td ts : Ty) (part : Fin 16) (z : MaskZ) (d : Vreg) (a : VSrc)
  | vscale (g : Guard) (t : Ty) (k : Fin 16) (r : Rnd) (z : MaskZ) (d : Vreg) (a : VSrc) (b : VOp)
  | vred (g : Guard) (op : RedOp) (t : Ty) (r : Rnd) (msk : Fin 8) (d : Sreg) (a : VSrc)
  | vscan (g : Guard) (op : FOp) (ex : Bool) (t : Ty) (r : Rnd) (z : MaskZ) (d : Vreg) (a : VSrc) (b : Src)
  | vperm (g : Guard) (t : Ty) (z : MaskZ) (d : Vreg) (a b : VSrc) (two : Option VSrc)
  | vbcast (g : Guard) (t : Ty) (z : MaskZ) (d : Vreg) (f : BCast)
  | vins (g : Guard) (t : Ty) (d : Vreg) (a : Sreg) (n : LaneSel)
  | vext (g : Guard) (t : Ty) (d : Sreg) (a : VSrc) (n : LaneSel)
  | vmov (g : Guard) (t : Ty) (z : MaskZ) (d : Vreg) (a : VSrc)
  | vldi (g : Guard) (t : Ty) (z : MaskZ) (d : Vreg) (a : Sreg) (imm : BitVec 32)
  | vzip (g : Guard) (t : Ty) (part : Bool) (z : MaskZ) (d : Vreg) (a b : VSrc)
  | vunzip (g : Guard) (t : Ty) (part : Bool) (z : MaskZ) (d : Vreg) (a b : VSrc)
  | vslide (g : Guard) (t : Ty) (k : Fin 65) (z : MaskZ) (d : Vreg) (a b : VSrc)
  | vdot (g : Guard) (t : Ty) (sat : Bool) (r : Rnd) (z : MaskZ) (d : Vreg) (a b c : VSrc)
  | vsat (g : Guard) (t t2 : Ty) (z : MaskZ) (d : Vreg) (a : VSrc)
  -- Masks (R109)
  | mkand (g : Guard) (d a b : Fin 8)
  | mkor (g : Guard) (d a b : Fin 8)
  | mkxor (g : Guard) (d a b : Fin 8)
  | mknot (g : Guard) (d a : Fin 8)
  | mkpop (g : Guard) (t : Ty) (d : Sreg) (a : Fin 8)
  | mkfst (g : Guard) (t : Ty) (d : Sreg) (a : Fin 8)
  | mkset (g : Guard) (d : Fin 8) (a : Src)
  | mkget (g : Guard) (d : Sreg) (a : Fin 8)
  -- Matrix engine (R185)
  | mxcfgAscale (g : Guard) (tok : Tok) (a : Src)
  | mxcfgAreset (g : Guard) (tok : Tok)
  | mxld (g : Guard) (tok : Tok) (f : MxLd) (a b : Sreg) (o : Order)
  | mxldv (g : Guard) (tok : Tok) (r64 : Bool) (slot : Fin 4) (a b : Sreg) (o : Order)
  | mxmma (g : Guard) (tok : Tok) (ta tb : Ty) (h16 : Bool) (d : Fin 8) (x y : MxOp) (o : Order)
  | mxzero (g : Guard) (tok : Tok) (mask : BitVec 8)
  | mxsca (g : Guard) (tok : Tok) (ts ta : Ty) (d s : Fin 8) (a b : VSrc)
  | mxrd (g : Guard) (tok : Tok) (d : Vreg) (s : Fin 8) (row : Fin 16) (lg : Fin 8)
  | mxst (g : Guard) (tok : Tok) (t : Ty) (sat : Bool) (r : Rnd) (s : Fin 8) (a b : Sreg) (sp : Space) (o : Order)
  | mxattn (g : Guard) (tok : Tok) (q : Fin 4) (a b : Sreg) (nm1 : Fin 16) (o : Order)
  | mxafin (g : Guard) (tok : Tok) (a b : Sreg) (o : Order)
  | mxwait (g : Guard)
  | mxprg (g : Guard) (tok : Tok)
  -- Copy engine (R174)
  | cpy (g : Guard) (tok : Tok) (dir : Fin 4) (d a : Sreg) (b : Src) (o : Order)
  | cpy2d (g : Guard) (tok : Tok) (a : Sreg) (imm : BitVec 32) (sp : Space) (o : Order)
  | cpyt (g : Guard) (tok : Tok) (pack : Bool) (d a : Sreg) (o : Order)
  -- Rings (R331)
  | ringcfg (g : Guard) (tok : Tok) (a : Sreg) (imm : BitVec 32) (sp : Space)
  | ringcfgOff (g : Guard) (tok : Tok) (ring : Fin 16)
  | rsend (g : Guard) (tok : Tok) (glob : Bool) (d : Sreg) (ring : Fin 16) (a b : Sreg) (o : Order)
  | rfwd (g : Guard) (tok : Tok) (d : Sreg) (ring : Fin 16) (a : Sreg)
  | rfree (g : Guard) (tok : Tok) (ring : Fin 16) (a : Sreg)
  -- Messages (R213)
  | send (g : Guard) (d a b : Sreg) (hid : Fin 256) (q : Fin 8) (len : Fin 16)
  | sendv (g : Guard) (d a : Sreg) (b : Vreg) (hid : Fin 256) (q : Fin 8) (len : Fin 16)
  | sendc (g : Guard) (d a b : Sreg) (hid : Fin 256) (q : Fin 8) (len : Fin 16) (lines : Fin 4)
  | reply (g : Guard) (b : Sreg) (hid : Fin 256) (q : Fin 8) (len : Fin 16)
  | reth (g : Guard)
  | htset (g : Guard) (d a b c : Sreg) (id : Fin 256)
  | qcfg (g : Guard) (d a : Sreg) (q : Fin 8)
  | bindIn (g : Guard) (n : Fin 8) (a : Sreg)
  | bindOut (g : Guard) (n : Fin 8) (a : Sreg)
  | unbindIn (g : Guard) (n : Fin 8)
  | unbindOut (g : Guard) (n : Fin 8)
  | chsend (g : Guard) (n : Fin 8) (a : VSrc) (o : Order)
  | chtst (g : Guard) (p : Fin 8) (n : Fin 8) (b : Src)
  | bar (g : Guard) (scope : Scope) (id : Fin 16) (b : Src)
  | spawn (g : Guard) (d : Sreg) (m : AMode) (sp : Space)
  -- Tiles and transactions (R288, R315)
  | thnew (g : Guard) (d : Sreg) (m : AMode) (sp : Space)
  | thsplit (g : Guard) (dim : Fin 4) (d a : Sreg) (b : Src)
  | thjoin (g : Guard) (d a : Sreg)
  | thfrz (g : Guard) (d a : Sreg)
  | thfrzThaw (g : Guard) (d a : Sreg)
  | thfree (g : Guard) (d a : Sreg)
  | thinfo (g : Guard) (sel : ThSel) (d a : Sreg)
  | txsub (g : Guard) (d : Sreg) (m : AMode) (sp : Space)
  | txrst (g : Guard) (d : Sreg) (m : AMode) (sp : Space)
  | txnum (g : Guard) (d : Sreg)
  | txnumOpen (g : Guard) (d : Sreg)
  | txver (g : Guard) (new : Bool) (d : Sreg) (k : Fin 16)
  | txabort (g : Guard)
  -- Hardware events: core
  | activationStart (core slot queue : Nat)
  | porterActivation (core : Nat)
  | budgetTrap (core slot : Nat)
  | scoreboardWriteLands (core slot id : Nat)
  | tokenLands (core slot id : Nat)
  | predicateResolves (core slot id : Nat)
  | copyCommandStart (core : Nat)
  | matrixCommandStart (core : Nat)
  | commandCompletion (core : Nat) (e : Engine)
  | fsresp (v : Word)
  | fsqIdx (v : Word)
  | faultAnswerTimeout (core slot : Nat) (e : Engine)
  | lateReport (core cause : Nat) (addr pc : Word)
  | drainComplete (core slot : Nat)
  | sendBufferDeparture (core slot : Nat)
  | messageArrival (core : Nat) (m : Message)
  | heapReplay (core queue : Nat)
  | heapReplayResume (core queue : Nat)
  | agentPortPlacement (core queue : Nat)
  | agentPortRetry (core : Nat)
  | channelEntryArrival (tag : Word) (data : Vec) (rel : Scope) (writer port : Nat)
  | creditReturn (core slot : Nat) (port : GangPort)
  | chtstTimeout (core slot id : Nat)
  | waitWake (core slot : Nat)
  | waitPoll (core slot : Nat)
  | waitTimeout (core slot : Nat)
  | barrierInheritance (gid : Nat)
  | preemptPost (core queue : Nat)
  | preemptWithdraw (core queue : Nat)
  | bankRole (core slot : Nat) (v : Word)
  -- Hardware events: memory
  | homeAccess (news : HomeNews)
  | scopeMissReport (core act atom : Nat)
  | detUpdateArrival (u : DetArrival)
  | invalidationDoorbell (b : InvBell)
  | invalidationCompletion
  | walkCompletion (core asid page : Nat)
  | offlnAck (v : Word)
  | lmmapMoveComplete (idx : Nat)
  -- Hardware events: sequencer, lock managers, tiles
  | tenureRequestArrival (r : TenReq) (a : TenNews)
  | tenureRequestResend (lm : LockMan)
  | tenureGrant (r : TenReq) (p : Option TilePush)
  | dispatch (num : Nat)
  | commitGrant (num : Nat) (h : Granted)
  | homeReceipt (num handle : Nat) (r : Receipt)
  | tileOperationArrival (src slot asid : Nat) (op : TileOp)
  | tileAnswer (core slot : Nat) (a : TileAns)
  -- Hardware events: rings
  | crateRelease (ring core crate : Nat)
  -- Hardware events: host queues
  | kick (q : Nat) (v : Word)
  | cancel (q : Nat) (v : Word)
  | qctlResume (q : Nat)
  | qctlHold (q : Nat)
  | qctlRelease (q : Nat)
  | qctlEnable (q : Nat)
  | qctlDisable (q : Nat)
  | queueDisableComplete (q : Nat)
  | packetRead (q : Nat)
  | packetReread (q : Nat)
  | nopPacket (q : Nat)
  | txnPacket (q : Nat)
  | msgPacket (q : Nat)
  | launchPacket (q : Nat)
  | gangPacket (q : Nat)
  | waitsigPacket (q : Nat)
  | waitsigReread (q id : Nat)
  | signalPacket (q : Nat)
  | fetchfencePacket (q : Nat)
  | indirectPacket (q : Nat)
  | ringPacket (q : Nat)
  | packetCompletion (q id : Nat) (ok : Bool)
  | taskTake (core : Nat)
  | taskSteal (core : Nat)
  | terminationSweep (lid : Nat)
  | liveUpdate (u : UpdateStep)
  -- Hardware events: power, service, registers, reset
  | coreDrain (core : Nat)
  | coreDrainComplete (core : Nat)
  | coreReadmit (core : Nat)
  | operatingPointChange (pt : Nat)
  | managementRegisterWrite (off : Nat) (v : Word)
  | tenureRelease (num handle : Nat)
  -- Hardware events that come from outside the package or from its clocks and units
  | forcedIssue (core slot : Nat)
  | mxldvRowFault (core : Nat)
  | gangSlotReservation
  | remoteStoreResponse (core slot id : Nat) (ok : Bool)
  | birspArrival (line : Nat) (data : Option (List Byte)) (keep : Bool)
  | hostMemWrite (off : Nat) (data : List Byte)
  | hostMemRead (off n : Nat) (hold : Bool)
  | correctedError (u : HwUnit)
  | selfTestResult (u : HwUnit) (pass : Bool)
  | roundClose
  | reservationAndNumbering
  | closureArrival (pkg round next : Nat)
  | podTimeoutExpiry (pkg : Nat)
  | outOfServiceDeclaration (pkg round : Nat)
  | podJoin (pkg : Nat) (running : Bool)
  | joinNotice (pkg : Nat)
  | joinRound (pkg round : Nat)
  | flitReceive (port : Nat) (good : Bool)
  | portRetrain (port : Nat) (lo hi : Bool)
  | portRecalibration (port : Nat)
  | hbmPhyRetrain (chan : Nat) (done : Bool)
  | ringSetupNotice (ring : Nat) (fromPred : Bool) (peer s csize : Nat)
  | ringSetupAnswer (ring : Nat) (fromSucc : Bool) (ok : Bool)
  | ringBlockArrival (ring blk origin : Nat) (data : List Byte)
  | ringBlockAck (ring blk : Nat) (ok : Bool)
  | ringReleaseArrival (ring : Nat)
  | ringSkipNotice (ring blk : Nat)
  | ringTeardownNotice (ring : Nat)
  | liveUpdateHandover
  | failover
  | thermalThrottle
  | thermalRaise
  | thermalTrip
  | cbData (core slot : Nat) (v : Word)
  | cbCtl (core : Nat) (v : Word)
  | packageReset (pkg : Nat)
  | managementWithdrawRequest
  | illegalInstructionTrap
  deriving DecidableEq, Repr

end Sys2Proof
end

