-- ==== Sys2Proof/WellFormed.lean ====
section
/-! DEFINITION. Which instructions are legal encodings (R37 to R45 and each instruction's own rule). The operand
types of Syntax already hold the register classes of R43; this file holds what they cannot say. -/
namespace Sys2Proof

/-- R42, R137: the width in bits of an element type (CB8 indices are 16 bits wide). -/
def Ty.width : Ty → Nat
  | .i8 | .n8 | .e4m3 | .e5m2 | .e8m0 => 8
  | .i16 | .n16 | .f16 | .bf16 | .cb8 => 16
  | .i32 | .n32 | .f32 => 32
  | .i64 | .n64 => 64

/-- R137: the lane count L = 512 ÷ w. -/
def Ty.lanes (t : Ty) : Nat := 512 / t.width

/-- R141: the set I, the integer codes 0x0 to 0x7. -/
def Ty.isInt : Ty → Bool
  | .i8 | .i16 | .i32 | .i64 | .n8 | .n16 | .n32 | .n64 => true
  | .f32 | .f16 | .bf16 | .e4m3 | .e5m2 | .cb8 | .e8m0 => false

/-- The signed integer types .i8 to .i64. -/
def Ty.isSigned : Ty → Bool
  | .i8 | .i16 | .i32 | .i64 => true
  | .n8 | .n16 | .n32 | .n64 | .f32 | .f16 | .bf16 | .e4m3 | .e5m2 | .cb8 | .e8m0 => false

/-- R141: the set F: .f32, .f16, .bf16. -/
def Ty.isF : Ty → Bool
  | .f32 | .f16 | .bf16 => true
  | .i8 | .i16 | .i32 | .i64 | .n8 | .n16 | .n32 | .n64 | .e4m3 | .e5m2 | .cb8 | .e8m0 => false

/-- R115: the floating formats. -/
def Ty.isFloat : Ty → Bool
  | .f32 | .f16 | .bf16 | .e4m3 | .e5m2 => true
  | .i8 | .i16 | .i32 | .i64 | .n8 | .n16 | .n32 | .n64 | .cb8 | .e8m0 => false

/-- R141: the set W, every code from 0x0 to 0xC. -/
def Ty.isW : Ty → Bool
  | .cb8 | .e8m0 => false
  | .i8 | .i16 | .i32 | .i64 | .n8 | .n16 | .n32 | .n64 | .f32 | .f16 | .bf16 | .e4m3 | .e5m2 => true

/-- R103: the type codes TSTM, MKPOP and MKFST take: every code but .cb8 and 0xF. -/
def Ty.isMaskTy (t : Ty) : Bool := t != .cb8

/-- R259: .i32 .n32 .i64 .n64. -/
def Ty.isAmo : Ty → Bool
  | .i32 | .n32 | .i64 | .n64 => true
  | .i8 | .i16 | .n8 | .n16 | .f32 | .f16 | .bf16 | .e4m3 | .e5m2 | .cb8 | .e8m0 => false

/-- R45: GP 0 with GN 1 is an illegal encoding. -/
def Guard.ok (g : Guard) : Bool := !(g.neg && g.p == 0)

/-- R39: ACQ or REL needs a SCOPE. -/
def Order.ok (o : Order) : Bool := !((o.acq || o.rel) && o.scope == .none)

/-- R39 and R185: ACQ may be used, REL may not. SCOPE without ACQ names a scope that orders nothing (DEDUCED, log 3). -/
def Order.acqOnly (o : Order) : Bool := o.ok && !o.rel

/-- R39: REL may be used, ACQ may not. -/
def Order.relOnly (o : Order) : Bool := o.ok && !o.acq

/-- R168: with SPACE 0 only SCOPE 0 or 1. -/
def Order.spaceOk (o : Order) (sp : Space) : Bool :=
  sp == .glob || o.scope == .none || o.scope == .core

/-- An Order none of whose fields is set. -/
def Order.zero : Order := ⟨.none, false, false⟩

/-- R94: TOK with C = 0 is an illegal encoding. -/
def tokOk (t : Tok) : Bool := t != some 0

/-- AMODE 0, 3 or 4 (R169, R258). -/
def AMode.isPlain : AMode → Bool
  | .base _ _ | .post _ | .off _ _ => true
  | .idx _ _ | .scaled _ _ => false

/-- AMODE 0 or 4 (R169, R258, R288). -/
def AMode.isBase : AMode → Bool
  | .base _ _ | .off _ _ => true
  | .post _ | .idx _ _ | .scaled _ _ => false

/-- The register number a vector source has in its field (R43). -/
def VSrc.code : VSrc → Nat
  | .reg v => v.val
  | .chan c => 32 + c.val

/-- R44: one even and one odd register, unless one is a channel. -/
def bankOk : VSrc → VSrc → Bool
  | .reg a, .reg b => a.val % 2 != b.val % 2
  | .chan _, .reg _ | .reg _, .chan _ | .chan _, .chan _ => true

/-- R44 for a second operand that may be an immediate. -/
def bankOkOp (a : VSrc) : VOp → Bool
  | .vec b => bankOk a b
  | .imm _ => true

/-- R139: the bits of IMM a lane value of the type may use. -/
def immOk (t : Ty) (v : BitVec 32) : Bool :=
  match t with
  | .f16 | .bf16 => v.toNat < 2 ^ 16
  | .e4m3 | .e5m2 => v.toNat < 2 ^ 8
  | .i8 | .i16 | .i32 | .i64 | .n8 | .n16 | .n32 | .n64 | .f32 | .cb8 | .e8m0 => true

/-- R139 for a second vector operand. -/
def VOp.ok (t : Ty) : VOp → Bool
  | .vec _ => true
  | .imm v => immOk t v

/-- R138, R141: RND is used by F types only. -/
def rndOk (t : Ty) (r : Rnd) : Bool := t.isF || r == .rne

/-- R142: VADD, VSUB, VMUL, VFMA, VFMS: F or I; .sat with I only; RND with F only. -/
def arithOk (t : Ty) (sat : Bool) (r : Rnd) : Bool :=
  (t.isF || t.isInt) && (!sat || t.isInt) && rndOk t r

/-- R160: the order of the floating formats by largest finite value: E4M3 448, E5M2 57344, FP16 65504, BF16, FP32. -/
def Ty.maxRank : Ty → Nat
  | .e4m3 => 0
  | .e5m2 => 1
  | .f16 => 2
  | .bf16 => 3
  | .f32 => 4
  | .i8 | .i16 | .i32 | .i64 | .n8 | .n16 | .n32 | .n64 | .cb8 | .e8m0 => 5

/-- R160: the type pairs of VSAT. -/
def vsatOk (t t2 : Ty) : Bool :=
  (t.isInt && t2.isInt && decide (t2.width ≤ t.width)) ||
  (t.isF && t2.isFloat && decide (t2.maxRank ≤ t.maxRank))

/-- R151: the type pairs and parts of VDEQ. -/
def vdeqOk (td ts : Ty) (part : Nat) : Bool :=
  match ts with
  | .cb8 => (td == .e4m3 || td.isF) && decide (part < 256 / (512 / td.width))
  | .e4m3 | .e5m2 => td.isF && decide (part < td.width / 8)
  | .i8 | .i16 | .i32 | .i64 | .n8 | .n16 | .n32 | .n64 | .f32 | .f16 | .bf16 | .e8m0 => false

/-- R191: the type pairs of MXMMA. -/
def mmaOk (ta tb : Ty) (h16 : Bool) : Bool :=
  match ta, tb with
  | .e4m3, .e4m3 | .e4m3, .e5m2 | .e5m2, .e4m3 | .e5m2, .e5m2 | .i8, .i8 | .e4m3, .cb8 => !h16
  | .bf16, .bf16 | .f16, .f16 => true
  | _, _ => false

/-- R110, R112 and the registers later chapters add: the special-register numbers that are assigned. -/
def sregAssigned (n : Nat) : Bool :=
  n ≤ 0x003 || (0x010 ≤ n && n ≤ 0x014) || n == 0x020 || n == 0x021 || (0x030 ≤ n && n ≤ 0x033) ||
  (0x040 ≤ n && n ≤ 0x042) || (0x050 ≤ n && n ≤ 0x054) || (0x060 ≤ n && n ≤ 0x06F) || n == 0x070 ||
  n == 0x080 || n == 0x081 || (0x090 ≤ n && n ≤ 0x09F) || (0x101 ≤ n && n ≤ 0x10A) ||
  (0x110 ≤ n && n ≤ 0x131) || (0x134 ≤ n && n ≤ 0x138)

/-- R156: a lane number in IMM lies below L. -/
def LaneSel.ok (t : Ty) : LaneSel → Bool
  | .imm n => decide (n.val < t.lanes)
  | .reg _ => true

/-- R213: SENDV's length and register run. -/
def sendvOk (b len : Nat) : Bool := decide (1 ≤ len ∧ b + (len + 3) / 4 - 1 ≤ 31)

/-- R156: VBCAST's operand. -/
def BCast.ok (t : Ty) : BCast → Bool
  | .scalar _ => true
  | .imm v => immOk t v
  | .lane _ n => decide (n.val < t.lanes)

/-- R146, R141: VAND to VSAR. -/
def vbitOk (t : Ty) (a : VSrc) (b : VOp) : Bool := t.isInt && bankOkOp a b && b.ok t

/-- R141: VABS and VNEG. -/
def vunOk (t : Ty) (sat : Bool) : Bool := (t.isF || t.isSigned) && (!sat || t.isInt)

/-- The legality of an instruction beyond its operand classes. Hardware events have no encoding and are well formed. -/
def wellFormed : Instr → Bool
  | .nop g | .trap g _ _ | .brk g _ | .resume g _ _ | .resumeAbort g _ _ => g.ok
  | .mfsr g _ n | .mtsr g n _ => g.ok && sregAssigned n.toNat
  | .wait g _ _ _ _ _ _ sp o => g.ok && o.acqOnly && (o.scope == .none || o.acq) && o.spaceOk sp
  | .waitClk g _ | .prio g _ _ => g.ok
  | .add g _ _ _ | .sub g _ _ _ | .mul g _ _ _ | .mulh g _ _ _ | .mulhu g _ _ _ | .div g _ _ _ | .divu g _ _ _
  | .rem g _ _ _ | .remu g _ _ _ | .and g _ _ _ | .or g _ _ _ | .xor g _ _ _ | .andn g _ _ _ | .shl g _ _ _
  | .shr g _ _ _ | .sar g _ _ _ | .rot g _ _ _ | .min g _ _ _ | .max g _ _ _ | .minu g _ _ _ | .maxu g _ _ _ => g.ok
  | .clz g _ _ | .ctz g _ _ | .popc g _ _ => g.ok
  | .ext g t _ _ => g.ok && t.isInt
  | .bfx g _ _ _ p l | .bfi g _ _ p l => g.ok && decide (p.val + l.val + 1 ≤ 64)
  | .li g _ _ _ | .lih g _ _ | .sel g _ _ _ _ | .cmp g _ _ _ _ | .plog g _ _ _ _ | .pmov g _ => g.ok
  | .tstm g _ t _ _ => g.ok && t.isMaskTy
  | .ptset g _ _ _ | .ptget g _ _ _ | .ptadv g _ _ _ => g.ok
  | .br g _ | .jal g _ _ | .jalr g _ _ _ => g.ok
  | .loop g d _ => g.ok && d != 0
  | .ld g t _ _ sp o => g.ok && t.isInt && o.acqOnly && o.spaceOk sp
  | .st g t _ _ sp o => g.ok && t.isInt && o.relOnly && o.spaceOk sp
  | .vld g t _ _ _ sp o => g.ok && t.isW && o.acqOnly && o.spaceOk sp
  | .vst g t _ _ _ sp o => g.ok && t.isW && o.relOnly && o.spaceOk sp
  | .vlds g t _ m _ _ sp o => g.ok && t.isW && m.isPlain && o.acqOnly && o.spaceOk sp
  | .vsts g t m _ _ _ sp o => g.ok && t.isW && m.isPlain && o.relOnly && o.spaceOk sp
  | .vgth g t it _ m _ _ sp o => g.ok && t.isW && it.isInt && decide (it.width ≤ t.width) && m.isBase && o.acqOnly && o.spaceOk sp
  | .vsct g t it m _ _ _ sp o => g.ok && t.isW && it.isInt && decide (it.width ≤ t.width) && m.isBase && o.relOnly && o.spaceOk sp
  | .amo g _ t _ _ _ sp o => g.ok && t.isAmo && o.ok && o.spaceOk sp
  | .amocas g t p m _ _ sp o => g.ok && t.isAmo && p != 0 && m.isPlain && o.ok && o.spaceOk sp
  | .amof g _ det d _ _ o => g.ok && (!det || d == 0) && o.ok
  | .vamof g _ it m _ _ _ o => g.ok && (it == .i32 || it == .n32) && m.isBase && o.ok
  | .drclose g _ _ sc => g.ok && (sc == .pkg || sc == .pod)
  | .ldf g _ p m o | .ldft g _ p m o => g.ok && p != 0 && m.isBase && o.acqOnly
  | .stf g p m _ o => g.ok && p != 0 && m.isBase && o.relOnly
  | .fence g sc => g.ok && sc != .none
  | .vadd g t sat r _ _ a b | .vsub g t sat r _ _ a b | .vmul g t sat r _ _ a b =>
    g.ok && arithOk t sat r && bankOkOp a b && b.ok t
  | .vfma g t sat r _ _ a b _ | .vfms g t sat r _ _ a b _ => g.ok && arithOk t sat r && bankOkOp a b && b.ok t
  | .vmin g t _ _ a b | .vmax g t _ _ a b => g.ok && (t.isF || t.isInt) && bankOkOp a b && b.ok t
  | .vabs g t sat _ _ _ | .vneg g t sat _ _ _ => g.ok && vunOk t sat
  | .vrcp g t _ _ _ _ | .vrsq g t _ _ _ _ | .vexp2 g t _ _ _ _ | .vlog2 g t _ _ _ _ => g.ok && t.isF
  | .vand g t _ _ a b | .vor g t _ _ a b | .vxor g t _ _ a b | .vshl g t _ _ a b | .vshr g t _ _ a b
  | .vsar g t _ _ a b => g.ok && vbitOk t a b
  | .vcmp g cond t _ _ a b => g.ok && (t.isF || (t.isInt && cond != .un)) && bankOkOp a b && b.ok t
  | .vsel g t _ _ a b => g.ok && t.isW && bankOk a b
  | .vcvt g td ts part _ _ _ _ _ => g.ok && td.isW && ts.isW &&
      decide (part.val < Nat.max ts.width td.width / Nat.min ts.width td.width)
  | .vqnt g td _ _ a b _ => g.ok && (td == .e4m3 || td == .e5m2) && bankOk a b
  | .vdeq g td ts part _ _ _ => g.ok && vdeqOk td ts part.val
  | .vscale g t k _ _ _ a b => g.ok && t.isF && decide (k.val ≤ 6) && bankOkOp a b &&
      (match b with | .imm v => decide (v.toNat < 256) | .vec _ => true)
  | .vred g op t r _ _ _ => g.ok && (t.isF || t.isInt) && rndOk t r &&
      (t.isInt || op == .add || op == .min || op == .max)
  | .vscan g _ _ t r _ _ _ b => g.ok && (t.isF || t.isInt) && rndOk t r &&
      (match b with | .imm v => immOk t v | .reg _ => true)
  | .vperm g t _ _ a b _ => g.ok && t.isW && bankOk a b
  | .vbcast g t _ _ f => g.ok && t.isW && f.ok t
  | .vins g t _ _ n | .vext g t _ _ n => g.ok && t.isW && n.ok t
  | .vmov g t _ _ _ => g.ok && t.isW
  | .vldi g t _ _ _ _ => g.ok && t.isInt
  | .vzip g t _ _ _ a b | .vunzip g t _ _ _ a b => g.ok && t.isW && bankOk a b
  | .vslide g t k _ _ a b => g.ok && t.isW && decide (k.val ≤ t.lanes) && bankOk a b
  | .vdot g t sat r _ _ a b _ => g.ok && bankOk a b &&
      (((t == .i8 || t == .n8) && r == .rne) || ((t == .e4m3 || t == .e5m2) && r == .rne && !sat) || ((t == .f16 || t == .bf16) && !sat))
  | .vsat g t t2 _ _ _ => g.ok && vsatOk t t2
  | .mkand g _ _ _ | .mkor g _ _ _ | .mkxor g _ _ _ | .mknot g _ _ => g.ok
  | .mkpop g t _ _ | .mkfst g t _ _ => g.ok && t.isMaskTy
  | .mkset g _ _ | .mkget g _ _ => g.ok
  | .mxcfgAscale g tok _ | .mxcfgAreset g tok => g.ok && tokOk tok
  | .mxld g tok _ _ _ o | .mxldv g tok _ _ _ _ o => g.ok && tokOk tok && o.acqOnly
  | .mxmma g tok ta tb h16 _ x y o => g.ok && tokOk tok && mmaOk ta tb h16 && o.acqOnly &&
      (match x, y with | .slot _, .slot _ => o == Order.zero | _, _ => true)
  | .mxzero g tok _ => g.ok && tokOk tok
  | .mxsca g tok ts ta _ _ a b => g.ok && tokOk tok && (ts == .e8m0 || ts == .f32) && (ta == .f32 || ta == .i32) && bankOk a b
  | .mxrd g tok d _ row lg => g.ok && tokOk tok && decide (lg.val ≤ 4 ∧ row.val + 2 ^ lg.val ≤ 16 ∧ d.val + 2 ^ lg.val ≤ 32)
  | .mxst g tok t sat _ _ _ _ _ o => g.ok && tokOk tok && (t == .f32 || t == .i32 || t == .bf16 || t == .f16) &&
      (!sat || t == .bf16 || t == .f16) && o.relOnly
  | .mxattn g tok _ _ _ _ o => g.ok && tokOk tok && o.acqOnly
  | .mxafin g tok _ _ o => g.ok && tokOk tok && o.relOnly
  | .mxwait g => g.ok
  | .mxprg g tok => g.ok && tokOk tok
  | .cpy g tok _ _ _ _ o | .cpyt g tok _ _ _ o | .cpy2d g tok _ _ _ o => g.ok && tokOk tok && o.ok
  | .ringcfg g tok _ _ _ | .ringcfgOff g tok _ | .rfwd g tok _ _ _ | .rfree g tok _ _ => g.ok && tokOk tok
  | .rsend g tok _ _ _ _ _ o => g.ok && tokOk tok && o.acqOnly
  | .send g _ _ b _ _ len => g.ok && (len.val != 0 || b == 0)
  | .sendv g _ _ b _ _ len => g.ok && sendvOk b.val len.val
  | .sendc g _ _ b _ _ len lines => g.ok && (len.val != 0 || b == 0) && decide (1 ≤ lines.val ∧ 64 * lines.val ≤ 16 * len.val)
  | .reply g b _ _ len => g.ok && (len.val != 0 || b == 0)
  | .reth g | .htset g _ _ _ _ _ | .qcfg g _ _ _ | .bindIn g _ _ | .bindOut g _ _ | .unbindIn g _ | .unbindOut g _ => g.ok
  | .chsend g _ _ o => g.ok && o.relOnly
  | .chtst g _ _ _ => g.ok
  | .bar g sc _ _ => g.ok && (sc == .core || sc == .cluster || sc == .sg || sc == .pkg)
  | .spawn g _ m _ | .thnew g _ m _ | .txsub g _ m _ | .txrst g _ m _ => g.ok && m.isBase
  | .thsplit g _ _ _ _ | .thjoin g _ _ | .thfrz g _ _ | .thfrzThaw g _ _ | .thfree g _ _ | .thinfo g _ _ _ => g.ok
  | .txnum g _ | .txnumOpen g _ | .txver g _ _ _ | .txabort g => g.ok
  | .activationStart _ _ _ | .porterActivation _ | .forcedIssue _ _ | .budgetTrap _ _ | .scoreboardWriteLands _ _ _
  | .tokenLands _ _ _ | .predicateResolves _ _ _ | .copyCommandStart _ | .matrixCommandStart _
  | .commandCompletion _ _ | .mxldvRowFault _ | .fsresp _ | .fsqIdx _ | .faultAnswerTimeout _ _ _
  | .lateReport _ _ _ _ | .drainComplete _ _ | .sendBufferDeparture _ _ | .messageArrival _ _ | .heapReplay _ _
  | .heapReplayResume _ _ | .agentPortPlacement _ _ | .agentPortRetry _ | .channelEntryArrival _ _ _ _ _
  | .creditReturn _ _ _ | .chtstTimeout _ _ _ | .waitWake _ _ | .waitPoll _ _ | .waitTimeout _ _
  | .barrierInheritance _ | .gangSlotReservation | .preemptPost _ _ | .preemptWithdraw _ _ | .homeAccess _
  | .remoteStoreResponse _ _ _ _ | .scopeMissReport _ _ _ | .detUpdateArrival _ | .birspArrival _ _ _
  | .hostMemWrite _ _ | .hostMemRead _ _ _ | .walkCompletion _ _ _ | .invalidationDoorbell _ | .invalidationCompletion
  | .correctedError _ | .selfTestResult _ _ | .offlnAck _ | .lmmapMoveComplete _ | .roundClose
  | .reservationAndNumbering | .closureArrival _ _ _ | .tenureRequestArrival _ _ | .tenureRequestResend _
  | .tenureGrant _ _ | .dispatch _ | .commitGrant _ _ | .homeReceipt _ _ _ | .tileOperationArrival _ _ _ _
  | .tileAnswer _ _ _ | .podTimeoutExpiry _ | .outOfServiceDeclaration _ _ | .podJoin _ _ | .joinNotice _
  | .joinRound _ _ | .flitReceive _ _ | .portRetrain _ _ _ | .portRecalibration _ | .hbmPhyRetrain _ _
  | .ringSetupNotice _ _ _ _ _ | .ringSetupAnswer _ _ _ | .ringBlockArrival _ _ _ _ | .ringBlockAck _ _ _
  | .ringReleaseArrival _ | .crateRelease _ _ _ | .ringSkipNotice _ _ | .ringTeardownNotice _ | .kick _ _
  | .cancel _ _ | .qctlResume _ | .qctlHold _ | .qctlRelease _ | .qctlEnable _ | .qctlDisable _
  | .queueDisableComplete _ | .packetRead _ | .packetReread _ | .nopPacket _ | .txnPacket _ | .msgPacket _
  | .launchPacket _ | .gangPacket _ | .waitsigPacket _ | .waitsigReread _ _ | .signalPacket _ | .fetchfencePacket _
  | .indirectPacket _ | .ringPacket _ | .packetCompletion _ _ _ | .taskTake _ | .taskSteal _ | .terminationSweep _
  | .liveUpdate _ | .liveUpdateHandover | .failover | .operatingPointChange _ | .thermalThrottle | .thermalRaise
  | .thermalTrip | .coreDrain _ | .coreDrainComplete _ | .coreReadmit _ | .cbData _ _ _ | .cbCtl _ _ | .bankRole _ _ _
  | .managementRegisterWrite _ _ | .packageReset _ | .tenureRelease _ _ | .managementWithdrawRequest
  | .illegalInstructionTrap => true

end Sys2Proof
end

