-- ==== Sys2Proof/Decode.lean ====
section
/-! DEFINITION. The 96-bit instruction word (R36): its fields, the reading of an instruction from them, and the encoder.
A word is an instruction exactly when the encoder gives it back from what was read and the instruction is well formed,
so that an unused field that is not zero, a reserved value and a register of the wrong class are refused alike (R37, R43, R50). -/
namespace Sys2Proof

/-- R36, R38, R42: the fields of an instruction word. -/
structure Fields where
  op : BitVec 8
  gn : Bool
  gp : Fin 8
  d : BitVec 6
  a : BitVec 6
  b : BitVec 6
  c : BitVec 6
  ty : BitVec 4
  ty2 : BitVec 4
  sub : BitVec 4
  immb : Bool
  scope : BitVec 3
  acq : Bool
  rel : Bool
  rnd : BitVec 3
  amode : BitVec 3
  space : Bool
  tok : Bool
  width : BitVec 2
  imm : BitVec 32
  deriving DecidableEq, Repr

/-- R36: bit n of the word. -/
def wordBit (w : IWord) (n : Nat) : Bool := w.getLsbD n

/-- R36, R38, R42: the fields of a word. -/
def unpack (w : IWord) : Fields where
  op := w.extractLsb' 88 8
  gn := wordBit w 87
  gp := (w.extractLsb' 84 3).toFin
  d := w.extractLsb' 78 6
  a := w.extractLsb' 72 6
  b := w.extractLsb' 66 6
  c := w.extractLsb' 60 6
  ty := w.extractLsb' 56 4
  ty2 := w.extractLsb' 52 4
  sub := w.extractLsb' 48 4
  immb := wordBit w 47
  scope := w.extractLsb' 44 3
  acq := wordBit w 43
  rel := wordBit w 42
  rnd := w.extractLsb' 39 3
  amode := w.extractLsb' 36 3
  space := wordBit w 35
  tok := wordBit w 34
  width := w.extractLsb' 32 2
  imm := w.extractLsb' 0 32

/-- R36, R38, R42: the word of the fields. -/
def pack (f : Fields) : IWord :=
  BitVec.ofNat 96 (f.op.toNat * 2 ^ 88 + f.gn.toNat * 2 ^ 87 + f.gp.val * 2 ^ 84 + f.d.toNat * 2 ^ 78 + f.a.toNat * 2 ^ 72 +
    f.b.toNat * 2 ^ 66 + f.c.toNat * 2 ^ 60 + f.ty.toNat * 2 ^ 56 + f.ty2.toNat * 2 ^ 52 + f.sub.toNat * 2 ^ 48 +
    f.immb.toNat * 2 ^ 47 + f.scope.toNat * 2 ^ 44 + f.acq.toNat * 2 ^ 43 + f.rel.toNat * 2 ^ 42 + f.rnd.toNat * 2 ^ 39 +
    f.amode.toNat * 2 ^ 36 + f.space.toNat * 2 ^ 35 + f.tok.toNat * 2 ^ 34 + f.width.toNat * 2 ^ 32 + f.imm.toNat)

/-! Codes of the enumerated fields. A code outside a table reads as some entry; encoding again shows the difference. -/

/-- R42: the code of a type. -/
def Ty.code : Ty → BitVec 4
  | .i8 => 0 | .i16 => 1 | .i32 => 2 | .i64 => 3 | .n8 => 4 | .n16 => 5 | .n32 => 6 | .n64 => 7
  | .f32 => 8 | .f16 => 9 | .bf16 => 10 | .e4m3 => 11 | .e5m2 => 12 | .cb8 => 13 | .e8m0 => 14

/-- R42: the type of a code. -/
def Ty.ofCode (c : BitVec 4) : Ty :=
  match c.toNat with
  | 1 => .i16 | 2 => .i32 | 3 => .i64 | 4 => .n8 | 5 => .n16 | 6 => .n32 | 7 => .n64
  | 8 => .f32 | 9 => .f16 | 10 => .bf16 | 11 => .e4m3 | 12 => .e5m2 | 13 => .cb8 | 14 => .e8m0 | _ => .i8

/-- R38: the code of a scope. -/
def Scope.code : Scope → BitVec 3
  | .none => 0 | .core => 1 | .cluster => 2 | .sg => 3 | .pkg => 4 | .pod => 5

/-- R38: the scope of a code. -/
def Scope.ofCode (c : BitVec 3) : Scope :=
  match c.toNat with
  | 1 => .core | 2 => .cluster | 3 => .sg | 4 => .pkg | 5 => .pod | _ => .none

/-- R38: the code of a rounding mode field. -/
def Rnd.code : Rnd → BitVec 3
  | .rne => 0 | .rtz => 1 | .rup => 2 | .rdn => 3 | .sto => 4 | .rmode => 5

/-- R38: the rounding mode field of a code. -/
def Rnd.ofCode (c : BitVec 3) : Rnd :=
  match c.toNat with
  | 1 => .rtz | 2 => .rup | 3 => .rdn | 4 => .sto | 5 => .rmode | _ => .rne

/-- R38: SPACE. -/
def Space.code : Space → Bool
  | .loc => false | .glob => true

/-- R38: SPACE. -/
def Space.ofCode : Bool → Space
  | false => .loc | true => .glob

/-- R87. -/
def WCond.code : WCond → BitVec 4
  | .eq => 0 | .ne => 1 | .ltu => 2 | .geu => 3

/-- R87. -/
def WCond.ofCode (c : BitVec 4) : WCond :=
  match c.toNat with
  | 1 => .ne | 2 => .ltu | 3 => .geu | _ => .eq

/-- R100. -/
def Cond.code : Cond → BitVec 4
  | .eq => 0 | .ne => 1 | .lt => 2 | .ge => 3 | .ltu => 4 | .geu => 5 | .tst => 6 | .ntst => 7

/-- R100. -/
def Cond.ofCode (c : BitVec 4) : Cond :=
  match c.toNat with
  | 1 => .ne | 2 => .lt | 3 => .ge | 4 => .ltu | 5 => .geu | 6 => .tst | 7 => .ntst | _ => .eq

/-- R101. -/
def POp.code : POp → BitVec 4
  | .and => 0 | .or => 1 | .xor => 2 | .andn => 3 | .nand => 4 | .nor => 5

/-- R101. -/
def POp.ofCode (c : BitVec 4) : POp :=
  match c.toNat with
  | 1 => .or | 2 => .xor | 3 => .andn | 4 => .nand | 5 => .nor | _ => .and

/-- R103. -/
def MCond.code : MCond → BitVec 4
  | .any => 0 | .all => 1 | .none => 2

/-- R103. -/
def MCond.ofCode (c : BitVec 4) : MCond :=
  match c.toNat with
  | 1 => .all | 2 => .none | _ => .any

/-- R106. -/
def PtGet.code : PtGet → BitVec 4
  | .addr => 0 | .base => 1 | .cur => 2 | .step => 3 | .limit => 4

/-- R106. -/
def PtGet.ofCode (c : BitVec 4) : PtGet :=
  match c.toNat with
  | 1 => .base | 2 => .cur | 3 => .step | 4 => .limit | _ => .addr

/-- R259. -/
def AmoOp.code : AmoOp → BitVec 4
  | .add => 0 | .and => 1 | .or => 2 | .xor => 3 | .min => 4 | .max => 5 | .swap => 6

/-- R259. -/
def AmoOp.ofCode (c : BitVec 4) : AmoOp :=
  match c.toNat with
  | 1 => .and | 2 => .or | 3 => .xor | 4 => .min | 5 => .max | 6 => .swap | _ => .add

/-- R154, R261: the operation in SUB[1:0]. -/
def FOp.code : FOp → Nat
  | .add => 0 | .min => 1 | .max => 2

/-- R154, R261: the operation in SUB[1:0]. -/
def FOp.ofCode (c : BitVec 4) : FOp :=
  match c.toNat % 4 with
  | 1 => .min | 2 => .max | _ => .add

/-- R147. -/
def VCond.code : VCond → BitVec 4
  | .eq => 0 | .ne => 1 | .lt => 2 | .le => 3 | .gt => 4 | .ge => 5 | .un => 6

/-- R147. -/
def VCond.ofCode (c : BitVec 4) : VCond :=
  match c.toNat with
  | 1 => .ne | 2 => .lt | 3 => .le | 4 => .gt | 5 => .ge | 6 => .un | _ => .eq

/-- R153. -/
def RedOp.code : RedOp → BitVec 4
  | .add => 0 | .min => 1 | .max => 2 | .and => 3 | .or => 4 | .xor => 5

/-- R153. -/
def RedOp.ofCode (c : BitVec 4) : RedOp :=
  match c.toNat with
  | 1 => .min | 2 => .max | 3 => .and | 4 => .or | 5 => .xor | _ => .add

/-- R295. -/
def ThSel.code : ThSel → BitVec 4
  | .state => 0 | .base => 1 | .bytes => 2 | .extent => 3 | .parent => 4 | .dims => 5 | .home => 6

/-- R295. -/
def ThSel.ofCode (c : BitVec 4) : ThSel :=
  match c.toNat with
  | 1 => .base | 2 => .bytes | 3 => .extent | 4 => .parent | 5 => .dims | 6 => .home | _ => .state

/-- log₂ of the byte width of a type (WIDTH of a scalar access, R169). -/
def Ty.wcode (t : Ty) : BitVec 2 :=
  match t.width with
  | 16 => 1 | 32 => 2 | 64 => 3 | _ => 0

/-! Writing fields. -/

/-- The fields of an opcode under a guard, all others zero. -/
def Fields.of (op : BitVec 8) (g : Guard) : Fields :=
  ⟨op, g.neg, g.p, 0, 0, 0, 0, 0, 0, 0, false, 0, false, false, 0, 0, false, false, 0, 0⟩

/-- A scalar, vector-destination or small register number in its field. -/
def fld {n : Nat} (x : Fin n) : BitVec 6 := BitVec.ofNat 6 x.val

/-- R43: a vector source in its field. -/
def VSrc.fld (v : VSrc) : BitVec 6 := BitVec.ofNat 6 v.code

/-- R41: operand B or IMM. -/
def Fields.withB (f : Fields) : Src → Fields
  | .reg r => { f with b := fld r }
  | .imm v => { f with immb := true, imm := v }

/-- R139: operand B or IMM. -/
def Fields.withVB (f : Fields) : VOp → Fields
  | .vec v => { f with b := v.fld }
  | .imm v => { f with immb := true, imm := v }

/-- R185: operand A, or IMM with A zero. -/
def Fields.withA (f : Fields) : Src → Fields
  | .reg r => { f with a := fld r }
  | .imm v => { f with immb := true, imm := v }

/-- R94: TOK with C. -/
def Fields.withTok (f : Fields) : Tok → Fields
  | none => f
  | some r => { f with tok := true, c := fld r }

/-- R40: the address fields. -/
def Fields.withMode (f : Fields) : AMode → Fields
  | .base a imm => { f with a := fld a, imm := imm }
  | .idx a b => { f with a := fld a, b := fld b, amode := 1 }
  | .scaled a b => { f with a := fld a, b := fld b, amode := 2 }
  | .post p => { f with a := fld p, amode := 3 }
  | .off p imm => { f with a := fld p, imm := imm, amode := 4 }

/-- R38: SCOPE, ACQ, REL. -/
def Fields.withOrd (f : Fields) (o : Order) : Fields := { f with scope := o.scope.code, acq := o.acq, rel := o.rel }

/-- R138: MSK and ZRO of a vector instruction. -/
def Fields.withMask (f : Fields) (z : MaskZ) : Fields := { f with amode := BitVec.ofNat 3 z.msk.val, space := z.zro }

/-- R169: the mask of a vector access in SUB. -/
def subMask (z : MaskZ) : BitVec 4 := BitVec.ofNat 4 (z.msk.val + 8 * z.zro.toNat)

/-- SUB of an operation code below 8 and the flag of SUB[3]. -/
def sub3 (n : Nat) (hi : Bool) : BitVec 4 := BitVec.ofNat 4 (n + 8 * hi.toNat)

/-- The word 0 or 1 of a one-bit SUB. -/
def sub1 (b : Bool) : BitVec 4 := BitVec.ofNat 4 b.toNat

/-- A two-operand scalar instruction (R98). -/
def encAlu (op : BitVec 8) (g : Guard) (d a : Sreg) (b : Src) : Option Fields :=
  some ({ Fields.of op g with d := fld d, a := fld a }.withB b)

/-- A two-operand vector instruction with a mask (R141). -/
def encV2 (op : BitVec 8) (g : Guard) (t : Ty) (sub : BitVec 4) (r : Rnd) (z : MaskZ) (d : BitVec 6) (a : VSrc) (b : VOp) : Fields :=
  (({ Fields.of op g with ty := t.code, sub := sub, rnd := r.code, d := d, a := a.fld }.withMask z).withVB b)

/-- A one-operand vector instruction with a mask (R141). -/
def encV1 (op : BitVec 8) (g : Guard) (t : Ty) (sub : BitVec 4) (r : Rnd) (z : MaskZ) (d : BitVec 6) (a : VSrc) : Fields :=
  { Fields.of op g with ty := t.code, sub := sub, rnd := r.code, d := d, a := a.fld }.withMask z

/-- R213: IMM of the send family. -/
def sendImm (hid : Fin 256) (q : Fin 8) (len : Fin 16) (lines : Nat) : BitVec 32 :=
  BitVec.ofNat 32 (hid.val + q.val * 2 ^ 8 + len.val * 2 ^ 11 + lines * 2 ^ 15)

/-- R87 to R377: the fields of an instruction. A hardware event has no encoding. -/
def encodeFields : Instr → Option Fields
  | .nop g => some (Fields.of 0x01 g)
  | .trap g nr imm => some { Fields.of 0x02 g with sub := sub1 nr, imm := imm }
  | .brk g code => some { Fields.of 0x03 g with imm := code.setWidth 32 }
  | .resume g d a => some { Fields.of 0x04 g with d := fld d, a := fld a }
  | .resumeAbort g d a => some { Fields.of 0x04 g with d := fld d, a := fld a, sub := 1 }
  | .mfsr g d n => some { Fields.of 0x05 g with d := fld d, imm := n.setWidth 32 }
  | .mtsr g n a => some { Fields.of 0x06 g with a := fld a, imm := n.setWidth 32 }
  | .wait g cond d a b c imm sp o =>
    some ({ Fields.of 0x07 g with sub := cond.code, d := fld d, a := fld a, b := fld b, c := fld c, imm := imm, width := 3, space := sp.code }.withOrd o)
  | .waitClk g c => some { Fields.of 0x07 g with sub := 4, c := fld c }
  | .prio g d b => some ({ Fields.of 0x08 g with d := fld d }.withB b)
  | .add g d a b => encAlu 0x10 g d a b
  | .sub g d a b => encAlu 0x11 g d a b
  | .mul g d a b => encAlu 0x12 g d a b
  | .mulh g d a b => encAlu 0x13 g d a b
  | .mulhu g d a b => encAlu 0x14 g d a b
  | .div g d a b => encAlu 0x15 g d a b
  | .divu g d a b => encAlu 0x16 g d a b
  | .rem g d a b => encAlu 0x17 g d a b
  | .remu g d a b => encAlu 0x18 g d a b
  | .and g d a b => encAlu 0x19 g d a b
  | .or g d a b => encAlu 0x1A g d a b
  | .xor g d a b => encAlu 0x1B g d a b
  | .andn g d a b => encAlu 0x1C g d a b
  | .shl g d a b => encAlu 0x1D g d a b
  | .shr g d a b => encAlu 0x1E g d a b
  | .sar g d a b => encAlu 0x1F g d a b
  | .rot g d a b => encAlu 0x20 g d a b
  | .min g d a b => encAlu 0x21 g d a b
  | .max g d a b => encAlu 0x22 g d a b
  | .minu g d a b => encAlu 0x23 g d a b
  | .maxu g d a b => encAlu 0x24 g d a b
  | .clz g d a => some { Fields.of 0x25 g with d := fld d, a := fld a }
  | .ctz g d a => some { Fields.of 0x26 g with d := fld d, a := fld a }
  | .popc g d a => some { Fields.of 0x27 g with d := fld d, a := fld a }
  | .ext g t d a => some { Fields.of 0x28 g with ty := t.code, d := fld d, a := fld a }
  | .bfx g s d a p l => some { Fields.of 0x29 g with sub := sub1 s, d := fld d, a := fld a, imm := BitVec.ofNat 32 (p.val + l.val * 2 ^ 8) }
  | .bfi g d a p l => some { Fields.of 0x2A g with d := fld d, a := fld a, imm := BitVec.ofNat 32 (p.val + l.val * 2 ^ 8) }
  | .li g z d imm => some { Fields.of 0x2B g with sub := sub1 z, d := fld d, imm := imm }
  | .lih g d imm => some { Fields.of 0x2C g with d := fld d, imm := imm }
  | .sel g d p a b => some ({ Fields.of 0x2D g with d := fld d, a := fld a, c := fld p }.withB b)
  | .cmp g cond d a b => some ({ Fields.of 0x30 g with sub := cond.code, d := fld d, a := fld a }.withB b)
  | .plog g op d a b => some { Fields.of 0x31 g with sub := op.code, d := fld d, a := fld a, b := fld b }
  | .pmov g f =>
    match f with
    | .mov d a => some { Fields.of 0x32 g with d := fld d, a := fld a }
    | .not d a => some { Fields.of 0x32 g with sub := 1, d := fld d, a := fld a }
    | .nz d a => some { Fields.of 0x32 g with sub := 2, d := fld d, a := fld a }
    | .get d a => some { Fields.of 0x32 g with sub := 3, d := fld d, a := fld a }
    | .imm d v => some { Fields.of 0x32 g with sub := 4, d := fld d, imm := BitVec.ofNat 32 v.toNat }
  | .tstm g cond t d m => some { Fields.of 0x33 g with sub := cond.code, ty := t.code, d := fld d, a := fld m }
  | .ptset g f d a =>
    match f with
    | .all b => some ({ Fields.of 0x34 g with d := fld d, a := fld a }.withB b)
    | .base => some { Fields.of 0x34 g with sub := 1, d := fld d, a := fld a }
    | .cur => some { Fields.of 0x34 g with sub := 2, d := fld d, a := fld a }
    | .step => some { Fields.of 0x34 g with sub := 3, d := fld d, a := fld a }
    | .limit => some { Fields.of 0x34 g with sub := 4, d := fld d, a := fld a }
  | .ptget g f d a => some { Fields.of 0x35 g with sub := f.code, d := fld d, a := fld a }
  | .ptadv g s d b => some ({ Fields.of 0x36 g with sub := sub1 s, d := fld d }.withB b)
  | .br g imm => some { Fields.of 0x38 g with imm := imm }
  | .jal g d imm => some { Fields.of 0x39 g with d := fld d, imm := imm }
  | .jalr g d a imm => some { Fields.of 0x3A g with d := fld d, a := fld a, imm := imm }
  | .loop g d imm => some { Fields.of 0x3B g with d := fld d, imm := imm }
  | .ld g t d m sp o => some (({ Fields.of 0x40 g with ty := t.code, width := t.wcode, d := fld d, space := sp.code }.withMode m).withOrd o)
  | .st g t m c sp o => some (({ Fields.of 0x41 g with ty := t.code, width := t.wcode, c := fld c, space := sp.code }.withMode m).withOrd o)
  | .vld g t d m z sp o => some (({ Fields.of 0x42 g with ty := t.code, sub := subMask z, d := fld d, space := sp.code }.withMode m).withOrd o)
  | .vst g t m c k sp o => some (({ Fields.of 0x43 g with ty := t.code, sub := BitVec.ofNat 4 k.val, c := c.fld, space := sp.code }.withMode m).withOrd o)
  | .vlds g t d m b z sp o =>
    some ({ ({ Fields.of 0x44 g with ty := t.code, sub := subMask z, d := fld d, space := sp.code }.withMode m) with b := fld b }.withOrd o)
  | .vsts g t m b c k sp o =>
    some ({ ({ Fields.of 0x45 g with ty := t.code, sub := BitVec.ofNat 4 k.val, c := c.fld, space := sp.code }.withMode m) with b := fld b }.withOrd o)
  | .vgth g t it d m b z sp o =>
    some ({ ({ Fields.of 0x46 g with ty := t.code, ty2 := it.code, sub := subMask z, d := fld d, space := sp.code }.withMode m) with b := b.fld }.withOrd o)
  | .vsct g t it m b c k sp o =>
    some ({ ({ Fields.of 0x47 g with ty := t.code, ty2 := it.code, sub := BitVec.ofNat 4 k.val, c := c.fld, space := sp.code }.withMode m) with b := b.fld }.withOrd o)
  | .amo g op t d m c sp o =>
    some (({ Fields.of 0x50 g with sub := op.code, ty := t.code, width := t.wcode, d := fld d, c := fld c, space := sp.code }.withMode m).withOrd o)
  | .amocas g t p m b c sp o =>
    some ({ ({ Fields.of 0x51 g with ty := t.code, width := t.wcode, d := fld p, c := fld c, space := sp.code }.withMode m) with b := fld b }.withOrd o)
  | .amof g op det d m c o =>
    some (({ Fields.of 0x52 g with ty := Ty.f32.code, sub := sub3 op.code det, width := 2, d := fld d, c := fld c, space := true }.withMode m).withOrd o)
  | .vamof g det it m b c k o =>
    some ({ ({ Fields.of 0x53 g with ty := Ty.f32.code, ty2 := it.code, sub := sub3 k.val det, c := c.fld, space := true }.withMode m) with b := b.fld }.withOrd o)
  | .drclose g d a sc => some { Fields.of 0x54 g with d := fld d, a := fld a, scope := sc.code }
  | .ldf g d p m o => some (({ Fields.of 0x58 g with d := fld d, c := fld p, width := 3, space := true }.withMode m).withOrd o)
  | .ldft g d p m o => some (({ Fields.of 0x59 g with d := fld d, c := fld p, width := 3, space := true }.withMode m).withOrd o)
  | .stf g p m c o => some (({ Fields.of 0x5A g with d := fld p, c := fld c, width := 3, space := true }.withMode m).withOrd o)
  | .fence g sc => some { Fields.of 0x5C g with scope := sc.code }
  | .vadd g t s r z d a b => some (encV2 0x60 g t (sub1 s) r z (fld d) a b)
  | .vsub g t s r z d a b => some (encV2 0x61 g t (sub1 s) r z (fld d) a b)
  | .vmul g t s r z d a b => some (encV2 0x62 g t (sub1 s) r z (fld d) a b)
  | .vfma g t s r z d a b c => some { encV2 0x63 g t (sub1 s) r z (fld d) a b with c := c.fld }
  | .vfms g t s r z d a b c => some { encV2 0x64 g t (sub1 s) r z (fld d) a b with c := c.fld }
  | .vmin g t z d a b => some (encV2 0x65 g t 0 .rne z (fld d) a b)
  | .vmax g t z d a b => some (encV2 0x66 g t 0 .rne z (fld d) a b)
  | .vabs g t s z d a => some (encV1 0x67 g t (sub1 s) .rne z (fld d) a)
  | .vneg g t s z d a => some (encV1 0x68 g t (sub1 s) .rne z (fld d) a)
  | .vrcp g t r z d a => some (encV1 0x69 g t 0 r z (fld d) a)
  | .vrsq g t r z d a => some (encV1 0x6A g t 0 r z (fld d) a)
  | .vexp2 g t r z d a => some (encV1 0x6B g t 0 r z (fld d) a)
  | .vlog2 g t r z d a => some (encV1 0x6C g t 0 r z (fld d) a)
  | .vand g t z d a b => some (encV2 0x6D g t 0 .rne z (fld d) a b)
  | .vor g t z d a b => some (encV2 0x6E g t 0 .rne z (fld d) a b)
  | .vxor g t z d a b => some (encV2 0x6F g t 0 .rne z (fld d) a b)
  | .vshl g t z d a b => some (encV2 0x70 g t 0 .rne z (fld d) a b)
  | .vshr g t z d a b => some (encV2 0x71 g t 0 .rne z (fld d) a b)
  | .vsar g t z d a b => some (encV2 0x72 g t 0 .rne z (fld d) a b)
  | .vcmp g cond t z d a b => some (encV2 0x73 g t cond.code .rne z (fld d) a b)
  | .vsel g t k d a b => some (encV2 0x74 g t 0 .rne ⟨k, false⟩ (fld d) a (.vec b))
  | .vcvt g td ts part s r z d a => some { encV1 0x75 g td (sub3 part.val s) r z (fld d) a with ty2 := ts.code }
  | .vqnt g td part d a b c => some { encV2 0x76 g td (sub1 part) .rne ⟨0, false⟩ (fld d) a (.vec b) with ty2 := Ty.f32.code, c := fld c }
  | .vdeq g td ts part z d a => some { encV1 0x77 g td (BitVec.ofNat 4 part.val) .rne z (fld d) a with ty2 := ts.code }
  | .vscale g t k r z d a b => some (encV2 0x78 g t (BitVec.ofNat 4 k.val) r z (fld d) a b)
  | .vred g op t r m d a => some (encV1 0x79 g t op.code r ⟨m, false⟩ (fld d) a)
  | .vscan g op ex t r z d a b => some ((encV1 0x7A g t (sub3 op.code ex) r z (fld d) a).withB b)
  | .vperm g t z d a b two =>
    match two with
    | none => some (encV2 0x7B g t 0 .rne z (fld d) a (.vec b))
    | some c => some { encV2 0x7B g t 1 .rne z (fld d) a (.vec b) with c := c.fld }
  | .vbcast g t z d f =>
    match f with
    | .scalar a => some ({ Fields.of 0x7C g with ty := t.code, d := fld d, a := fld a }.withMask z)
    | .imm v => some ({ Fields.of 0x7C g with ty := t.code, d := fld d, immb := true, imm := v }.withMask z)
    | .lane a n => some ({ Fields.of 0x7C g with ty := t.code, sub := 1, d := fld d, a := a.fld, imm := BitVec.ofNat 32 n.val }.withMask z)
  | .vins g t d a n =>
    match n with
    | .imm n => some { Fields.of 0x7D g with ty := t.code, d := fld d, a := fld a, imm := BitVec.ofNat 32 n.val }
    | .reg b => some { Fields.of 0x7D g with ty := t.code, sub := 1, d := fld d, a := fld a, b := fld b }
  | .vext g t d a n =>
    match n with
    | .imm n => some { Fields.of 0x7E g with ty := t.code, d := fld d, a := a.fld, imm := BitVec.ofNat 32 n.val }
    | .reg b => some { Fields.of 0x7E g with ty := t.code, sub := 1, d := fld d, a := a.fld, b := fld b }
  | .vmov g t z d a => some (encV1 0x7F g t 0 .rne z (fld d) a)
  | .vldi g t z d a imm => some ({ Fields.of 0x80 g with ty := t.code, d := fld d, a := fld a, imm := imm }.withMask z)
  | .vzip g t part z d a b => some (encV2 0x81 g t (sub1 part) .rne z (fld d) a (.vec b))
  | .vunzip g t part z d a b => some (encV2 0x82 g t (sub1 part) .rne z (fld d) a (.vec b))
  | .vslide g t k z d a b => some { encV2 0x83 g t 0 .rne z (fld d) a (.vec b) with imm := BitVec.ofNat 32 k.val }
  | .vdot g t s r z d a b c => some { encV2 0x84 g t (sub1 s) r z (fld d) a (.vec b) with c := c.fld }
  | .vsat g t t2 z d a => some { encV1 0x85 g t 0 .rne z (fld d) a with ty2 := t2.code }
  | .mkand g d a b => some { Fields.of 0x90 g with d := fld d, a := fld a, b := fld b }
  | .mkor g d a b => some { Fields.of 0x91 g with d := fld d, a := fld a, b := fld b }
  | .mkxor g d a b => some { Fields.of 0x92 g with d := fld d, a := fld a, b := fld b }
  | .mknot g d a => some { Fields.of 0x93 g with d := fld d, a := fld a }
  | .mkpop g t d a => some { Fields.of 0x94 g with ty := t.code, d := fld d, a := fld a }
  | .mkfst g t d a => some { Fields.of 0x95 g with ty := t.code, d := fld d, a := fld a }
  | .mkset g d a => some ({ Fields.of 0x96 g with d := fld d }.withA a)
  | .mkget g d a => some { Fields.of 0x97 g with d := fld d, a := fld a }
  | .mxcfgAscale g tok a => some ((Fields.of 0xA0 g).withA a |>.withTok tok)
  | .mxcfgAreset g tok => some ({ Fields.of 0xA0 g with sub := 1 }.withTok tok)
  | .mxld g tok f a b o =>
    match f with
    | .full s => some (({ Fields.of 0xA1 g with a := fld a, b := fld b, imm := BitVec.ofNat 32 s.val }.withTok tok).withOrd o)
    | .acc t => some (({ Fields.of 0xA1 g with sub := 1, a := fld a, b := fld b, imm := BitVec.ofNat 32 t.val }.withTok tok).withOrd o)
    | .r64 s => some (({ Fields.of 0xA1 g with sub := 2, a := fld a, b := fld b, imm := BitVec.ofNat 32 s.val }.withTok tok).withOrd o)
  | .mxldv g tok r64 s a b o =>
    some (({ Fields.of 0xA2 g with sub := BitVec.ofNat 4 (2 * r64.toNat), a := fld a, b := fld b, space := true, imm := BitVec.ofNat 32 s.val }.withTok tok).withOrd o)
  | .mxmma g tok ta tb h d x y o =>
    let f := (({ Fields.of 0xA3 g with ty := ta.code, ty2 := tb.code }.withTok tok).withOrd o)
    match x, y with
    | .slot x, .slot y => some { f with sub := BitVec.ofNat 4 (4 * h.toNat), imm := BitVec.ofNat 32 (d.val + x.val * 2 ^ 4 + y.val * 2 ^ 8) }
    | .loc x, .slot y => some { f with sub := BitVec.ofNat 4 (1 + 4 * h.toNat), a := fld x, imm := BitVec.ofNat 32 (d.val + y.val * 2 ^ 8) }
    | .slot x, .loc y => some { f with sub := BitVec.ofNat 4 (2 + 4 * h.toNat), b := fld y, imm := BitVec.ofNat 32 (d.val + x.val * 2 ^ 4) }
    | .loc x, .loc y => some { f with sub := BitVec.ofNat 4 (3 + 4 * h.toNat), a := fld x, b := fld y, imm := BitVec.ofNat 32 d.val }
  | .mxzero g tok mask => some ({ Fields.of 0xA4 g with imm := mask.setWidth 32 }.withTok tok)
  | .mxsca g tok ts ta d s a b =>
    some ({ Fields.of 0xA5 g with ty := ts.code, ty2 := ta.code, a := a.fld, b := b.fld, imm := BitVec.ofNat 32 (d.val + s.val * 2 ^ 4) }.withTok tok)
  | .mxrd g tok d s row lg =>
    some ({ Fields.of 0xA6 g with sub := BitVec.ofNat 4 lg.val, d := fld d, imm := BitVec.ofNat 32 (s.val + row.val * 2 ^ 8) }.withTok tok)
  | .mxst g tok t sat r s a b sp o =>
    some (({ Fields.of 0xA7 g with ty := t.code, sub := sub3 0 sat, rnd := r.code, a := fld a, b := fld b, space := sp.code, imm := BitVec.ofNat 32 s.val }.withTok tok).withOrd o)
  | .mxattn g tok q a b n o =>
    some (({ Fields.of 0xA8 g with ty := Ty.bf16.code, a := fld a, b := fld b, imm := BitVec.ofNat 32 (q.val + n.val * 2 ^ 8) }.withTok tok).withOrd o)
  | .mxafin g tok a b o => some (({ Fields.of 0xA9 g with a := fld a, b := fld b }.withTok tok).withOrd o)
  | .mxwait g => some (Fields.of 0xAA g)
  | .mxprg g tok => some ((Fields.of 0xAB g).withTok tok)
  | .cpy g tok dir d a b o => some ((({ Fields.of 0xB0 g with sub := BitVec.ofNat 4 dir.val, d := fld d, a := fld a }.withB b).withTok tok).withOrd o)
  | .cpy2d g tok a imm sp o => some (({ Fields.of 0xB1 g with a := fld a, imm := imm, space := sp.code }.withTok tok).withOrd o)
  | .cpyt g tok pk d a o => some (({ Fields.of 0xB2 g with sub := sub1 pk, d := fld d, a := fld a }.withTok tok).withOrd o)
  | .ringcfg g tok a imm sp => some ({ Fields.of 0xB4 g with a := fld a, imm := imm, space := sp.code }.withTok tok)
  | .ringcfgOff g tok ring => some ({ Fields.of 0xB4 g with sub := 1, imm := BitVec.ofNat 32 ring.val }.withTok tok)
  | .rsend g tok gl d ring a b o =>
    some (({ Fields.of 0xB5 g with sub := sub1 gl, d := fld d, a := fld a, b := fld b, imm := BitVec.ofNat 32 ring.val }.withTok tok).withOrd o)
  | .rfwd g tok d ring a => some ({ Fields.of 0xB6 g with d := fld d, a := fld a, imm := BitVec.ofNat 32 ring.val }.withTok tok)
  | .rfree g tok ring a => some ({ Fields.of 0xB7 g with a := fld a, imm := BitVec.ofNat 32 ring.val }.withTok tok)
  | .send g d a b hid q len => some { Fields.of 0xB8 g with d := fld d, a := fld a, b := fld b, imm := sendImm hid q len 0 }
  | .sendv g d a b hid q len => some { Fields.of 0xB9 g with d := fld d, a := fld a, b := fld b, imm := sendImm hid q len 0 }
  | .sendc g d a b hid q len lines => some { Fields.of 0xBA g with d := fld d, a := fld a, b := fld b, imm := sendImm hid q len lines.val }
  | .reply g b hid q len => some { Fields.of 0xBB g with b := fld b, imm := sendImm hid q len 0 }
  | .reth g => some (Fields.of 0xBC g)
  | .htset g d a b c id => some { Fields.of 0xBD g with d := fld d, a := fld a, b := fld b, c := fld c, imm := BitVec.ofNat 32 id.val }
  | .qcfg g d a q => some { Fields.of 0xBE g with d := fld d, a := fld a, imm := BitVec.ofNat 32 q.val }
  | .bindIn g n a => some { Fields.of 0xBF g with a := fld a, imm := BitVec.ofNat 32 n.val }
  | .bindOut g n a => some { Fields.of 0xBF g with sub := 1, a := fld a, imm := BitVec.ofNat 32 n.val }
  | .unbindIn g n => some { Fields.of 0xC0 g with imm := BitVec.ofNat 32 n.val }
  | .unbindOut g n => some { Fields.of 0xC0 g with sub := 1, imm := BitVec.ofNat 32 n.val }
  | .chsend g n a o => some ({ Fields.of 0xC1 g with a := a.fld, imm := BitVec.ofNat 32 n.val }.withOrd o)
  | .chtst g p n b => some ({ Fields.of 0xC2 g with d := fld p, a := BitVec.ofNat 6 (32 + n.val) }.withB b)
  | .bar g sc id b => some ({ Fields.of 0xC3 g with sub := BitVec.ofNat 4 id.val, scope := sc.code }.withB b)
  | .spawn g d m sp => some ({ Fields.of 0xC4 g with d := fld d, space := sp.code }.withMode m)
  | .thnew g d m sp => some ({ Fields.of 0xC8 g with d := fld d, space := sp.code }.withMode m)
  | .thsplit g dim d a b => some ({ Fields.of 0xC9 g with sub := BitVec.ofNat 4 dim.val, d := fld d, a := fld a }.withB b)
  | .thjoin g d a => some { Fields.of 0xCA g with d := fld d, a := fld a }
  | .thfrz g d a => some { Fields.of 0xCB g with d := fld d, a := fld a }
  | .thfrzThaw g d a => some { Fields.of 0xCB g with sub := 1, d := fld d, a := fld a }
  | .thfree g d a => some { Fields.of 0xCC g with d := fld d, a := fld a }
  | .thinfo g sel d a => some { Fields.of 0xCD g with sub := sel.code, d := fld d, a := fld a }
  | .txsub g d m sp => some ({ Fields.of 0xCE g with d := fld d, space := sp.code }.withMode m)
  | .txrst g d m sp => some ({ Fields.of 0xCF g with d := fld d, space := sp.code }.withMode m)
  | .txnum g d => some { Fields.of 0xD0 g with d := fld d }
  | .txnumOpen g d => some { Fields.of 0xD0 g with sub := 1, d := fld d }
  | .txver g nw d k => some { Fields.of 0xD1 g with sub := sub1 nw, d := fld d, imm := BitVec.ofNat 32 k.val }
  | .txabort g => some (Fields.of 0xD2 g)
  | .activationStart _ _ _ | .porterActivation _ | .forcedIssue _ _ | .budgetTrap _ _ | .scoreboardWriteLands _ _ _
  | .tokenLands _ _ _ | .predicateResolves _ _ _ | .copyCommandStart _ | .matrixCommandStart _
  | .commandCompletion _ _ | .mxldvRowFault _ | .fsresp _ | .fsqIdx _ | .faultAnswerTimeout _ _ _
  | .lateReport _ _ _ _ | .drainComplete _ _ | .sendBufferDeparture _ _ | .messageArrival _ _ | .heapReplay _ _
  | .heapReplayResume _ _ | .agentPortPlacement _ _ | .agentPortRetry _ | .channelEntryArrival _ _ _ _ _
  | .creditReturn _ _ _ | .chtstTimeout _ _ _ | .waitWake _ _ | .waitPoll _ _ | .waitTimeout _ _
  | .barrierInheritance _ | .gangSlotReservation | .preemptPost _ _ | .preemptWithdraw _ _ | .homeAccess _
  | .remoteStoreResponse _ _ _ _ | .scopeMissReport _ _ _ | .detUpdateArrival _ | .birspArrival _ _ _
  | .hostMemWrite _ _ | .hostMemRead _ _ _ | .walkCompletion _ _ _ | .invalidationDoorbell _ | .invalidationCompletion
  | .correctedError _ | .selfTestResult _ _ | .offlnAck _ | .lmmapMoveComplete _ | .roundClose
  | .reservationAndNumbering | .closureArrival _ _ _ | .tenureRequestArrival _ _ | .tenureRequestResend _
  | .tenureGrant _ _ | .dispatch _ | .commitGrant _ _ | .homeReceipt _ _ _ | .tileOperationArrival _ _ _ _
  | .tileAnswer _ _ _ | .podTimeoutExpiry _ | .outOfServiceDeclaration _ _ | .podJoin _ _ | .joinNotice _
  | .joinRound _ _ | .flitReceive _ _ | .portRetrain _ _ _ | .portRecalibration _ | .hbmPhyRetrain _ _
  | .ringSetupNotice _ _ _ _ _ | .ringSetupAnswer _ _ _ | .ringBlockArrival _ _ _ _ | .ringBlockAck _ _ _
  | .ringReleaseArrival _ | .crateRelease _ _ _ | .ringSkipNotice _ _ | .ringTeardownNotice _ | .kick _ _
  | .cancel _ _ | .qctlResume _ | .qctlHold _ | .qctlRelease _ | .qctlEnable _ | .qctlDisable _
  | .queueDisableComplete _ | .packetRead _ | .packetReread _ | .nopPacket _ | .txnPacket _ | .msgPacket _
  | .launchPacket _ | .gangPacket _ | .waitsigPacket _ | .waitsigReread _ _ | .signalPacket _ | .fetchfencePacket _
  | .indirectPacket _ | .ringPacket _ | .packetCompletion _ _ _ | .taskTake _ | .taskSteal _ | .terminationSweep _
  | .liveUpdate _ | .liveUpdateHandover | .failover | .operatingPointChange _ | .thermalThrottle | .thermalRaise
  | .thermalTrip | .coreDrain _ | .coreDrainComplete _ | .coreReadmit _ | .cbData _ _ _ | .cbCtl _ _ | .bankRole _ _ _
  | .managementRegisterWrite _ _ | .packageReset _ | .tenureRelease _ _ | .managementWithdrawRequest
  | .illegalInstructionTrap => none

/-! Reading fields. -/

/-- A scalar field. -/
def sregOf (x : BitVec 6) : Sreg := x.toFin
/-- A field of a predicate, mask or pointer. -/
def reg8Of (x : BitVec 6) : Fin 8 := Fin.ofNat 8 x.toNat
/-- A vector destination. -/
def vregOf (x : BitVec 6) : Vreg := Fin.ofNat 32 x.toNat
/-- R43: a vector source. -/
def vsrcOf (x : BitVec 6) : VSrc := if x.toNat < 32 then .reg (Fin.ofNat 32 x.toNat) else .chan (Fin.ofNat 8 (x.toNat - 32))

def Fields.guard (f : Fields) : Guard := ⟨f.gn, f.gp⟩
def Fields.sd (f : Fields) : Sreg := sregOf f.d
def Fields.sa (f : Fields) : Sreg := sregOf f.a
def Fields.sb (f : Fields) : Sreg := sregOf f.b
def Fields.sc (f : Fields) : Sreg := sregOf f.c
def Fields.pd (f : Fields) : Fin 8 := reg8Of f.d
def Fields.pa (f : Fields) : Fin 8 := reg8Of f.a
def Fields.pb (f : Fields) : Fin 8 := reg8Of f.b
def Fields.pc (f : Fields) : Fin 8 := reg8Of f.c
def Fields.vd (f : Fields) : Vreg := vregOf f.d
def Fields.va (f : Fields) : VSrc := vsrcOf f.a
def Fields.vb (f : Fields) : VSrc := vsrcOf f.b
def Fields.vc (f : Fields) : VSrc := vsrcOf f.c
def Fields.src (f : Fields) : Src := if f.immb then .imm f.imm else .reg f.sb
def Fields.srcA (f : Fields) : Src := if f.immb then .imm f.imm else .reg f.sa
def Fields.vop (f : Fields) : VOp := if f.immb then .imm f.imm else .vec f.vb
def Fields.token (f : Fields) : Tok := if f.tok then some f.sc else none
def Fields.ord (f : Fields) : Order := ⟨Scope.ofCode f.scope, f.acq, f.rel⟩
def Fields.spc (f : Fields) : Space := Space.ofCode f.space
def Fields.msk (f : Fields) : MaskZ := ⟨Fin.ofNat 8 f.amode.toNat, f.space⟩
def Fields.smsk (f : Fields) : MaskZ := ⟨Fin.ofNat 8 f.sub.toNat, f.sub.getLsbD 3⟩
def Fields.type (f : Fields) : Ty := Ty.ofCode f.ty
def Fields.type2 (f : Fields) : Ty := Ty.ofCode f.ty2
def Fields.round (f : Fields) : Rnd := Rnd.ofCode f.rnd
def Fields.flag0 (f : Fields) : Bool := f.sub.getLsbD 0
def Fields.flag3 (f : Fields) : Bool := f.sub.getLsbD 3
/-- The n-bit field of IMM at bit lo, for the bounds the instructions use. -/
def Fields.immField (f : Fields) (lo n : Nat) (h : 0 < n := by decide) : Fin n :=
  ⟨f.imm.toNat / 2 ^ lo % n, Nat.mod_lt _ h⟩

/-- R40: the address of AMODE. -/
def Fields.mode (f : Fields) : AMode :=
  match f.amode.toNat with
  | 1 => .idx f.sa f.sb
  | 2 => .scaled f.sa f.sb
  | 3 => .post f.pa
  | 4 => .off f.pa f.imm
  | _ => .base f.sa f.imm

/-- Opcodes 0x00 to 0x0F. -/
def cand0 (f : Fields) : Option Instr :=
  match f.op.toNat with
  | 0x01 => some (.nop f.guard)
  | 0x02 => some (.trap f.guard f.flag0 f.imm)
  | 0x03 => some (.brk f.guard (f.imm.setWidth 16))
  | 0x04 => if f.flag0 then some (.resumeAbort f.guard f.sd f.sa) else some (.resume f.guard f.sd f.sa)
  | 0x05 => some (.mfsr f.guard f.sd (f.imm.setWidth 12))
  | 0x06 => some (.mtsr f.guard (f.imm.setWidth 12) f.sa)
  | 0x07 => if f.sub.toNat = 4 then some (.waitClk f.guard f.sc)
            else some (.wait f.guard (WCond.ofCode f.sub) f.sd f.sa f.sb f.sc f.imm f.spc f.ord)
  | 0x08 => some (.prio f.guard f.sd f.src)
  | _ => none

/-- Opcodes 0x10 to 0x1F. -/
def cand1 (f : Fields) : Option Instr :=
  match f.op.toNat with
  | 0x10 => some (.add f.guard f.sd f.sa f.src)
  | 0x11 => some (.sub f.guard f.sd f.sa f.src)
  | 0x12 => some (.mul f.guard f.sd f.sa f.src)
  | 0x13 => some (.mulh f.guard f.sd f.sa f.src)
  | 0x14 => some (.mulhu f.guard f.sd f.sa f.src)
  | 0x15 => some (.div f.guard f.sd f.sa f.src)
  | 0x16 => some (.divu f.guard f.sd f.sa f.src)
  | 0x17 => some (.rem f.guard f.sd f.sa f.src)
  | 0x18 => some (.remu f.guard f.sd f.sa f.src)
  | 0x19 => some (.and f.guard f.sd f.sa f.src)
  | 0x1A => some (.or f.guard f.sd f.sa f.src)
  | 0x1B => some (.xor f.guard f.sd f.sa f.src)
  | 0x1C => some (.andn f.guard f.sd f.sa f.src)
  | 0x1D => some (.shl f.guard f.sd f.sa f.src)
  | 0x1E => some (.shr f.guard f.sd f.sa f.src)
  | 0x1F => some (.sar f.guard f.sd f.sa f.src)
  | _ => none

/-- Opcodes 0x20 to 0x2F. -/
def cand2 (f : Fields) : Option Instr :=
  match f.op.toNat with
  | 0x20 => some (.rot f.guard f.sd f.sa f.src)
  | 0x21 => some (.min f.guard f.sd f.sa f.src)
  | 0x22 => some (.max f.guard f.sd f.sa f.src)
  | 0x23 => some (.minu f.guard f.sd f.sa f.src)
  | 0x24 => some (.maxu f.guard f.sd f.sa f.src)
  | 0x25 => some (.clz f.guard f.sd f.sa)
  | 0x26 => some (.ctz f.guard f.sd f.sa)
  | 0x27 => some (.popc f.guard f.sd f.sa)
  | 0x28 => some (.ext f.guard f.type f.sd f.sa)
  | 0x29 => some (.bfx f.guard f.flag0 f.sd f.sa (f.immField 0 64) (f.immField 8 64))
  | 0x2A => some (.bfi f.guard f.sd f.sa (f.immField 0 64) (f.immField 8 64))
  | 0x2B => some (.li f.guard f.flag0 f.sd f.imm)
  | 0x2C => some (.lih f.guard f.sd f.imm)
  | 0x2D => some (.sel f.guard f.sd f.pc f.sa f.src)
  | _ => none

/-- R102: PMOV's forms. -/
def pmovOf (f : Fields) : PMov :=
  match f.sub.toNat with
  | 1 => .not f.pd f.pa
  | 2 => .nz f.pd f.sa
  | 3 => .get f.sd f.pa
  | 4 => .imm f.pd (f.imm.getLsbD 0)
  | _ => .mov f.pd f.pa

/-- R105: PTSET's forms. -/
def ptsetOf (f : Fields) : PtSet :=
  match f.sub.toNat with
  | 1 => .base
  | 2 => .cur
  | 3 => .step
  | 4 => .limit
  | _ => .all f.src

/-- Opcodes 0x30 to 0x3F. -/
def cand3 (f : Fields) : Option Instr :=
  match f.op.toNat with
  | 0x30 => some (.cmp f.guard (Cond.ofCode f.sub) f.pd f.sa f.src)
  | 0x31 => some (.plog f.guard (POp.ofCode f.sub) f.pd f.pa f.pb)
  | 0x32 => some (.pmov f.guard (pmovOf f))
  | 0x33 => some (.tstm f.guard (MCond.ofCode f.sub) f.type f.pd f.pa)
  | 0x34 => some (.ptset f.guard (ptsetOf f) f.pd f.sa)
  | 0x35 => some (.ptget f.guard (PtGet.ofCode f.sub) f.sd f.pa)
  | 0x36 => some (.ptadv f.guard f.flag0 f.pd f.src)
  | 0x38 => some (.br f.guard f.imm)
  | 0x39 => some (.jal f.guard f.sd f.imm)
  | 0x3A => some (.jalr f.guard f.sd f.sa f.imm)
  | 0x3B => some (.loop f.guard f.sd f.imm)
  | _ => none

/-- Opcodes 0x40 to 0x4F.  The index field of VGTH and VSCT takes a channel as every vector source does (R43),
though the table of R169 has 'v, indices' there and 'v or channel' for data (DEDUCED, log 61). -/
def cand4 (f : Fields) : Option Instr :=
  match f.op.toNat with
  | 0x40 => some (.ld f.guard f.type f.sd f.mode f.spc f.ord)
  | 0x41 => some (.st f.guard f.type f.mode f.sc f.spc f.ord)
  | 0x42 => some (.vld f.guard f.type f.vd f.mode f.smsk f.spc f.ord)
  | 0x43 => some (.vst f.guard f.type f.mode f.vc f.smsk.msk f.spc f.ord)
  | 0x44 => some (.vlds f.guard f.type f.vd f.mode f.sb f.smsk f.spc f.ord)
  | 0x45 => some (.vsts f.guard f.type f.mode f.sb f.vc f.smsk.msk f.spc f.ord)
  | 0x46 => some (.vgth f.guard f.type f.type2 f.vd f.mode f.vb f.smsk f.spc f.ord)
  | 0x47 => some (.vsct f.guard f.type f.type2 f.mode f.vb f.vc f.smsk.msk f.spc f.ord)
  | _ => none

/-- Opcodes 0x50 to 0x5F. -/
def cand5 (f : Fields) : Option Instr :=
  match f.op.toNat with
  | 0x50 => some (.amo f.guard (AmoOp.ofCode f.sub) f.type f.sd f.mode f.sc f.spc f.ord)
  | 0x51 => some (.amocas f.guard f.type f.pd f.mode f.sb f.sc f.spc f.ord)
  | 0x52 => some (.amof f.guard (FOp.ofCode f.sub) f.flag3 f.sd f.mode f.sc f.ord)
  | 0x53 => some (.vamof f.guard f.flag3 f.type2 f.mode f.vb f.vc f.smsk.msk f.ord)
  | 0x54 => some (.drclose f.guard f.sd f.sa (Scope.ofCode f.scope))
  | 0x58 => some (.ldf f.guard f.sd f.pc f.mode f.ord)
  | 0x59 => some (.ldft f.guard f.sd f.pc f.mode f.ord)
  | 0x5A => some (.stf f.guard f.pd f.mode f.sc f.ord)
  | 0x5C => some (.fence f.guard (Scope.ofCode f.scope))
  | _ => none

/-- Opcodes 0x60 to 0x6F. -/
def cand6 (f : Fields) : Option Instr :=
  match f.op.toNat with
  | 0x60 => some (.vadd f.guard f.type f.flag0 f.round f.msk f.vd f.va f.vop)
  | 0x61 => some (.vsub f.guard f.type f.flag0 f.round f.msk f.vd f.va f.vop)
  | 0x62 => some (.vmul f.guard f.type f.flag0 f.round f.msk f.vd f.va f.vop)
  | 0x63 => some (.vfma f.guard f.type f.flag0 f.round f.msk f.vd f.va f.vop f.vc)
  | 0x64 => some (.vfms f.guard f.type f.flag0 f.round f.msk f.vd f.va f.vop f.vc)
  | 0x65 => some (.vmin f.guard f.type f.msk f.vd f.va f.vop)
  | 0x66 => some (.vmax f.guard f.type f.msk f.vd f.va f.vop)
  | 0x67 => some (.vabs f.guard f.type f.flag0 f.msk f.vd f.va)
  | 0x68 => some (.vneg f.guard f.type f.flag0 f.msk f.vd f.va)
  | 0x69 => some (.vrcp f.guard f.type f.round f.msk f.vd f.va)
  | 0x6A => some (.vrsq f.guard f.type f.round f.msk f.vd f.va)
  | 0x6B => some (.vexp2 f.guard f.type f.round f.msk f.vd f.va)
  | 0x6C => some (.vlog2 f.guard f.type f.round f.msk f.vd f.va)
  | 0x6D => some (.vand f.guard f.type f.msk f.vd f.va f.vop)
  | 0x6E => some (.vor f.guard f.type f.msk f.vd f.va f.vop)
  | 0x6F => some (.vxor f.guard f.type f.msk f.vd f.va f.vop)
  | _ => none

/-- R156: VBCAST's forms. -/
def bcastOf (f : Fields) : BCast :=
  if f.immb then .imm f.imm else if f.flag0 then .lane f.va (f.immField 0 64) else .scalar f.sa

/-- R156: the lane of VINS and VEXT. -/
def laneOf (f : Fields) : LaneSel := if f.flag0 then .reg f.sb else .imm (f.immField 0 64)

/-- Opcodes 0x70 to 0x7F. -/
def cand7 (f : Fields) : Option Instr :=
  match f.op.toNat with
  | 0x70 => some (.vshl f.guard f.type f.msk f.vd f.va f.vop)
  | 0x71 => some (.vshr f.guard f.type f.msk f.vd f.va f.vop)
  | 0x72 => some (.vsar f.guard f.type f.msk f.vd f.va f.vop)
  | 0x73 => some (.vcmp f.guard (VCond.ofCode f.sub) f.type f.msk f.pd f.va f.vop)
  | 0x74 => some (.vsel f.guard f.type f.msk.msk f.vd f.va f.vb)
  | 0x75 => some (.vcvt f.guard f.type f.type2 f.smsk.msk f.flag3 f.round f.msk f.vd f.va)
  | 0x76 => some (.vqnt f.guard f.type f.flag0 f.vd f.va f.vb f.sc)
  | 0x77 => some (.vdeq f.guard f.type f.type2 f.sub.toFin f.msk f.vd f.va)
  | 0x78 => some (.vscale f.guard f.type f.sub.toFin f.round f.msk f.vd f.va f.vop)
  | 0x79 => some (.vred f.guard (RedOp.ofCode f.sub) f.type f.round f.msk.msk f.sd f.va)
  | 0x7A => some (.vscan f.guard (FOp.ofCode f.sub) f.flag3 f.type f.round f.msk f.vd f.va f.src)
  | 0x7B => some (.vperm f.guard f.type f.msk f.vd f.va f.vb (if f.flag0 then some f.vc else none))
  | 0x7C => some (.vbcast f.guard f.type f.msk f.vd (bcastOf f))
  | 0x7D => some (.vins f.guard f.type f.vd f.sa (laneOf f))
  | 0x7E => some (.vext f.guard f.type f.sd f.va (laneOf f))
  | 0x7F => some (.vmov f.guard f.type f.msk f.vd f.va)
  | _ => none

/-- Opcodes 0x80 to 0x9F. -/
def cand8 (f : Fields) : Option Instr :=
  match f.op.toNat with
  | 0x80 => some (.vldi f.guard f.type f.msk f.vd f.sa f.imm)
  | 0x81 => some (.vzip f.guard f.type f.flag0 f.msk f.vd f.va f.vb)
  | 0x82 => some (.vunzip f.guard f.type f.flag0 f.msk f.vd f.va f.vb)
  | 0x83 => some (.vslide f.guard f.type (f.immField 0 65) f.msk f.vd f.va f.vb)
  | 0x84 => some (.vdot f.guard f.type f.flag0 f.round f.msk f.vd f.va f.vb f.vc)
  | 0x85 => some (.vsat f.guard f.type f.type2 f.msk f.vd f.va)
  | 0x90 => some (.mkand f.guard f.pd f.pa f.pb)
  | 0x91 => some (.mkor f.guard f.pd f.pa f.pb)
  | 0x92 => some (.mkxor f.guard f.pd f.pa f.pb)
  | 0x93 => some (.mknot f.guard f.pd f.pa)
  | 0x94 => some (.mkpop f.guard f.type f.sd f.pa)
  | 0x95 => some (.mkfst f.guard f.type f.sd f.pa)
  | 0x96 => some (.mkset f.guard f.pd f.srcA)
  | 0x97 => some (.mkget f.guard f.sd f.pa)
  | _ => none

/-- R187: MXLD's forms. -/
def mxldOf (f : Fields) : MxLd :=
  if f.flag0 then .acc (f.immField 0 8) else if f.sub.getLsbD 1 then .r64 (f.immField 0 4) else .full (f.immField 0 4)

/-- R185: the A operand of MXMMA. -/
def mxOpA (f : Fields) : MxOp := if f.flag0 then .loc f.sa else .slot (f.immField 4 4)

/-- R185: the B operand of MXMMA. -/
def mxOpB (f : Fields) : MxOp := if f.sub.getLsbD 1 then .loc f.sb else .slot (f.immField 8 4)

/-- Opcodes 0xA0 to 0xAF. -/
def candA (f : Fields) : Option Instr :=
  match f.op.toNat with
  | 0xA0 => if f.flag0 then some (.mxcfgAreset f.guard f.token) else some (.mxcfgAscale f.guard f.token f.srcA)
  | 0xA1 => some (.mxld f.guard f.token (mxldOf f) f.sa f.sb f.ord)
  | 0xA2 => some (.mxldv f.guard f.token (f.sub.getLsbD 1) (f.immField 0 4) f.sa f.sb f.ord)
  | 0xA3 => some (.mxmma f.guard f.token f.type f.type2 (f.sub.getLsbD 2) (f.immField 0 8) (mxOpA f) (mxOpB f) f.ord)
  | 0xA4 => some (.mxzero f.guard f.token (f.imm.setWidth 8))
  | 0xA5 => some (.mxsca f.guard f.token f.type f.type2 (f.immField 0 8) (f.immField 4 8) f.va f.vb)
  | 0xA6 => some (.mxrd f.guard f.token f.vd (f.immField 0 8) (f.immField 8 16) (Fin.ofNat 8 f.sub.toNat))
  | 0xA7 => some (.mxst f.guard f.token f.type f.flag3 f.round (f.immField 0 8) f.sa f.sb f.spc f.ord)
  | 0xA8 => some (.mxattn f.guard f.token (f.immField 0 4) f.sa f.sb (f.immField 8 16) f.ord)
  | 0xA9 => some (.mxafin f.guard f.token f.sa f.sb f.ord)
  | 0xAA => some (.mxwait f.guard)
  | 0xAB => some (.mxprg f.guard f.token)
  | _ => none

/-- Opcodes 0xB0 to 0xBF. -/
def candB (f : Fields) : Option Instr :=
  match f.op.toNat with
  | 0xB0 => some (.cpy f.guard f.token (Fin.ofNat 4 f.sub.toNat) f.sd f.sa f.src f.ord)
  | 0xB1 => some (.cpy2d f.guard f.token f.sa f.imm f.spc f.ord)
  | 0xB2 => some (.cpyt f.guard f.token f.flag0 f.sd f.sa f.ord)
  | 0xB4 => if f.flag0 then some (.ringcfgOff f.guard f.token (f.immField 0 16)) else some (.ringcfg f.guard f.token f.sa f.imm f.spc)
  | 0xB5 => some (.rsend f.guard f.token f.flag0 f.sd (f.immField 0 16) f.sa f.sb f.ord)
  | 0xB6 => some (.rfwd f.guard f.token f.sd (f.immField 0 16) f.sa)
  | 0xB7 => some (.rfree f.guard f.token (f.immField 0 16) f.sa)
  | 0xB8 => some (.send f.guard f.sd f.sa f.sb (f.immField 0 256) (f.immField 8 8) (f.immField 11 16))
  | 0xB9 => some (.sendv f.guard f.sd f.sa (vregOf f.b) (f.immField 0 256) (f.immField 8 8) (f.immField 11 16))
  | 0xBA => some (.sendc f.guard f.sd f.sa f.sb (f.immField 0 256) (f.immField 8 8) (f.immField 11 16) (f.immField 15 4))
  | 0xBB => some (.reply f.guard f.sb (f.immField 0 256) (f.immField 8 8) (f.immField 11 16))
  | 0xBC => some (.reth f.guard)
  | 0xBD => some (.htset f.guard f.sd f.sa f.sb f.sc (f.immField 0 256))
  | 0xBE => some (.qcfg f.guard f.sd f.sa (f.immField 0 8))
  | 0xBF => if f.flag0 then some (.bindOut f.guard (f.immField 0 8) f.sa) else some (.bindIn f.guard (f.immField 0 8) f.sa)
  | _ => none

/-- Opcodes 0xC0 to 0xDF. -/
def candC (f : Fields) : Option Instr :=
  match f.op.toNat with
  | 0xC0 => if f.flag0 then some (.unbindOut f.guard (f.immField 0 8)) else some (.unbindIn f.guard (f.immField 0 8))
  | 0xC1 => some (.chsend f.guard (f.immField 0 8) f.va f.ord)
  | 0xC2 => some (.chtst f.guard f.pd (reg8Of f.a) f.src)
  | 0xC3 => some (.bar f.guard (Scope.ofCode f.scope) f.sub.toFin f.src)
  | 0xC4 => some (.spawn f.guard f.sd f.mode f.spc)
  | 0xC8 => some (.thnew f.guard f.sd f.mode f.spc)
  | 0xC9 => some (.thsplit f.guard (Fin.ofNat 4 f.sub.toNat) f.sd f.sa f.src)
  | 0xCA => some (.thjoin f.guard f.sd f.sa)
  | 0xCB => if f.flag0 then some (.thfrzThaw f.guard f.sd f.sa) else some (.thfrz f.guard f.sd f.sa)
  | 0xCC => some (.thfree f.guard f.sd f.sa)
  | 0xCD => some (.thinfo f.guard (ThSel.ofCode f.sub) f.sd f.sa)
  | 0xCE => some (.txsub f.guard f.sd f.mode f.spc)
  | 0xCF => some (.txrst f.guard f.sd f.mode f.spc)
  | 0xD0 => if f.flag0 then some (.txnumOpen f.guard f.sd) else some (.txnum f.guard f.sd)
  | 0xD1 => some (.txver f.guard f.flag0 f.sd (f.immField 0 16))
  | 0xD2 => some (.txabort f.guard)
  | _ => none

/-- R49: the instruction an opcode would name with these fields; none for an opcode of no instruction. -/
def candidate (f : Fields) : Option Instr :=
  match f.op.toNat / 16 with
  | 0x0 => cand0 f
  | 0x1 => cand1 f
  | 0x2 => cand2 f
  | 0x3 => cand3 f
  | 0x4 => cand4 f
  | 0x5 => cand5 f
  | 0x6 => cand6 f
  | 0x7 => cand7 f
  | 0x8 | 0x9 => cand8 f
  | 0xA => candA f
  | 0xB => candB f
  | 0xC | 0xD => candC f
  | _ => none

/-- R50: what a word is. -/
inductive Decoded where
  | instr (i : Instr)
  /-- R50: OP 0x00, 0xFF or a reserved value: the illegal-instruction trap. -/
  | illegalInstruction
  /-- R50: a reserved value, a non-zero unused field or a type not accepted: the illegal-encoding trap. -/
  | illegalEncoding
  deriving DecidableEq, Repr

/-- R37, R50: the decoder, total on any fields. -/
def decodeFields (f : Fields) : Decoded :=
  match candidate f with
  | none => .illegalInstruction
  | some i => if encodeFields i = some f ∧ wellFormed i = true then .instr i else .illegalEncoding

/-- R36, R50: the decoder, total on any word. -/
def decode (w : IWord) : Decoded := decodeFields (unpack w)

/-- The word of an instruction; none for a hardware event. -/
def encode (i : Instr) : Option IWord := (encodeFields i).map pack

/-- R26: the word that bytes at rising addresses hold, little-endian. -/
def wordOfBytes (bs : List Byte) : Nat := bs.foldr (fun b n => b.toNat + 256 * n) 0

/-- R26: the n bytes of a number, little-endian. -/
def bytesOf : Nat → Nat → List Byte
  | 0, _ => []
  | n + 1, x => BitVec.ofNat 8 x :: bytesOf n (x / 256)

/-- The instruction read from the twelve bytes of a slot (R26). -/
def decodeBytes (bs : List Byte) : Decoded := decode (BitVec.ofNat 96 (wordOfBytes bs))

/-- The instruction the decoder reads from an instruction whose low bits are w and whose bits from nbits up are zero. -/
def decodeTableWord (nbits w : Nat) : Option Instr :=
  match decodeBytes (bytesOf 12 (w % 2 ^ nbits)) with
  | .instr i => some i
  | .illegalInstruction | .illegalEncoding => none

/-- A mode field of BitVec width as an index. -/
theorem fld_toNat {n : Nat} (x : Fin n) (h : n ≤ 64) : (fld x).toNat = x.val := by
  have := x.isLt
  simp [fld]; omega

end Sys2Proof
end

