-- ==== Sys2Proof/Machine/Flags.lean ====
section
/-! DEFINITION. Number formats and rounding (R115 to R135): exact values, one rounding, and the FLAGS bits each rounding sets. -/
namespace Sys2Proof.Machine

/-! FLAGS (R113). -/

/-- R113: a set of FLAGS bits. -/
abbrev Flags := BitVec 10

def fIV : Flags := 1
def fDZ : Flags := 2
def fOF : Flags := 4
def fUF : Flags := 8
def fNX : Flags := 16
def fSAT : Flags := 32
def fQNT : Flags := 64
def fACCINF : Flags := 128
def fACCSAT : Flags := 256
def fDETLOST : Flags := 512

/-- A flag under a condition. -/
def flagIf (b : Bool) (f : Flags) : Flags := if b then f else 0

/-! Formats (R115). -/

/-- R115: a floating format: exponent bits, fraction bits, bias, largest finite code, and whether it has infinities. -/
structure Fmt where
  eb : Nat
  m : Nat
  bias : Nat
  maxCode : Nat
  hasInf : Bool
  nan : Nat
  deriving DecidableEq, Repr

/-- R115: the bits of the format. -/
def Fmt.width (f : Fmt) : Nat := 1 + f.eb + f.m

/-- R115: the smallest normal exponent. -/
def Fmt.emin (f : Fmt) : Int := 1 - (f.bias : Int)

def fp32 : Fmt := ⟨8, 23, 127, 0x7F7FFFFF, true, 0x7FC00000⟩
def fp16 : Fmt := ⟨5, 10, 15, 0x7BFF, true, 0x7E00⟩
def bf16 : Fmt := ⟨8, 7, 127, 0x7F7F, true, 0x7FC0⟩
def e4m3 : Fmt := ⟨4, 3, 7, 0x7E, false, 0x7F⟩
def e5m2 : Fmt := ⟨5, 2, 15, 0x7B, true, 0x7E⟩

/-- R115: the format of a floating type. -/
def tyFmt : Ty → Option Fmt
  | .f32 => some fp32
  | .f16 => some fp16
  | .bf16 => some bf16
  | .e4m3 => some e4m3
  | .e5m2 => some e5m2
  | .i8 | .i16 | .i32 | .i64 | .n8 | .n16 | .n32 | .n64 | .cb8 | .e8m0 => none

/-- An exact value: NaN, an infinity, or (−1)^neg × n / d × 2^e (zero when n = 0; d is never 0). -/
inductive FVal where
  | nan
  | inf (neg : Bool)
  | fin (neg : Bool) (n d : Nat) (e : Int)
  deriving DecidableEq, Repr

/-- R116: the value of an encoding. -/
def Fmt.val (f : Fmt) (code : Nat) : FVal :=
  let neg := code / 2 ^ (f.eb + f.m) % 2 = 1
  let e := code / 2 ^ f.m % 2 ^ f.eb
  let x := code % 2 ^ f.m
  if f.hasInf then
    if e = 2 ^ f.eb - 1 then (if x = 0 then .inf neg else .nan)
    else if e = 0 then .fin neg x 1 (f.emin - f.m)
    else .fin neg (2 ^ f.m + x) 1 ((e : Int) - f.bias - f.m)
  else
    if e = 2 ^ f.eb - 1 ∧ x = 2 ^ f.m - 1 then .nan
    else if e = 0 then .fin neg x 1 (f.emin - f.m)
    else .fin neg (2 ^ f.m + x) 1 ((e : Int) - f.bias - f.m)

/-- R119: the value of an E8M0 code. -/
def e8m0Val (c : Nat) : FVal := if c = 255 then .nan else .fin false 1 1 ((c : Int) - 127)

/-- An integer as an exact value. -/
def FVal.ofInt (x : Int) : FVal := .fin (decide (x < 0)) x.natAbs 1 0

/-- The sign bit of a format. -/
def Fmt.signBit (f : Fmt) (neg : Bool) : Nat := if neg then 2 ^ (f.eb + f.m) else 0

/-- The infinity of a format, for E4M3 the default NaN (R125). -/
def Fmt.infCode (f : Fmt) (neg : Bool) : Nat := if f.hasInf then f.signBit neg + (2 ^ f.eb - 1) * 2 ^ f.m else f.nan

/-- ±M. -/
def Fmt.maxSigned (f : Fmt) (neg : Bool) : Nat := f.signBit neg + f.maxCode

/-- Floor(log₂ (n / d)) for n, d > 0. -/
def log2Rat (n d : Nat) : Int :=
  let l : Int := (n.log2 : Int) - d.log2
  -- 2^l ≤ n / d, or the value lies one below
  let ge := if l ≥ 0 then decide (d * 2 ^ l.toNat ≤ n) else decide (d ≤ n * 2 ^ (-l).toNat)
  if ge then l else l - 1

/-- R124 step 3: the multiple of q = 2^k chosen by the mode for n / d × 2^e, as a count of q, and whether it is exact.
draw is the stochastic draw of R128. -/
def pick (mode : Nat) (draw : Nat) (neg : Bool) (n d : Nat) (e k : Int) : Nat × Bool :=
  let a := if e ≥ k then n * 2 ^ (e - k).toNat else n
  let b := if e ≥ k then d else d * 2 ^ (k - e).toNat
  let t := a / b
  let r := a % b
  if r = 0 then (t, true)
  else
    let up := match mode with
      | 0 => decide (2 * r > b) || (decide (2 * r = b) && t % 2 == 1)
      | 1 => false
      | 2 => !neg
      | 3 => neg
      | _ => decide ((a * 2 ^ 16 / b + draw) / 2 ^ 16 > t)
    (if up then t + 1 else t, false)

/-- R128: the advanced state of the stochastic generator. -/
def srAdvance (x : BitVec 32) : BitVec 32 :=
  let x := x ^^^ (x <<< 13)
  let x := x ^^^ (x >>> 17)
  x ^^^ (x <<< 5)

/-- R128: the draw of lane L from an advanced state. -/
def srDraw (x : BitVec 32) (lane : Nat) : Nat := ((x ^^^ BitVec.ofNat 32 (lane * 0x9E3779B9)) >>> 16).toNat

/-- R124, R125, R126: Round and RoundSat to a floating format, with the flags they set. -/
def roundTo (f : Fmt) (mode draw : Nat) (sat : Bool) : FVal → Nat × Flags
  | .nan => (f.nan, 0)
  | .inf neg =>
    if sat then (f.maxSigned neg, fSAT)
    else (f.infCode neg, flagIf (!f.hasInf) fIV)
  | .fin neg n d e =>
    if n = 0 then (f.signBit neg, 0)
    else
      let k := max (log2Rat n d + e) f.emin - f.m
      let (t, exact) := pick mode draw neg n d e k
      -- t × 2^k as an encoding without sign; a carry moves into the exponent
      let code := if t < 2 ^ f.m then t else ((k + f.m + f.bias).toNat * 2 ^ f.m) + (t - 2 ^ f.m)
      if code > f.maxCode then
        if sat then (f.maxSigned neg, fSAT ||| fNX)
        else
          let toMax := match mode with
            | 1 => true
            | 2 => neg
            | 3 => !neg
            | _ => false
          (if toMax then f.maxSigned neg else f.infCode neg, fOF ||| fNX)
      else (f.signBit neg + code, flagIf (!exact) fNX ||| flagIf (!exact && decide (code < 2 ^ f.m)) fUF)

/-! Integers (R119, R127). -/

/-- The least value of an integer type. -/
def tyLo (t : Ty) : Int := if t.isSigned then -(2 ^ (t.width - 1) : Int) else 0

/-- The greatest value of an integer type. -/
def tyHi (t : Ty) : Int := if t.isSigned then 2 ^ (t.width - 1) - 1 else 2 ^ t.width - 1

/-- An integer lane read as its type. -/
def tyInt (t : Ty) (code : Nat) : Int := if t.isSigned then sextInt code t.width else (code % 2 ^ t.width : Nat)

/-- Clamp to the range of an integer type: the code and SAT (R142). -/
def clampTo (t : Ty) (x : Int) : Nat × Flags :=
  if x < (tyLo t) then (truncInt (tyLo t) t.width, fSAT)
  else if x > (tyHi t) then (truncInt (tyHi t) t.width, fSAT)
  else (truncInt x t.width, 0)

/-- R127: Round and RoundSat to an integer type. -/
def roundToInt (t : Ty) (mode draw : Nat) : FVal → Nat × Flags
  | .nan => (0, fIV)
  | .inf neg => (truncInt (if neg then (tyLo t) else tyHi t) t.width, fSAT)
  | .fin neg n d e =>
    if n = 0 then (0, 0)
    else
      let (q, exact) := pick mode draw neg n d e 0
      let (c, fl) := clampTo t (if neg then -(q : Int) else q)
      (c, fl ||| flagIf (!exact) fNX)

/-! Exact arithmetic. -/

/-- The sign of a value. -/
def FVal.neg? : FVal → Bool
  | .nan => false
  | .inf s => s
  | .fin s _ _ _ => s

/-- The value with its sign changed. -/
def FVal.negate : FVal → FVal
  | .nan => .nan
  | .inf s => .inf (!s)
  | .fin s n d e => .fin (!s) n d e

/-- A zero. -/
def FVal.isZero : FVal → Bool
  | .fin _ n _ _ => n == 0
  | .nan | .inf _ => false

/-- R129, R131: the exact product; an infinity times zero is NaN and sets IV. -/
def fmul (x y : FVal) : FVal × Flags :=
  match x, y with
  | .nan, _ | _, .nan => (.nan, 0)
  | .inf a, .inf b => (.inf (a != b), 0)
  | .inf a, .fin b n _ _ => if n = 0 then (.nan, fIV) else (.inf (a != b), 0)
  | .fin a n _ _, .inf b => if n = 0 then (.nan, fIV) else (.inf (a != b), 0)
  | .fin a n d e, .fin b n' d' e' => (.fin (a != b) (n * n') (d * d') (e + e'), 0)

/-- The exact quotient with the special cases of IEEE 754 (R129, R199). -/
def fdiv (x y : FVal) : FVal × Flags :=
  match x, y with
  | .nan, _ | _, .nan => (.nan, 0)
  | .inf _, .inf _ => (.nan, fIV)
  | .inf a, .fin b _ _ _ => (.inf (a != b), 0)
  | .fin a _ _ _, .inf b => (.fin (a != b) 0 1 0, 0)
  | .fin a n d e, .fin b n' d' e' =>
    if n' = 0 then (if n = 0 then (.nan, fIV) else (.inf (a != b), fDZ))
    else (.fin (a != b) (n * d') (d * n') (e - e'), 0)

/-- The dyadic parts (signed numerator, exponent) of finite values; the values summed here have denominator 1. -/
def dyads : List FVal → List (Int × Int)
  | [] => []
  | .fin s n _ e :: t => (if s then -(n : Int) else n, e) :: dyads t
  | .nan :: t => dyads t
  | .inf _ :: t => dyads t

/-- The exact sum of dyadic parts over a common exponent. -/
def dyadSum (ts : List (Int × Int)) : Int × Int :=
  let e0 := ts.foldl (fun m t => if t.1 = 0 then m else min m t.2) 4096
  (ts.foldl (fun a t => if t.1 = 0 then a else a + t.1 * 2 ^ (t.2 - e0).toNat) 0, e0)

/-- R118, R131, R153: the exact sum of terms. group: a matrix group, VDOT or VRED, whose exact zero is +0 unless every term
is −0; otherwise an exact zero takes its sign by IEEE 754 in the mode. Opposite infinities are NaN and set IV; where a NaN stands beside
them IV is not set (DESIGN CHOICE, log 26: the bullets of R131 do not say which comes first, and R117 sets IV only without a NaN). -/
def fsum (group : Bool) (mode : Nat) (ts : List FVal) : FVal × Flags :=
  if ts.any (· == .nan) then (.nan, 0)
  else if ts.any (· == .inf false) && ts.any (· == .inf true) then (.nan, fIV)
  else if ts.any (· == .inf false) then (.inf false, 0)
  else if ts.any (· == .inf true) then (.inf true, 0)
  else
    let (a, e) := dyadSum (dyads ts)
    if a ≠ 0 then (.fin (decide (a < 0)) a.natAbs 1 e, 0)
    else
      let allZero := ts.all FVal.isZero
      let neg := match ts with
        | [] => false
        | t :: _ =>
          if allZero && ts.all (fun u => u.neg?) then true
          else if group then false
          else if allZero && ts.all (fun u => u.neg? == t.neg?) then t.neg?
          else mode == 3
      (.fin neg 0 1 0, 0)

/-- The exact value ordered: x < y for values that are not NaN, −0 below +0 (R142). -/
def fltOrd (x y : FVal) : Bool :=
  match x, y with
  | .nan, _ | _, .nan => false
  | .inf a, .inf b => a && !b
  | .inf a, .fin _ _ _ _ => a
  | .fin _ _ _ _, .inf b => !b
  | .fin a n d e, .fin b n' d' e' =>
    if n = 0 ∧ n' = 0 then a && !b
    else
      let x := (if a then -(n : Int) else n) * d'
      let y := (if b then -(n' : Int) else n') * d
      if e ≥ e' then decide (x * 2 ^ (e - e').toNat < y) else decide (x < y * 2 ^ (e' - e).toNat)

/-- R147: x < y as numbers, +0 and −0 equal; false with a NaN. -/
def flt (x y : FVal) : Bool := fltOrd x y && !(x.isZero && y.isZero)

/-- R142: FMin, as encodings of a format. -/
def fminC (f : Fmt) (a b : Nat) : Nat :=
  match f.val a, f.val b with
  | .nan, .nan => f.nan
  | .nan, _ => b
  | _, .nan => a
  | x, y => if fltOrd y x then b else a

/-- R142: FMax, as encodings of a format. -/
def fmaxC (f : Fmt) (a b : Nat) : Nat :=
  match f.val a, f.val b with
  | .nan, .nan => f.nan
  | .nan, _ => b
  | _, .nan => a
  | x, y => if fltOrd x y then b else a

/-! Roots, powers and logarithms (R145, R197). A value that is no rational is given by its first 400 bits and a half unit
below them: between the two lies no boundary of any rounding (log 11). -/

/-- The greatest r with r² ≤ n, bit by bit. -/
def isqrtAux : Nat → Nat → Nat → Nat
  | 0, r, _ => r
  | b + 1, r, n => isqrtAux b (if (r + 2 ^ b) ^ 2 ≤ n then r + 2 ^ b else r) n

/-- Floor(√n). -/
def isqrt (n : Nat) : Nat := isqrtAux (n.log2 / 2 + 1) 0 n

/-- R145: 1 / √(n × 2^e) for n > 0. -/
def rsqrtVal (n : Nat) (e : Int) : FVal :=
  let n' := if e % 2 = 0 then n else 2 * n
  let e' := if e % 2 = 0 then e else e - 1
  let k := n'.log2 + 48
  let q := 2 ^ (2 * k) / n'
  let r := isqrt q
  if r * r = q ∧ 2 ^ (2 * k) % n' = 0 then .fin false r 1 (-(k : Int) - e' / 2)
  else .fin false (2 * r + 1) 1 (-(k : Int) - e' / 2 - 1)

/-- ln 2 × 2^480, rounded down. -/
def ln2Fix : Nat := 0xb17217f7d1cf79abc9e3b39803f2f6af40f343267298b62d8a0d175b8baafa2be7b876206debac98559552fb4afa1b10ed2eae35c138214427573b29

/-- Terms of exp: term k is x^k / k! in units of 2^-480. -/
def expTerms : Nat → Nat → Nat → Nat → Nat → Nat
  | 0, _, _, acc, _ => acc
  | fuel + 1, x, term, acc, k => let t := term * x / 2 ^ 480 / k; expTerms fuel x t (acc + t) (k + 1)

/-- R145, R197: 2^y for y = (−1)^neg × n × 2^e not zero. Beyond 2^±4096, where no format's result changes, the power stays there. -/
def exp2Val (neg : Bool) (n : Nat) (e : Int) : FVal :=
  let y : Int := if neg then -(n : Int) else n
  if e ≥ 0 then .fin false 1 1 (max (min (y * 2 ^ e.toNat) 4096) (-4096))
  else
    let q : Int := 2 ^ (-e).toNat
    let fl := y / q
    let fr := y % q
    if fr = 0 then .fin false 1 1 fl
    else
      let x := fr.toNat * ln2Fix / q.toNat
      let v := expTerms 120 x (2 ^ 480) (2 ^ 480) 1
      .fin false (2 * (v / 2 ^ 80) + 1) 1 (fl - 401)

/-- Terms of the inverse hyperbolic tangent of z: z^(2k+1) / (2k+1) in units of 2^-480. -/
def atanhTerms : Nat → Nat → Nat → Nat → Nat → Nat
  | 0, _, _, acc, _ => acc
  | fuel + 1, z2, p, acc, k => atanhTerms fuel z2 (p * z2 / 2 ^ 480) (acc + p / k) (k + 2)

/-- R145, R199: log₂ (n × 2^e) for n > 0. -/
def log2Val (n : Nat) (e : Int) : FVal :=
  let l := n.log2
  if n = 2 ^ l then FVal.ofInt ((l : Int) + e)
  else
    let z := (n - 2 ^ l) * 2 ^ 480 / (n + 2 ^ l)
    let ln := 2 * atanhTerms 170 (z * z / 2 ^ 480) z 0 1
    let fix : Int := ((ln * 2 ^ 480 / ln2Fix : Nat) : Int) + ((l : Int) + e) * 2 ^ 480
    .fin (decide (fix < 0)) (2 * (fix.natAbs / 2 ^ 80) + 1) 1 (-401)

/-! CB8 (R120, R121). -/

/-- R121: the default content of row j of the codebook. -/
def cbDefault (j : Nat) : BitVec 32 :=
  let pair := fun (x e : Nat) => 1 + 2 * bits x (2 * (e % 4) + 1) (2 * (e % 4))
  BitVec.ofNat 32 ((List.range 8).foldl (fun a e => a + pair (if e < 4 then j else j ^^^ 0x1B) e * 2 ^ (4 * e)) 0)

/-- The ones of the low k bits of a number. -/
def onesIn : Nat → Nat → Nat
  | 0, _ => 0
  | k + 1, x => x % 2 + onesIn k (x / 2)

/-- R120: CbDecode of an index with its row. -/
def cbDecode (row : BitVec 32) (idx e : Nat) : FVal :=
  let k := bits row.toNat (4 * e + 3) (4 * e)
  let s := if e < 7 then bits idx (e + 1) (e + 1) else (idx + onesIn 7 (idx / 2)) % 2
  if k = 0 then .fin false 0 1 0 else .fin (s == 1) k 1 (-1)

/-! Matrix sums (R130 to R132). -/

/-- R130: the accumulate modes. -/
inductive AccMode where
  | fp32 | fp16 | int32
  deriving DecidableEq, Repr

/-- R130 to R132: AccRound. -/
def accRound (m : AccMode) (x : FVal) : Nat × Flags :=
  match m with
  | .fp32 =>
    let (c, f) := roundTo fp32 0 0 false x
    (c, flagIf (f &&& fOF != 0) fACCINF)
  | .fp16 =>
    let (c, f) := roundTo fp16 0 0 true x
    -- the accumulator holds an FP32 encoding (R186)
    ((roundTo fp32 0 0 false (fp16.val c)).1, flagIf (f &&& fSAT != 0) fACCSAT)
  | .int32 => (0, 0)

/-- R130, R131: one group in a floating mode. -/
def accGroup (m : AccMode) (acc : Nat) (prods : List (FVal × Flags)) : Nat × Flags :=
  let (s, f) := fsum true 0 (prods.map (·.1))
  let (r, f1) := accRound m s
  let (t, f2) := fsum false 0 [fp32.val r, fp32.val acc]
  let (c, f3) := accRound m t
  (c, prods.foldl (fun a p => a ||| p.2) 0 ||| f ||| f1 ||| f2 ||| f3)

/-- R132: one group in INT32 mode. -/
def accGroupInt (acc : Nat) (prods : List Int) : Nat × Flags :=
  let (c, f) := clampTo .i32 (sextInt acc 32 + prods.foldl (· + ·) 0)
  (c, flagIf (f != 0) fACCSAT)

/-- R135: the scale exponent of a VQNT block, none for a block with a NaN. -/
def qntExp (emax : Int) (xs : List FVal) : Option Int :=
  if xs.any (· == .nan) then none
  else
    let logs := xs.filterMap (fun x => match x with
      | .fin _ n d e => if n = 0 then none else some (log2Rat n d + e)
      | .nan | .inf _ => none)
    match logs with
    | [] => if xs.any (fun x => x == .inf false || x == .inf true) then some 0 else some (-127)
    | l :: ls => some (max (ls.foldl max l - emax) (-127))

/-- R135: VQNT of a block: the elements, the scale code, the flags. -/
def quantise (f : Fmt) (emax : Int) (xs : List FVal) : List Nat × Nat × Flags :=
  match qntExp emax xs with
  | none => (xs.map (fun _ => f.nan), 0xFF, 0)
  | some e =>
    let rs := xs.map (fun x => match x with
      | .inf neg => (f.maxSigned neg, fQNT)
      | .fin s n d k => roundTo f 0 0 true (.fin s n d (k - e))
      | .nan => (f.nan, 0))
    (rs.map (·.1), (e + 127).toNat, rs.foldl (fun a r => a ||| r.2) 0)

end Sys2Proof.Machine
end

