-- ==== Sys2Proof/Config.lean ====
section
/-! DEFINITION. What one machine fixes and what the spec leaves open. A constant marked opaque has no body: nothing can
be proved of its value. Applied to the plain counter of State it is a fresh value each time. -/
namespace Sys2Proof.Config

/-- R15, R323: the package id of the modelled package, fixed when the pod is formed (DESIGN CHOICE 0, log 5). -/
def pkg : Nat := 0

/-- A free value: an undefined engine result, an undefined byte (R184, R190; DESIGN CHOICE: left free, log 6). -/
opaque freeVec : Nat → Vec

/-- A free choice between two outcomes the spec allows (R173, R177, R233, R234, R239; DESIGN CHOICE: left free, log 6). -/
opaque freeBool : Nat → Bool

/-- A free number for one of several choices, by the model's count of choices and what the choice is about: an address, an
index (R232 to R234, R246, R248; DESIGN CHOICE: left free, log 6). -/
opaque freeNat : Nat → Nat → Nat

/-- R306: what the lock manager of another package answers of a handle, for as long as the handle is not stale: TileBytes, by which it is
one more than this modulo 262,144, whether DOMAIN is pod, and whether two handles are related (DESIGN CHOICE: left free, log 6). -/
opaque farTileBytes : Nat → Nat
opaque farTilePod : Nat → Bool
opaque farRelated : Nat → Nat → Bool

/-- R35: whether an activation sees the stores made to its own code line since it started, by the model's count of choices
and the line's address (DESIGN CHOICE: left free, log 18). -/
opaque seesStore : Nat → Nat → Bool

/-- A byte of host memory that no write of the model has set (R238; DESIGN CHOICE: left free, log 7). -/
opaque hostByte : Nat → Byte

/-- R207, R214: the code address the firmware loads for handler ids 0 to 2 (DESIGN CHOICE: left free, log 8). -/
opaque firmwarePc : Nat → Word

/-- R358: the version numbers of the front end, which the spec gives no value (DESIGN CHOICE: left free, log 9). -/
opaque feVersion : Nat → BitVec 16

end Sys2Proof.Config
end

