-- ==== Sys2Proof/Machine/State.lean ====
section
/-! DEFINITION. The state of one package of the pod as plain data, and State.reset. Every table is a sparse map in
canonical form (Sparse.lean). Reset values are the spec's; one that a log entry names is said so beside the field. -/
namespace Sys2Proof.Machine

/-! Small records. -/

/-- R104: a pointer register. -/
structure Ptr where
  base : Word := 0
  cur : Word := 0
  step : BitVec 32 := 0
  limit : BitVec 32 := 0
  deriving DecidableEq, Repr

/-- R108, R222: an entry of a channel: 64 bytes, the scope of its release, the writer (global core × 8 + slot) and its port. -/
structure ChanEntry where
  data : Vec
  rel : Scope
  writer : Nat
  port : Nat
  deriving DecidableEq, Repr

/-- R93, R363: what kind of producer holds a scoreboard entry. -/
inductive SbKind where
  | load | vload | atomic | pred | token | arith | mfsr
  deriving DecidableEq, Repr

/-- R363: the class of the register a scoreboard entry writes. -/
inductive SbClass where
  | scalar | vector | pred
  deriving DecidableEq, Repr

/-- R93: one register write that has been issued and has not landed. value is its result once the producer has given it. -/
structure SbEntry where
  id : Nat
  kind : SbKind
  cls : SbClass
  reg : Nat
  pc : Word
  addr : Word
  lease : Bool
  value : Option Vec
  /-- R364: the producer failed: cause and address. -/
  fail : Option (Nat × Word)
  /-- R264: the future cell an LDFT has taken the value from -/
  cell : Option Nat
  /-- R261: the flags set when the result returns -/
  flags : BitVec 10
  deriving DecidableEq, Repr

/-- R223: a CHTST whose predicate is pending: its scoreboard entry, channel, start and limit. -/
structure ChTest where
  id : Nat
  chan : Nat
  t0 : Word
  lim : Word
  deriving DecidableEq, Repr

/-- R363: the record registers of a slot. saved are the entries that RESUME settles (R364). -/
structure FaultRec where
  cause : Word := 0
  addr : Word := 0
  pc : Word := 0
  msg : Word := 0
  sb : Word := 0
  sbe : SMap Word := []
  sba : SMap Word := []
  rpc : Word := 0
  saved : List SbEntry := []
  /-- R363: the entries in the order of FAULT_SBEn -/
  ids : List Nat := []
  /-- R365: CYCLE and the wall time at the fault, and whether the driver has been told -/
  cycle : Word := 0
  since : Nat := 0
  forwarded : Bool := false
  /-- R364: FLAGS bits that commands and late results have set since the slot stopped -/
  flags : BitVec 10 := 0
  deriving DecidableEq, Repr

/-- R64: the states of a slot that are held. Waiting by a hazard of R73 is computed, not held. -/
inductive SlotMode where
  | free | running | faultService | draining
  deriving DecidableEq, Repr

/-- R73: what a slot that has issued its instruction waits for. The instruction is complete when the wait ends. -/
inductive WaitOn where
  | none
  /-- R88 -/
  | bar (gid id : Nat)
  /-- R87: a memory wait: D, condition, operands, limit, start; next poll clock; asid and order kept by the instruction. -/
  | mem (d : Sreg) (cond : WCond) (addr cmp lim t0 poll : Word) (sp : Space) (acq : Scope)
  /-- R87: wait.clk -/
  | clk (lim t0 : Word)
  /-- R200: MXWAIT, ends when its command completes; the PC has passed it. -/
  | mx
  /-- R264: an LDF or LDFT deferred at a home slice. -/
  | future (sb : Nat)
  /-- R288: a tile operation whose answer is awaited; D, the handle, and the home package. -/
  | tile (d : Sreg) (handle : Word) (pkg : Nat)
  /-- R288, R364: its answer, come while the slot was stopped. -/
  | tileGot (d : Sreg) (handle : Word) (a : TileAns)
  /-- R337: the instruction at the PC waits for a back-invalidation of this line and then issues again. -/
  | line (n : Nat)
  /-- R248, R255, R257, R286: the instruction at the PC waits for a store at its home or an acknowledgement and then issues again. -/
  | home
  /-- R164: an MTSR to BANK_ROLE waits for the engines' earlier commands -/
  | role
  /-- R250, R262: a VAMOF with an acquire waits for the lanes that are held at their homes; the PC has passed it. -/
  | lanes
  deriving DecidableEq, Repr

/-- R95: a command that ended with a non-zero code and no token. -/
structure CmdError where
  engine : Engine
  unit : Nat
  code : Nat
  pc : Word
  /-- R362: the FAULT_ADDR of its fault -/
  addr : Word := 0
  deriving DecidableEq, Repr

/-- R254: a command that the activation has issued: its place in the order of commands, its token register, whether its engine is the
matrix engine. -/
structure CmdNote where
  ord : Nat
  tok : Option Nat
  matrix : Bool
  deriving DecidableEq, Repr

/-- R312: an accepted submission and where it came from. -/
structure Submission where
  desc : List Byte
  asid : Nat
  /-- the packet that submitted it: queue and started-packet id, or none for a core -/
  packet : Option (Nat × Nat)
  /-- R296: the handler slot that submitted it (core × 8 + slot), or none -/
  owner : Option Nat
  /-- R306: TileBytes of each named tile, as the sequencer has learnt it at submission -/
  sizes : List Nat
  deriving DecidableEq, Repr

/-- R368: how a draining activation ends. -/
inductive Ending where
  | reth
  | fault (cause : Nat) (noretry : Bool)
  deriving DecidableEq, Repr

/-- R60: an item of the porter's work list. -/
inductive WorkItem where
  | spill (queue : Nat) (m : Message)
  | replay (queue : Nat)
  | service (slot : Nat)
  | engService (e : Engine)
  | answer (abort : Bool) (eng : Option Engine) (slot : Nat)
  /-- R60: a fault whose service activation has ended by an aborting fault -/
  | forward (slot : Nat)
  | engForward (e : Engine)
  | bookkeeping
  /-- R60: the core is taken out of service, after a fault of bookkeeping -/
  | leaveService
  /-- R60: a message whose spill write has failed, and a replay whose record could not be read -/
  | spillFailed (queue : Nat) (m : Message)
  | replayFailed (queue : Nat)
  deriving DecidableEq, Repr

/-- R61, R204: the running activation of a slot. -/
structure Activation where
  serial : Nat
  /-- the inbox queue that started it; none for the porter -/
  queue : Option Nat
  msg : Message
  hid : Nat
  /-- R110: handler id 0 to 15, or the porter -/
  system : Bool
  /-- R309: the number of its transaction, and whether it started at the restart entry -/
  txn : Option Nat
  restart : Bool
  abortMark : Bool := false
  rstMark : Bool := false
  gang : Option Nat
  launch : Option Nat
  heldSubs : List Submission := []
  detSeq : Nat := 0
  errs : List CmdError := []
  /-- R241, R255: the failed store that is first in issue order: cause, virtual address, place in issue order -/
  storeFail : Option (Nat × Word × Nat) := none
  /-- R253: a scope miss to be raised -/
  scopeMiss : Option Word := none
  /-- R255: posted remote stores: identity, virtual address -/
  posted : List (Nat × Word) := []
  ending : Option Ending := none
  /-- R33: its first issue unit is still to be judged as an entry -/
  atEntry : Bool := false
  /-- R171: the lanes of a vector access already performed before a resumable fault, and what its loads gave -/
  lanesDone : Nat := 0
  lanesVal : Vec := 0
  /-- R87: t0 of a WAIT that a resumable fault interrupted -/
  waitT0 : Option Word := none
  /-- R108: channel entries popped by an instruction that a resumable fault stopped -/
  popped : List Vec := []
  /-- R332: the ring and block number that a waiting RSEND or RFWD has taken -/
  ringNum : Option (Nat × Nat) := none
  /-- R48: what the special register of the MFSR at the PC, the second instruction of a pair, held before the pair issued -/
  pairSr : Option Word := none
  /-- R254: the commands whose token the activation has not read; those whose writes are earlier stores of the slot, for it has read
  their token or passed an MXWAIT behind them -/
  cmds : List CmdNote := []
  joined : List Nat := []
  /-- R313, R371: its uncorrectable-error fault came from its core's local banks or registers -/
  ownErr : Bool := false
  deriving DecidableEq, Repr

/-- R371: the class of a register that may hold an error. -/
inductive RegClass where
  | scalar | vector | pred | mask | ptr | special
  deriving DecidableEq, Repr

/-- R59, R90: a slot: its standing, its register file, its special registers. -/
structure Slot where
  mode : SlotMode := .free
  act : Option Activation := none
  wait : WaitOn := .none
  pc : Word := 0
  /-- R61, R86: LEVEL and CEIL; inherited level of R88 -/
  level : Nat := 0
  ceil : Nat := 0
  inherited : Nat := 0
  /-- R71: the effective level at the start of the clock, which decides the class -/
  pickLevel : Nat := 0
  /-- R75 -/
  budget : Nat := 0
  /-- R70 -/
  age : Nat := 0
  /-- R67: reserved for a member of a gang: the gang, the member -/
  reserved : Option (Nat × Nat) := none
  /-- R68 -/
  gangInfo : Word := 0
  sregs : SMap Word := []
  vregs : SMap Vec := []
  pregs : SMap Bool := []
  mregs : SMap Word := []
  ptrs : SMap Ptr := []
  /-- R108, R221: channels: bound tag (0: not bound), earlier tag of the gang, entries -/
  chanTag : SMap Word := []
  chanSeen : SMap Word := []
  chans : SMap (List ChanEntry) := []
  /-- R221, R222: out ports: bound tag, earlier tag, credits -/
  portTag : SMap Word := []
  portSeen : SMap Word := []
  credits : SMap Nat := []
  /-- R93, R97: outstanding entries in issue order, and the number of the next -/
  sb : List SbEntry := []
  sbNext : Nat := 0
  /-- R93: an entry has landed while all 16 were in use: the instruction that needed one waits for this entry, then the oldest -/
  sbWait : Option Nat := none
  /-- R223: pending CHTSTs -/
  tests : List ChTest := []
  /-- R113, R114 -/
  flags : BitVec 10 := 0
  /-- R113: the FLAGS bits that engine commands have set in this clock -/
  engFlags : BitVec 10 := 0
  rmode : BitVec 3 := 0
  srseed : BitVec 32 := 1
  /-- R205 -/
  msgId : Word := 0
  msgSrc : Word := 0
  msgKind : Word := 0
  msgLen : Word := 0
  msgBase : Word := 0
  txnNum : Word := 0
  tileMap : Word := 0
  detRound : BitVec 32 := 0
  detSpill : Word := 0
  cbRow : BitVec 8 := 0
  asid : BitVec 16 := 0
  launchInfo : Word := 0
  cmapSel : BitVec 6 := 0
  frec : FaultRec := {}
  /-- R371: registers that hold an uncorrectable error, by class and number -/
  badRegs : List (RegClass × Nat) := []
  deriving DecidableEq, Repr

/-- R207: a handler table entry. -/
structure Handler where
  code : Word := 0
  restart : Word := 0
  attr : Word := 0
  deriving DecidableEq, Repr

/-- R218, R209, R65, R76: an inbox queue. heapHead is the index of the oldest heap record, heapN of R218. -/
structure Queue where
  size : Nat := 16
  spill : Bool := false
  code : Bool := false
  budget : Nat := 16777216
  heapBase : Word := 0
  heapCap : Nat := 0
  msgs : List Message := []
  run : Bool := false
  heapHead : Nat := 0
  heapCount : Nat := 0
  replaying : Bool := false
  refused : Nat := 0
  /-- R65: the clock at which the head message became the head -/
  headSince : Nat := 0
  /-- R369: aborting faults of the head message -/
  aborts : Nat := 0
  /-- R76: posted, held -/
  posted : Bool := false
  held : Bool := false
  /-- R77: the messages in the queue when it became held -/
  heldCount : Nat := 0
  /-- R371: its messages whose bytes hold an uncorrectable error -/
  spoiled : List Message := []
  deriving DecidableEq, Repr

/-- R172, R180, R181: a command in an engine queue with what it captured at issue. -/
structure EngCmd where
  instr : Instr
  slot : Nat
  serial : Nat
  asid : BitVec 16
  system : Bool
  pc : Word
  ops : List Word
  vecs : List Vec := []
  data : List Byte := []
  rnd : Nat := 0
  seed : BitVec 32 := 0
  /-- R46, R97: the producer of a pending guard and the value under which the command acts -/
  guard : Option (Nat × Bool) := none
  /-- R94, R96: the scoreboard entries that land at its completion -/
  tok : Option Nat := none
  dests : List Nat := []
  /-- R332: a block number taken, and a status decided before the queue -/
  blk : Nat := 0
  pre : Option Nat := none
  /-- the command's place in the order of issue on the package; it names the command as a writer -/
  ord : Nat := 0
  /-- R46: what the command does at issue is still to be done, its guard having been pending; the block number it has taken; the
  scoreboard entry of its sD -/
  late : Bool := false
  /-- R46: the fault that its slot takes once the guard acts: whether it is resumable, its cause, its address -/
  lateFault : Option (Bool × Nat × Word) := none
  lateBlk : Option Nat := none
  num : Option Nat := none
  /-- R249: the place of the next store, in the order of issue on the package, as the command issued -/
  issued : Nat := 0
  /-- R254: the commands whose writes are earlier stores of the slot for this one's release -/
  joined : List Nat := []
  deriving DecidableEq, Repr

/-- The state of the command that an engine has started: waiting for its completion, with its status and flags. -/
structure EngRun where
  status : Nat
  flags : BitVec 10 := 0
  results : List Vec := []
  /-- R172, R249, R286: the command's release waits for stores of its activation that are held or not acknowledged -/
  waitHeld : Bool := false
  /-- R332: the ring and block whose acknowledgement the command waits for -/
  waitAck : Option (Nat × Nat) := none
  /-- R362: the address, offset or handle that its status is about -/
  addr : Word := 0
  deriving DecidableEq, Repr

/-- R367, R378: a translation fault of an engine without a stopped slot. -/
structure EngFault where
  addr : Word
  row : Nat
  write : Bool
  cycle : Word
  since : Nat
  forwarded : Bool := false
  /-- R190: 0 not raised yet, 1 by stopping the issuer, 2 without a stopped slot -/
  raised : Nat := 0
  deriving DecidableEq, Repr

/-- R172, R178: an engine's queue of two and its running command. -/
structure EngineQ where
  q : List EngCmd := []
  running : Option EngRun := none
  fault : Option EngFault := none
  /-- R170: the record of the faulted command (R363 with ENG) -/
  frec : FaultRec := {}
  deriving DecidableEq, Repr

/-- R189: MX_ROWPROG. -/
structure RowProg where
  oslot : Nat := 0
  slot : Nat := 0
  held : Bool := false
  rows : Nat := 0
  deriving DecidableEq, Repr

/-- R166: states of a reservation that is not free. committing: R285. -/
inductive ResState where
  | filling | held | committing
  deriving DecidableEq, Repr

/-- R165: who a reservation is for. -/
inductive ResOwner where
  | txn (num : Nat)
  | crate (ring idx : Nat)
  deriving DecidableEq, Repr

/-- R165, R327: a landing reservation: its ranges (offset, bytes), its state, and for a crate the landed block. -/
structure Reservation where
  owner : ResOwner
  ranges : List (Nat × Nat)
  state : ResState
  blk : Nat := 0
  count : Nat := 0
  origin : Nat := 0
  landed : Bool := false
  deriving DecidableEq, Repr

/-- R213: a send-buffer entry: its message, the slot and activation that issued it, and whether it may leave. -/
structure SendEntry where
  msg : Message
  slot : Nat
  serial : Nat
  leaving : Bool
  deriving DecidableEq, Repr

/-- R353, R355: a deque entry: task descriptor, its clamped priority (R352), launch, the slot that holds it (SPAWN before RETH). -/
structure DequeEntry where
  desc : List Byte
  prio : Nat
  launch : Nat
  held : Option Nat
  /-- R356: its place in the spill ring, where local memory holds its descriptor -/
  pos : Option Nat := none
  deriving DecidableEq, Repr

/-- R239: a line of the cache role: physical line number, its 64 bytes, the address spaces and pages it has been read through. -/
structure CacheLine where
  line : Nat
  bytes : List Byte
  via : List (Nat × Nat)
  deriving DecidableEq, Repr

/-- R382, R383: the service state of a core. -/
inductive SvcState where
  | inService | draining | drained | testing | retired
  deriving DecidableEq, Repr

/-- What a core holds beside its slots. -/
structure Core where
  slots : SMap Slot := []
  localMem : SMap Byte := []
  bankRole : Word := 0xAAAAAA5500000000#64
  /-- R164: the value of a BANK_ROLE write that waits for the engines' commands issued before it, its place in their order, its slot -/
  rolePend : Option (Word × Nat × Nat) := none
  retired : Word := 0
  /-- R70: the slot last chosen in each class; R65: the queue last chosen plus one -/
  lastSlot : SMap Nat := []
  lastQueue : Nat := 0
  work : List WorkItem := []
  /-- R60: the item that a running porter activation serves -/
  serving : Option WorkItem := none
  codebook : SMap (BitVec 32) := []
  queues : SMap Queue := []
  handlers : SMap Handler := []
  sendBuf : List SendEntry := []
  agentPort : List Message := []
  /-- R210: agent messages that wait for room in the agent port -/
  agentWait : List Message := []
  winb : BitVec 7 := 0x3F
  nextId : BitVec 32 := 0
  ren : Bool := false
  rqueue : BitVec 3 := 1
  rhid : BitVec 8 := 0
  qasidLo : Word := 0
  qasidHi : Word := 0
  missTrap : Bool := false
  missCount : BitVec 16 := 0
  missAddr : Word := 0
  cntLate : BitVec 16 := 0
  cntErr : BitVec 16 := 0
  cntAbort : BitVec 32 := 0
  brkEn : BitVec 8 := 0
  copy : EngineQ := {}
  matrix : EngineQ := {}
  tiles : SMap (BitVec 32) := []
  oslots : SMap Byte := []
  mxm : SMap (BitVec 32) := []
  mxl : SMap (BitVec 32) := []
  /-- R196: MX_ASCALE -/
  ascale : BitVec 32 := 0x3F800000
  /-- R189 -/
  rowProg : RowProg := {}
  res : List Reservation := []
  /-- R239: cache-role lines -/
  cacheLines : List CacheLine := []
  deque : List DequeEntry := []
  spillDeque : List DequeEntry := []
  dqSpb : BitVec 7 := 0
  dqLog2 : BitVec 4 := 0
  stealIn : Option Nat := none
  stealOut : Option Nat := none
  svc : SvcState := .inService
  /-- R371: 32-byte atoms of the local banks, and engine arrays (0 to 7 accumulator tiles, 8 to 11 operand slots, 12 the attention
  state), that hold an uncorrectable error -/
  locPoison : SMap Bool := []
  badArrays : List Nat := []
  /-- R371: banks that go off once their reservations are reclaimed -/
  retiring : List Nat := []
  /-- R371: the wall times of the last fetch faults -/
  fetchTimes : List Nat := []
  deriving DecidableEq, Repr

/-! Memory side. -/

/-- R240, R253: the release tag of an atom: scope, core, slot and activation. -/
structure RelTag where
  scope : Scope
  core : Nat
  slot : Nat
  serial : Nat
  deriving DecidableEq, Repr

/-- R35: when agents other than the owner of its home have seen a store: the cluster whose buffer has held it, the number of
activations started by then, and the number started as it left for another package. -/
structure SeenSince where
  cl : Nat
  buf : Nat
  out : Option Nat := none
  deriving DecidableEq, Repr

/-- Who stores: core, slot and activation; the virtual address for reports and its address space; the engine command (EngCmd.ord;
0: the slot itself); the scope of the release that the store makes (R249); whether its page is unordered or strongly ordered
(R248); its place in the order of issue on the package; and since when it has been seen before its home (R35, R246). -/
structure Who where
  core : Nat
  slot : Nat
  serial : Nat
  va : Word
  ord : Nat := 0
  asid : Nat := 0
  rel : Scope := .none
  loose : Bool := false
  strong : Bool := false
  num : Nat := 0
  early : Option SeenSince := none
  deriving DecidableEq, Repr

/-- R259 to R262: what an atomic does with the value at its home. -/
inductive RmwOp where
  | amo (op : AmoOp) (t : Ty) (c : Nat)
  | cas (t : Ty) (want new : Nat)
  | amof (op : FOp) (c : Nat)
  deriving DecidableEq, Repr

/-- R286, R257: what waits at a home: bytes of one atom, an atomic of n bytes, the fill of a future cell (R265), an LDFT (R264),
a deterministic update (R268). -/
inductive HomeAct where
  | store (bytes : List (Nat × Byte))
  | rmw (pa n : Nat) (op : RmwOp)
  | fill (pa v : Nat)
  | take (pa : Nat)
  | det (pa : Nat) (u : DetUpdate)
  deriving DecidableEq, Repr

/-- Who is told what an action at a home has come to: nobody; the scoreboard entries of a slot's instruction for its value and its
predicate, with the type that widens the value and the scope of its acquire; an MSI-X vector, for a value at or below zero (R349);
a SIGNAL packet (R343); the host, for a write of its own (R338); another package, for an access of its own (R238). -/
inductive Reply where
  | none
  | slot (val pred : Option Nat) (t : Ty) (acq : Scope)
  | irq (vec : Nat)
  | packet (q id : Nat)
  | host (off : Nat)
  | far (pkg id : Nat)
  deriving DecidableEq, Repr

/-- R286: an ordinary store, an atomic or a future access that waits at its home on tenure. A slot's further store
to a slice that holds 64 waits in the slot. -/
structure HeldStore where
  act : HomeAct
  who : Who
  reply : Reply
  deriving DecidableEq, Repr

/-- R246: a store of one atom in a cluster's write-combining buffer, or past it on its way to another package's memory (remote:
R255, the number of a posted store). -/
structure BufStore where
  bytes : List (Nat × Byte)
  who : Who
  remote : Option Nat
  deriving DecidableEq, Repr

/-- R87, R240: a watch on an atom (none: the core's local banks), and whether a write has met it. -/
structure Watch where
  core : Nat
  slot : Nat
  atom : Nat
  loc : Bool
  fired : Bool
  deriving DecidableEq, Repr

/-- R264: a deferred future request. -/
structure Deferred where
  core : Nat
  slot : Nat
  serial : Nat
  sbVal : Nat
  sbPred : Nat
  pa : Nat
  take : Bool
  acq : Scope
  asid : Nat
  va : Word
  /-- R238: the other package that asks, and its number there -/
  far : Option (Nat × Nat) := none
  deriving DecidableEq, Repr

/-- R268: a basket of a home slice. -/
structure Basket where
  atom : Nat
  round : Nat
  ups : List DetUpdate
  deriving DecidableEq, Repr

/-- R268: where later updates of an atom in a round go: the spill area, or at once. -/
structure Overflow where
  atom : Nat
  round : Nat
  area : Option (Nat × Nat)
  deriving DecidableEq, Repr

/-- R268 to R270: the deterministic state of the home slices. -/
structure DetState where
  baskets : List Basket := []
  spilled : List Overflow := []
  /-- the area of the first update that spilled, by slice and round -/
  areas : List (Nat × Nat × (Nat × Nat)) := []
  /-- rounds that lost order, and rounds that lost a record to an uncorrectable error, with the slice -/
  lost : List (Nat × Nat) := []
  errs : List (Nat × Nat) := []
  /-- late updates seen since the last close at package scope, and at pod scope -/
  latePk : Bool := false
  latePod : Bool := false
  /-- the last 8 closed rounds; a close closes its round at every slice of the package -/
  closed : List Nat := []
  /-- R270: closes of another package that wait for the slices' own spill writes, or for tenure of an element -/
  closing : List Nat := []
  deriving DecidableEq, Repr

/-- R225, R233: where a translation is cached: the micro-TLB of a core, or the TLB of a cluster. -/
inductive TlbUnit where
  | micro (core : Nat)
  | cluster (cl : Nat)
  deriving DecidableEq, Repr

/-- R234: a cached translation: the leaf that the walk of a page reached, and its level. -/
structure TlbEntry where
  unit : TlbUnit
  asid : Nat
  page : Nat
  leaf : Word
  level : Nat
  deriving DecidableEq, Repr

/-- R35: what a byte of HBM held before a store: the number of activations started by then, since when the store has been seen before
its home, and the byte. -/
structure OldByte where
  num : Nat
  early : Option SeenSince
  old : Byte
  deriving DecidableEq, Repr

/-- R337: an access that a response lets go on although the host keeps the line: the line, whether its data was taken for a store
(BISnpInv), and the accessor (State.cur: a slot, an engine of a core, or an agent). -/
structure LinePass where
  line : Nat
  inv : Bool
  who : Nat × Nat
  deriving DecidableEq, Repr

/-- R337: a back-invalidation in flight and a host request held behind it. -/
structure HostReq where
  off : Nat
  write : Bool
  n : Nat
  data : List Byte
  hold : Bool
  deriving DecidableEq, Repr

/-! Tiles, sequencer, transactions. -/

/-- R276: the state of a lock-manager entry. -/
inductive TileState where
  | free | live | frozen | split | retiring
  deriving DecidableEq, Repr

/-- R282: a tenure held. -/
structure Tenure where
  num : Nat
  w : Bool
  deriving DecidableEq, Repr

/-- R271: a lock-manager entry. -/
structure Tile where
  gen : Nat := 1
  state : TileState := .free
  version : BitVec 32 := 0
  depth : Nat := 0
  parent : Word := 0
  nchild : Nat := 0
  first : Nat := 0
  desc : TileDesc := ⟨0, 0, 0, 0, 0, [], []⟩
  asid : Nat := 0
  domain : Nat := 0
  tenures : List Tenure := []
  deriving DecidableEq, Repr

/-- R282, R283: a pending request. -/
structure PendReq where
  req : TenReq
  asid : Nat
  /-- R283: it has been returned to another package, which has been told of room since -/
  told : Bool := false
  deriving DecidableEq, Repr

/-- R285: a commit granted whose home receipt is out. -/
structure CommitOut where
  num : Nat
  handle : Nat
  desc : TileDesc
  asid : Nat
  /-- the packed bytes that another package has sent, while a line they go to is held by the host -/
  data : Option (List Byte) := none
  /-- R285: the next holder that the grant names -/
  next : Option Nat := none
  deriving DecidableEq, Repr

/-- R19: how far a transaction has come. -/
inductive TxPhase where
  | numbered | requested | dispatched | running | committing | releasing | done
  deriving DecidableEq, Repr

/-- R306 to R313: a numbered transaction of this package's sequencer. -/
structure Txn where
  sub : Submission
  phase : TxPhase
  core : Nat
  /-- the map granule and the tile ranges, in order -/
  map : Nat
  ranges : List (Nat × Nat)
  granted : List Bool
  gver : List (BitVec 32)
  frozen : List Bool
  reruns : Nat := 0
  /-- tiles whose home receipt, release or commit is still out -/
  openTiles : List Nat := []
  /-- what SIG gets at the end: success, failure, or nothing (R311) -/
  result : Option Bool := some true
  /-- R285: the packed bytes of its tiles as they stood at RETH, and the W tiles whose commit grant is out -/
  data : List (List Byte) := []
  /-- R284, R371: its tiles whose bytes held an uncorrectable error -/
  dataBad : List Nat := []
  waitGrant : List Nat := []
  /-- R285: the packed bytes that the previous holder of a tile has pushed, by tile; the tiles that a next holder on another package has not
  acknowledged -/
  pushed : List (Nat × List Byte) := []
  nextOut : List Nat := []
  /-- R308, R313: to be placed again; by R313 on its cluster, with the right to evict -/
  evicted : Bool := false
  moved : Bool := false
  /-- R404: its handler has run -/
  ran : Bool := false
  deriving DecidableEq, Repr

/-- R299 to R303: the sequencer. -/
structure Sequencer where
  round : Nat := 1
  nextPk : Nat := 0
  nextPod : Nat := 0
  period : Nat := 8
  nextPeriod : Nat := 8
  opened : Nat := 0
  intake : List Submission := []
  /-- R324: a round is open; false while a join notice holds the next one -/
  roundOpen : Bool := true
  /-- R303: rounds closed here that still lack a package's closure -/
  closedHere : List Nat := []
  /-- R302: for each other package, the round below which every round of it is closed; and the highest round any closure named -/
  closures : SMap Nat := []
  highest : Nat := 0
  /-- R283: requests returned by lock managers -/
  returned : List PendReq := []
  /-- R302: requests sent that the lock managers have not acknowledged, and the closures that wait for them: round, next round -/
  unacked : List TenReq := []
  closing : List (Nat × Nat) := []
  /-- R324: the packages whose join notice holds new rounds; and this package, which joins a running pod, lacks its join round -/
  joinHold : List Nat := []
  joining : Bool := false
  deriving DecidableEq, Repr

/-- R337, R404: a subtraction from a signal that waits for a line the host holds: the core a transaction ran on, address space,
address, amount, the vector to raise when the value is then at or below zero, and the scope of its release (R349). -/
structure PendSig where
  core : Option Nat
  asid : Nat
  va : Word
  amount : Word
  irq : Option Nat
  rel : Scope := .pod
  deriving DecidableEq, Repr

/-! Rings and links. -/

/-- R328: a set-up notice that waits for this package's own set-up: ring, whether it comes from the predecessor, package, S, CSIZE. -/
structure RingNotice where
  ring : Nat
  fromPred : Bool
  peer : Nat
  s : Nat
  csize : Nat
  deriving DecidableEq, Repr

/-- R328: a ring of this package. -/
structure Ring where
  s : Nat
  hid : Nat
  queue : Nat
  prio : Nat
  pred : Nat
  succ : Nat
  csize : Nat
  pports : Nat
  sports : Nat
  lands : List (Nat × Nat)
  err : Bool := false
  lost : Bool := false
  outn : Nat := 0
  /-- R326: releases the successor has returned, from −S up: blocks below this may be sent -/
  credit : Nat := 0
  predMatch : Bool := false
  succMatch : Bool := false
  /-- blocks sent or skipped whose release has not returned, in order -/
  awaitRel : List Nat := []
  acks : List (Nat × Bool) := []
  /-- R326: next incoming block whose release goes out, and the blocks freed or skipped ahead of it -/
  inNext : Nat := 0
  freed : List (Nat × Nat) := []
  skipped : List Nat := []
  /-- RFWD of an incoming block still out -/
  forwarding : List Nat := []
  arrived : Nat := 0
  /-- R327: the next block whose arrivals are placed, and the blocks that have landed before an earlier one -/
  told : Nat := 0
  waiting : List Nat := []
  deriving DecidableEq, Repr

/-- R322: a link port. -/
structure Port where
  lo : Bool := true
  hi : Bool := true
  replays : Nat := 0
  /-- R322: its lanes are being retrained -/
  training : Bool := false
  deriving DecidableEq, Repr

/-- R323: another package of the pod as this package knows it. -/
structure Member where
  member : Bool := false
  out : Bool := false
  outRound : Nat := 0
  joinRound : Nat := 1
  deriving DecidableEq, Repr

/-! Front end. -/

/-- R341: QSTATE. -/
inductive QState where
  | running | error | held | disabled
  deriving DecidableEq, Repr

/-- R347: one open INDIRECT level: its buffer, next packet and count; its packet's bytes and address; its id once it has started. -/
structure Level where
  buf : Word
  next : Nat
  count : Nat
  bytes : List Byte
  addr : Word
  id : Option Nat
  deriving DecidableEq, Repr

/-- R343, R345: a started packet that has not completed. -/
structure Started where
  id : Nat
  index : Nat
  /-- the id of the enclosing INDIRECT packet -/
  parent : Option Nat
  bytes : List Byte
  /-- things it still waits for: transactions, tasks, members, packets -/
  pending : Nat := 0
  fail : Bool := false
  /-- every part submitted -/
  whole : Bool := true
  deriving DecidableEq, Repr

/-- R340, R341: a host queue. -/
structure HQueue where
  widx : Nat := 0
  ridx : Nat := 0
  state : QState := .disabled
  err : Nat := 0
  errIdx : Nat := 0
  cstat : Nat := 0
  ring : Word := 0
  log2n : Nat := 0
  sys : Bool := false
  asid : Nat := 0
  prioMax : Nat := 0
  errSig : Word := 0
  msix : Nat := 0
  msixEn : Bool := false
  cancelled : List Nat := []
  /-- R346: prefetched packets by address, and the lines that they name: packet, line, bytes -/
  pre : List (Nat × List Byte) := []
  named : List (Nat × Nat × List Byte) := []
  /-- R348: the runs of ring indices whose packets have started: first, one past the last -/
  ran : List (Nat × Nat) := []
  /-- R350: the packet that stopped the queue, where it has been read; a QCTL 1 that waits for a line the host holds -/
  errLine : Option (List Byte) := none
  resuming : Bool := false
  /-- R337: a QCTL 4, and a RIDX still to be written to the descriptor, that wait for a line the host holds -/
  enabling : Bool := false
  ridxDue : Bool := false
  levels : List Level := []
  started : List Started := []
  nextStart : Nat := 0
  /-- R350: the packet at ERRIDX has started -/
  errStarted : Bool := false
  disabling : Bool := false
  /-- R354: next unread packet waits for a kick (V = 0) -/
  stalled : Bool := false
  deriving DecidableEq, Repr

/-- R354: a live launch: counts by stack group. -/
structure Launch where
  queue : Nat
  packet : Nat
  c : SMap Int := []
  x : SMap Nat := []
  fail : Bool := false
  /-- the X values of the first of two equal sweeps -/
  swept : Option (SMap Nat) := none
  deriving DecidableEq, Repr

/-- R357: a gang member. -/
structure GMember where
  core : Nat
  hid : Nat
  queue : Nat
  outs : List Nat
  slot : Option Nat := none
  started : Bool := false
  returned : Bool := false
  deriving DecidableEq, Repr

/-- R88: a barrier of a gang: mask, scope, arrivals. -/
structure Barrier where
  mask : Nat
  scope : Scope
  arrived : List Nat
  deriving DecidableEq, Repr

/-- R357: a gang. -/
structure Gang where
  queue : Nat
  packet : Nat
  prio : Nat
  members : List GMember
  bars : SMap (Option Barrier) := []
  ended : Bool := false
  deriving DecidableEq, Repr

/-- R358, R365, R366, R373, R382, R243, R77, R228: the management registers and the front end's own state. -/
structure FrontEnd where
  active : Bool := false
  standbyOk : Bool := false
  /-- R358: the firmware versions that have been loaded, by I/O die; the standby reads the table's format -/
  vers : SMap (Option (BitVec 16)) := []
  standbyReads : Bool := true
  updating : Bool := false
  refused : Bool := false
  qtbase : Word := 0
  astbase : Word := 0
  podTimeout : Nat := 200
  msixTable : SMap Byte := []
  fsqBase : Word := 0
  fsqLog2 : Nat := 0
  fsqWr : BitVec 32 := 0
  fsqRd : BitVec 32 := 0
  fsqVec : BitVec 11 := 0
  fsqEn : Bool := false
  /-- R365: records held until the ring has room -/
  fsqHeld : List (List Byte) := []
  fsTbase : Word := 0
  fsTcnt : Nat := 0
  flogBase : Word := 0
  flogLog2 : BitVec 4 := 0
  flogNext : BitVec 48 := 0
  preemptState : Nat := 0
  preemptQueue : Nat := 0
  preemptCore : Nat := 0
  cap : Nat := 2600
  maxPt : Nat := 0
  /-- R382: what the sensors read -/
  watts : BitVec 32 := 0
  tmax : BitVec 8 := 0
  trip : Bool := false
  /-- R381: THR; since when a throttle's condition holds, and a raise's -/
  thr : Bool := false
  hotSince : Option Nat := none
  coolSince : Option Nat := none
  pt : Nat := 0
  svcCore : Nat := 0
  /-- R386: reset has not come to the end of its step 5 -/
  booting : Bool := false
  drains : List Nat := []
  offline : List Nat := []
  vacate : List Nat := []
  /-- R372: units whose self-test runs or waits -/
  tests : List HwUnit := []
  chRet : List Nat := []
  /-- R371: the slices whose data arrays are bypassed -/
  sliceOff : List Nat := []
  deriving DecidableEq, Repr

/-- A message or notice that leaves the package, in order. -/
inductive Outgoing where
  | message (m : Message)
  | messageDone (m : Message) (ok : Bool)
  | flit (port : Nat)
  | replay (port : Nat)
  | channel (tag : Word) (data : Vec) (rel : Scope) (writer port : Nat)
  | tileOp (pkg : Nat) (core slot asid : Nat) (op : TileOp)
  | tileReply (src slot : Nat) (a : TileAns)
  | tenure (pkg : Nat) (r : TenReq) (asid : Nat)
  | commit (num handle : Nat)
  | release (num handle : Nat)
  | released (num handle : Nat)
  | writeBack (num handle : Nat) (data : List Byte)
  | grant (r : TenReq) (p : TilePush)
  | commitGranted (num handle : Nat) (next : Option Nat)
  | nextData (num handle : Nat) (data : List Byte)
  | tenureAccepted (r : TenReq)
  | receipt (num handle : Nat) (ok : Bool)
  | nextReceipt (num handle : Nat)
  | tenureReturned (r : TenReq)
  | lmRoom (pkg lm : Nat)
  | closure (round next : Nat)
  | joinNotice
  | joinAck (round : Nat)
  | creditReturn (gid core slot port : Nat)
  | window (pa : Nat) (data : List Byte)
  | invalidate (r : InvReq)
  | invalidated (sig : Nat)
  | detUpdate (pkg : Nat) (u : DetUpdate)
  | detClose (round : Nat)
  | detClosed (round status flags : Nat)
  | ringNotice (ring : Nat) (toSucc : Bool) (s csize : Nat)
  | ringAnswer (ring : Nat) (toSucc ok : Bool)
  | ringBlock (ring blk count origin : Nat) (data : List Byte)
  | ringAck (ring blk : Nat) (ok : Bool)
  | ringRelease (ring : Nat)
  | ringSkip (ring blk : Nat)
  | ringTeardown (ring : Nat) (toSucc : Bool)
  | msix (vec : Nat)
  | biSnp (line : Nat) (inv : Bool)
  | hostData (off : Nat) (data : List Byte)
  | hostDone (off : Nat)
  | scopeMiss (pkg atom : Nat)
  | farDone (pkg id : Nat) (data : List Byte) (wrote ok : Bool)
  | withdraw
  deriving DecidableEq, Repr

/-- R48: a special register that the second instruction of a pair may read without naming it, with what it held before the pair
issued: LEVEL (R203), DET_ROUND and DET_SPILL (R267), BRK_EN (R377). -/
inductive SrWas where
  | level (n : Nat)
  | detRound (v : BitVec 32)
  | detSpill (v : Word)
  | brkEn (v : BitVec 8)
  deriving DecidableEq, Repr

/-- R48: the second instruction of a pair whose first has issued: its slot, the instruction, for an MFSR what its special register
held before the pair issued, and what the special register that the first one writes held then. -/
structure PairRest where
  core : Nat
  slot : Nat
  instr : Instr
  sr : Option Word := none
  was : Option SrWas := none
  deriving DecidableEq, Repr

/-- What makes the machine stop. -/
inductive Fault where
  /-- R381: the package has stopped above 105 °C at P3; raised by every step after THERMAL_TRIP. Safe: the spec stops the package. -/
  | packageStopped
  deriving DecidableEq, Repr

/-- Operations the model gives no meaning. -/
inductive Refusal where
  /-- Raised by an arm of exec that has no meaning yet. Safe. -/
  | notModelled (mnemonic : String)
  deriving DecidableEq, Repr

/-- R16, R281: LMMAP_i. -/
structure LmMap where
  phys : Nat
  moving : Bool := false
  deriving DecidableEq, Repr

/-- The state of the package. -/
structure State where
  cores : SMap Core := []
  /-- R112: core clocks since reset; wall time in units of 1/24 ns (R379, R380) -/
  cycle : Word := 0
  wall : Nat := 0
  /-- R227: HBM of the pod by physical address, and poisoned atoms (R240) -/
  hbm : SMap Byte := []
  /-- R35: what bytes of HBM held before the stores made to them, oldest first (log 18) -/
  stored : SMap (List OldByte) := []
  poison : SMap Bool := []
  relTags : SMap (Option RelTag) := []
  /-- R238: host memory; none: a byte the model has not written (Config.hostByte, log 7) -/
  hostMem : SMap (Option Byte) := []
  heldStores : List HeldStore := []
  clusterBuf : SMap (List BufStore) := []
  /-- R246, R255: stores that have left their forwarding home slice and are not acknowledged, oldest first -/
  remoteOut : List BufStore := []
  watches : List Watch := []
  deferred : List Deferred := []
  det : DetState := {}
  tlb : List TlbEntry := []
  inv : List InvReq := []
  /-- R236: the address ranges of the contiguous groups that the oldest request has removed: address space, first and last address -/
  invGone : List (Nat × Nat × Nat) := []
  /-- R235, R337: doorbells whose record lies in a line the host holds, or that came after such a one -/
  doorbells : List Word := []
  hostHeld : SMap Bool := []
  bisnp : List Nat := []
  hostReqs : List HostReq := []
  /-- R337: accesses of other packages that wait for a line the host holds -/
  farHeld : List HomeNews := []
  /-- R338: host writes that are not performed yet: offset, and the number of their stores -/
  hostOut : List (Nat × Nat) := []
  linePass : List LinePass := []
  sigPend : List PendSig := []
  /-- R271: lock-manager entries by index × 16,384 + entry -/
  tiles : SMap Tile := []
  lmmap : SMap LmMap := []
  pend : List PendReq := []
  /-- R283: requests that the lock managers have returned and that have not come back -/
  lmBack : List PendReq := []
  commits : List CommitOut := []
  /-- R281: operations held while an index moves, in arrival order -/
  lmHeld : List Instr := []
  seq : Sequencer := {}
  /-- R299: numbered transactions by number -/
  txns : SMap (Option Txn) := []
  rings : SMap (Option Ring) := []
  ringPend : List RingNotice := []
  ports : SMap Port := []
  members : SMap Member := []
  hqueues : SMap HQueue := []
  launches : SMap (Option Launch) := []
  nextLaunch : Nat := 1
  gangs : SMap (Option Gang) := []
  nextGid : Nat := 1
  fe : FrontEnd := {}
  outbox : List Outgoing := []
  /-- The model's own fields (DESIGN CHOICE, log 10): the issuing core and slot, the core whose picker is asked next, the second
  instruction of an issued pair, a slot chosen by a forced issue, events that are due, how results land, fresh-value and activation counters. -/
  cur : Nat × Nat := (0, 0)
  turn : Nat := 0
  pairNext : Option PairRest := none
  forced : Option (Nat × Nat) := none
  agenda : List Instr := []
  relaxed : Bool := false
  choice : Nat := 0
  serial : Nat := 0
  order : Nat := 1
  deriving DecidableEq, Repr

/-- The canonical form of a byte memory in which an unlisted address reads zero: HBM, and a core's local banks. -/
abbrev Memory.wf (m : SMap Byte) : Prop := smWf (fun _ => 0) m

/-- The canonical form of host memory, in which an unlisted address is one that the model has not written. -/
abbrev HostMemory.wf (m : SMap (Option Byte)) : Prop := smWf (fun _ => none) m

/-- R386: the package right after reset. -/
def State.reset : State := {}

end Sys2Proof.Machine
end

