-- ==== Sys2Proof/Machine/Base.lean ====
section
/-! DEFINITION. The named operations on cores, slots, registers and raw memory; completing an instruction; the fault record and
the fault log. -/
namespace Sys2Proof.Machine

/-- What a meaning answers. -/
abbrev Out := Host.Outcome State Fault Refusal

/-! Cores and slots. -/

/-- A core of the package. -/
def State.coreOf (s : State) (c : Nat) : Core := smGet (fun _ => {}) s.cores c

/-- The package with a core changed. -/
def State.modCore (s : State) (c : Nat) (f : Core → Core) : State :=
  { s with cores := smSet (fun _ => {}) s.cores c (f (s.coreOf c)) }

/-- A slot of a core. -/
def Core.slotOf (k : Core) (i : Nat) : Slot := smGet (fun _ => {}) k.slots i

/-- A core with a slot changed. -/
def Core.modSlot (k : Core) (i : Nat) (f : Slot → Slot) : Core :=
  { k with slots := smSet (fun _ => {}) k.slots i (f (k.slotOf i)) }

/-- Slot i of core c. -/
def State.slotOf (s : State) (c i : Nat) : Slot := (s.coreOf c).slotOf i

/-- The package with slot i of core c changed. -/
def State.modSlot (s : State) (c i : Nat) (f : Slot → Slot) : State := s.modCore c (fun k => k.modSlot i f)

/-- The core whose slot issues. -/
def State.myCore (s : State) : Core := s.coreOf s.cur.1

/-- The slot that issues. -/
def State.me (s : State) : Slot := s.slotOf s.cur.1 s.cur.2

/-- The package with the issuing slot changed. -/
def State.modMe (s : State) (f : Slot → Slot) : State := s.modSlot s.cur.1 s.cur.2 f

/-- The package with the issuing core changed. -/
def State.modMyCore (s : State) (f : Core → Core) : State := s.modCore s.cur.1 f

/-- R15: the global core index of a core of this package. -/
def globalCore (c : Nat) : Nat := Config.pkg * 4096 + c

/-- The activation of the issuing slot. -/
def State.myAct (s : State) : Option Activation := s.me.act

/-- The package with the issuing slot's activation changed. -/
def State.modMyAct (s : State) (f : Activation → Activation) : State :=
  s.modMe (fun x => { x with act := x.act.map f })

/-- R110, R214: a system activation or the porter issues. -/
def State.isSystem (s : State) : Bool :=
  s.cur.2 == 4 || (match s.myAct with | some a => a.system | none => false)

/-- An event due after this step. -/
def State.due (s : State) (i : Instr) : State := { s with agenda := s.agenda ++ [i] }

/-- A message or notice that leaves the package. -/
def State.out (s : State) (o : Outgoing) : State := { s with outbox := s.outbox ++ [o] }

/-- R337: the host is asked once for a line that an access waits for. -/
def State.askHost (s : State) (n : Nat) (inv : Bool) : State :=
  if s.bisnp.contains n then s else { s.out (.biSnp n inv) with bisnp := s.bisnp ++ [n] }

/-- R13, R16: the cores of the package, of a stack group and of a cluster. -/
def numCores : Nat := 4096

/-- R15: the stack group of a core. -/
def sgOf (c : Nat) : Nat := c / 512

/-- R15: the cluster of a core, 0 to 255. -/
def clusterOf (c : Nat) : Nat := c / 16

/-! Registers (R90, R43). -/

/-- R43: s0 reads zero. -/
def Slot.s (x : Slot) (r : Sreg) : Word := if r = 0 then 0 else smGet (fun _ => 0) x.sregs r.val

/-- R43: a write to s0 is discarded. -/
def Slot.setS (x : Slot) (r : Sreg) (v : Word) : Slot :=
  if r = 0 then x else { x with sregs := smSet (fun _ => 0) x.sregs r.val v }

/-- R90: a vector register. -/
def Slot.v (x : Slot) (r : Vreg) : Vec := smGet (fun _ => 0) x.vregs r.val

/-- R90: a vector register written. -/
def Slot.setV (x : Slot) (r : Vreg) (v : Vec) : Slot := { x with vregs := smSet (fun _ => 0) x.vregs r.val v }

/-- R43: p0 reads true. -/
def Slot.p (x : Slot) (r : Fin 8) : Bool := if r = 0 then true else smGet (fun _ => false) x.pregs r.val

/-- R43: a write to p0 is discarded. -/
def Slot.setP (x : Slot) (r : Fin 8) (v : Bool) : Slot :=
  if r = 0 then x else { x with pregs := smSet (fun _ => false) x.pregs r.val v }

/-- R90: m0 reads as 64 ones. -/
def Slot.m (x : Slot) (r : Fin 8) : Word := if r = 0 then BitVec.allOnes 64 else smGet (fun _ => 0) x.mregs r.val

/-- R90: a write to m0 is discarded. -/
def Slot.setM (x : Slot) (r : Fin 8) (v : Word) : Slot :=
  if r = 0 then x else { x with mregs := smSet (fun _ => 0) x.mregs r.val v }

/-- R104: a pointer register. -/
def Slot.ptr (x : Slot) (r : Fin 8) : Ptr := smGet (fun _ => {}) x.ptrs r.val

/-- R104: a pointer register written. -/
def Slot.setPtr (x : Slot) (r : Fin 8) (v : Ptr) : Slot := { x with ptrs := smSet (fun _ => {}) x.ptrs r.val v }

/-- R41: a second scalar operand. -/
def Slot.src (x : Slot) : Src → Word
  | .reg r => x.s r
  | .imm v => sext32 v

/-- An immediate that stands zero-extended in place of a register. -/
def Slot.srcZ (x : Slot) : Src → Word
  | .reg r => x.s r
  | .imm v => zext32 v

/-- R45: the guard acts. -/
def Slot.acts (x : Slot) (g : Guard) : Bool := x.p g.p != g.neg

/-! The PC (R30, R31). -/

/-- R31: the line of a PC. -/
def pcLine (pc : Word) : Word := pc &&& ~~~(0x3F#64)

/-- R31: the slot number of a PC. -/
def pcSlot (pc : Word) : Nat := pc.toNat % 64

/-- R30, R83: the PC after an instruction that stands alone or second. -/
def nextPc (pc : Word) : Word := if pcSlot pc < 4 then pc + 1 else pcLine pc + 64

/-- R112: one more instruction retired. -/
def State.retire (s : State) : State := s.modMyCore (fun k => { k with retired := k.retired + 1 })

/-- The issuing slot's PC set. -/
def State.setPc (s : State) (pc : Word) : State := s.modMe (fun x => { x with pc := pc })

/-- The instruction has completed: control passes on (R30) and it counts in RETIRED (R112). -/
def State.complete (s : State) : State := (s.setPc (nextPc s.me.pc)).retire

/-- R46: an instruction under its guard; one whose guard does not act has no effect and counts as retired. -/
def guarded (g : Guard) (f : State → State) (s : State) : Out :=
  .next (if s.me.acts g then f s else s.complete)

/-- R46: the same for a command with a token register, which reads 0 when the guard does not act. -/
def guardedTok (g : Guard) (tok : Tok) (f : State → State) (s : State) : Out :=
  .next (if s.me.acts g then f s
    else (match tok with | some r => s.modMe (fun x => x.setS r 0) | none => s).complete)

/-! The scoreboard (R93). -/

/-- A value landed in its register. -/
def Slot.landValue (x : Slot) (cls : SbClass) (reg : Nat) (v : Vec) : Slot :=
  match cls with
  | .scalar => x.setS (Fin.ofNat 64 reg) (v.setWidth 64)
  | .vector => x.setV (Fin.ofNat 32 reg) v
  | .pred => x.setP (Fin.ofNat 8 reg) (v.getLsbD 0)

/-- R93: an entry taken, its value known or not. Answers the entry's number. -/
def Slot.track (x : Slot) (kind : SbKind) (cls : SbClass) (reg : Nat) (addr : Word) (lease : Bool) (v : Option Vec) : Slot × Nat :=
  ({ x with sb := x.sb ++ [⟨x.sbNext, kind, cls, reg, x.pc, addr, lease, v, none, none, 0⟩], sbNext := x.sbNext + 1 }, x.sbNext)

/-- R92, R93: a late result: it lands at once, or in the model's relaxed running waits in the scoreboard (log 10). -/
def State.land (s : State) (kind : SbKind) (cls : SbClass) (reg : Nat) (addr : Word) (v : Vec) : State :=
  s.modMe (fun x => if s.relaxed then (x.track kind cls reg addr false (some v)).1 else x.landValue cls reg v)

/-- R93, R261: entry id lands in its register with the flags its result sets, and leaves the scoreboard. -/
def Slot.landEntry (x : Slot) (id : Nat) : Slot :=
  match x.sb.find? (fun e => e.id == id) with
  | none => x
  | some e =>
    match e.value with
    | none => x
    | some v =>
      let oldest := (x.sb.head?).map (·.id)
      { x.landValue e.cls e.reg v with
        sb := x.sb.filter (fun e => e.id != id), flags := x.flags ||| e.flags
        sbWait := if oldest = some id then none else if 16 ≤ x.sb.length then oldest else x.sbWait }

/-- R97: the register of the class has a write that has not landed. Writes to s0 and p0 are discarded (R43), so that nothing waits for
them. -/
def Slot.pending (x : Slot) (cls : SbClass) (reg : Nat) : Bool :=
  (reg != 0 || cls == .vector) && x.sb.any (fun e => e.cls == cls && e.reg == reg)

/-- R364: a result given by its producer: to the scoreboard entry, or to the saved entry of a stopped slot. -/
def Slot.giveValue (x : Slot) (id : Nat) (v : Vec) : Slot :=
  let f := fun (e : SbEntry) => if e.id = id then { e with value := some v } else e
  { x with sb := x.sb.map f, frec := { x.frec with saved := x.frec.saved.map f } }

/-- R363, R364: while the slot is stopped the result of entry id has landed in the record: DONE. -/
def Slot.markDone (x : Slot) (id : Nat) : Slot :=
  match x.frec.ids.findIdx? (fun i => i == id) with
  | none => x
  | some n =>
    let w := smGet (fun _ => 0) x.frec.sbe n ||| (1#64 <<< 60)
    { x with frec := { x.frec with sbe := smSet (fun _ => 0) x.frec.sbe n w } }

/-- R364: a producer that fails while the slot is stopped keeps its failure for RESUME. -/
def Slot.giveFail (x : Slot) (id : Nat) (cause : Nat) (addr : Word) : Slot :=
  let f := fun (e : SbEntry) => if e.id = id then { e with fail := some (cause, addr) } else e
  { x with sb := x.sb.map f, frec := { x.frec with saved := x.frec.saved.map f } }

/-! Raw memory: the bytes at home (R3, little-endian). -/

/-- A byte of HBM by physical address. -/
def State.rd8 (s : State) (pa : Nat) : Byte := smGet (fun _ => 0) s.hbm pa

/-- R35: the history of a byte with the value that a store now replaces. A value that stood while no activation started is
not kept. -/
def remember (n : Nat) (early : Option SeenSince) (old : Byte) (h : List OldByte) : List OldByte :=
  if (h.getLast?.map (fun o => (o.num, o.early))) = some (n, early) then h else h ++ [⟨n, early, old⟩]

/-- A byte of HBM written; early: since when the store has been seen before its home (R35, R246). -/
def State.wr8 (s : State) (early : Option SeenSince) (pa : Nat) (v : Byte) : State :=
  { s with hbm := smSet (fun _ => 0) s.hbm pa v
           stored := smSet (fun _ => []) s.stored pa (remember s.serial early (s.rd8 pa) (smGet (fun _ => []) s.stored pa)) }

/-- R35: the number of activations started as a core of a cluster first saw a store, if it has; home: their number as it reached its
home. -/
def SeenSince.at' (e : SeenSince) (cl : Nat) (home : Option Nat) : Option Nat :=
  if e.cl = cl then some e.buf else e.out <|> home

/-- R35: a store was made after an activation of number n started on a core of a cluster, as that core sees it. -/
def OldByte.after (o : OldByte) (cl n : Nat) : Bool :=
  decide (n ≤ ((o.early.bind (fun e => e.at' cl (some o.num))).getD o.num))

/-- R35: what a byte of HBM held when the activation of number n started on a core of a cluster, where only stores made since then
have replaced it. -/
def State.heldAt (s : State) (cl n pa : Nat) : Option Byte :=
  (((smGet (fun _ => []) s.stored pa).reverse.takeWhile (fun o => o.after cl n)).getLast?).map (·.old)

/-- n bytes of HBM. -/
def State.rdHbm (s : State) (pa n : Nat) : List Byte := (List.range n).map (fun i => s.rd8 (pa + i))

/-- Bytes with their addresses. -/
def placed (pa : Nat) (bs : List Byte) : List (Nat × Byte) := bs.zipIdx.map (fun e => (pa + e.2, e.1))

/-- Bytes of HBM written. -/
def State.wrHbm (s : State) (early : Option SeenSince) (bs : List (Nat × Byte)) : State := bs.foldl (fun s e => s.wr8 early e.1 e.2) s

/-- R87: watches meet a write. -/
def State.fire (s : State) (hit : Watch → Bool) : State :=
  { s with watches := s.watches.map (fun w => if hit w then { w with fired := true } else w) }

/-- The bytes of a store by atoms, in rising order. -/
def byAtom (bs : List (Nat × Byte)) : List (Nat × List (Nat × Byte)) :=
  ((bs.map (fun e => e.1 / 32)).dedup).map (fun a => (a, bs.filter (fun e => e.1 / 32 == a)))

/-- R87, R241: bytes that the front end or the firmware writes at home: watches meet them, whole atoms lose their poison. -/
def State.wrPhys (s : State) (pa : Nat) (bs : List Byte) : State :=
  let s := s.wrHbm none (placed pa bs)
  let s := { s with poison := (byAtom (placed pa bs)).foldl (fun (m : SMap Bool) (a : Nat × List (Nat × Byte)) =>
      if a.2.length < 32 then m else smSet (fun _ => false) m a.1 false) s.poison }
  s.fire (fun w => !w.loc && decide (w.atom * 32 < pa + bs.length ∧ pa < w.atom * 32 + 32))

/-- An integer of n bytes in HBM. -/
def State.rdNat (s : State) (pa n : Nat) : Nat := wordOfBytes (s.rdHbm pa n)

/-- n bytes of a core's local memory. -/
def Core.rdLoc (k : Core) (off n : Nat) : List Byte := (List.range n).map (fun i => smGet (fun _ => 0) k.localMem (off + i))

/-- R371: an uncorrectable error in n bytes of the local banks. -/
def Core.locErr (k : Core) (off n : Nat) : Bool :=
  !k.locPoison.isEmpty &&
  (List.range ((off + n - 1) / 32 + 1 - off / 32)).any (fun i => smGet (fun _ => false) k.locPoison (off / 32 + i))

/-- Bytes of a core's local memory written; an atom written whole holds no error (R371, log 60). -/
def Core.wrLoc (k : Core) (bs : List (Nat × Byte)) : Core :=
  { k with
    localMem := bs.foldl (fun m e => smSet (fun _ => 0) m e.1 e.2) k.localMem
    locPoison := if k.locPoison.isEmpty then k.locPoison else (byAtom bs).foldl (fun (m : SMap Bool) a =>
      if a.2.length < 32 then m else smSet (fun _ => false) m a.1 false) k.locPoison }

/-- R162: the role of bank b. -/
def Core.role (k : Core) (b : Nat) : Nat := bits k.bankRole.toNat (2 * b + 1) (2 * b)

/-- An integer as n bytes and as a vector. -/
def vecOf (n : Nat) : Vec := BitVec.ofNat 512 n

/-- A scalar in the low bits of a vector. -/
def vecW (w : Word) : Vec := w.setWidth 512

/-- A predicate in bit 0 of a vector. -/
def vecB (b : Bool) : Vec := if b then 1 else 0

/-! The fault record (R363) and the fault log (R373). -/

/-- R362: a fault: its cause, the address, and the command status it comes from (R95). -/
structure FaultInfo where
  cause : Nat
  addr : Word
  unit : Nat := 0
  scode : Nat := 0
  deriving DecidableEq, Repr

/-- R363: FAULT_CAUSE. -/
def causeWord (eng : Bool) (slot : Nat) (res : Bool) (f : FaultInfo) : Word :=
  BitVec.ofNat 64 (eng.toNat * 2 ^ 35 + slot % 8 * 2 ^ 32 + res.toNat * 2 ^ 31 + f.scode % 256 * 2 ^ 16 + f.unit % 256 * 2 ^ 8 + f.cause % 256)

/-- R203: the code of a message kind. -/
def msgKindCode : MsgKind → Nat
  | .plain => 0 | .code => 1 | .reply => 2 | .refusal => 3 | .crate => 4 | .dispatch => 5 | .task => 6 | .gang => 7

/-- R363: FAULT_MSG of a message. -/
def msgIdent (m : Message) : Word := BitVec.ofNat 64 (msgKindCode m.kind * 2 ^ 36 + m.queue % 8 * 2 ^ 32 + m.msgid % 2 ^ 32)

/-- R363: FAULT_MSG. -/
def msgWord (a : Option Activation) : Word :=
  match a with
  | none => 0
  | some a => msgIdent a.msg

/-- R363: the KIND of an entry. -/
def SbKind.code : SbKind → Nat
  | .load => 0 | .vload => 1 | .atomic => 2 | .pred => 3 | .token => 4 | .arith => 5 | .mfsr => 6

/-- R363: FAULT_SBEn. -/
def sbeWord (e : SbEntry) : Word :=
  let cls := match e.cls with | .scalar => 0 | .vector => 1 | .pred => 2
  BitVec.ofNat 64 (e.kind.code * 2 ^ 61 + cls * 2 ^ 58 + e.reg % 64 * 2 ^ 52 + bits e.pc.toNat 54 6 * 2 ^ 3 + e.pc.toNat % 8)

/-- R363: FAULT_SBAn. -/
def sbaWord (e : SbEntry) : Word :=
  match e.kind with
  | .load | .vload | .atomic | .pred => e.addr
  | .token | .arith | .mfsr => 0

/-- R363: the record of a fault of a slot. -/
def mkRec (x : Slot) (slot : Nat) (res : Bool) (f : FaultInfo) (pc rpc : Word) : FaultRec where
  cause := causeWord false slot res f
  addr := f.addr
  pc := pc
  msg := msgWord x.act
  sb := BitVec.ofNat 64 (2 ^ (Nat.min x.sb.length 16) - 1)
  sbe := (x.sb.take 16).zipIdx.foldl (fun m e => smSet (fun _ => 0) m e.2 (sbeWord e.1)) []
  sba := (x.sb.take 16).zipIdx.foldl (fun m e => smSet (fun _ => 0) m e.2 (sbaWord e.1)) []
  rpc := rpc
  saved := x.sb
  ids := x.sb.map (·.id)

/-- R203: the sixteen bytes of a header. -/
def headerNat (m : Message) : Nat :=
  m.msgid % 2 ^ 32 * 2 ^ 96 + m.agent.toNat * 2 ^ 86 + m.src % 2 ^ 22 * 2 ^ 64 + m.clines % 4 * 2 ^ 62 + m.prio % 32 * 2 ^ 40 +
  msgKindCode m.kind * 2 ^ 37 + m.len % 16 * 2 ^ 33 + m.hid % 256 * 2 ^ 25 + m.queue % 8 * 2 ^ 22 + m.dest % 2 ^ 22

/-- A list of bytes cut or filled with zeros to n. -/
def padTo (n : Nat) (bs : List Byte) : List Byte := bs.take n ++ List.replicate (n - bs.length) 0

/-- R204, R209: a message as memory holds it, 16 + 16 × LEN bytes. -/
def msgBytes (m : Message) : List Byte := bytesOf 16 (headerNat m) ++ padTo (16 * m.len) m.payload

/-- An agent outside the cores: it has no TLB, no cache role and no cluster buffer. -/
def agentCore : Nat := 4096

/-- R337: the lines of a run of bytes of this package that the host holds. -/
def State.hostLines (s : State) (pa n : Nat) : List Nat :=
  if s.hostHeld.isEmpty then []
  else ((List.range ((pa + n - 1) / 64 + 1 - pa / 64)).map (fun i => pa / 64 + i)).filter (fun l => smGet (fun _ => false) s.hostHeld l)

/-- R337, R373: bytes that the front end writes at home; while the host holds a line of them they wait at home for its answer. -/
def State.wrFe (s : State) (pa : Nat) (bs : List Byte) : State :=
  match s.hostLines pa bs.length with
  | [] => s.wrPhys pa bs
  | ls =>
    let w : Who := { core := agentCore, slot := 0, serial := 0, va := BitVec.ofNat 64 pa }
    ls.foldl (fun s l => s.askHost l true)
      { s with heldStores := s.heldStores ++ (byAtom (placed pa bs)).map (fun a => ⟨.store a.2, w, .none⟩) }

/-- R373: the fault log gets an entry; with no ring configured nothing is stored. -/
def State.flog (s : State) (type idx : Nat) (r : FaultRec) (msg : List Byte) : State :=
  let e := bytesOf 4 type ++ bytesOf 4 idx ++ bytesOf 8 r.cause.toNat ++ bytesOf 8 r.addr.toNat ++ bytesOf 8 r.pc.toNat ++
    bytesOf 8 r.msg.toNat ++ bytesOf 8 r.rpc.toNat ++ bytesOf 8 r.sb.toNat ++ bytesOf 8 s.cycle.toNat ++ padTo 448 msg
  if s.fe.flogLog2.toNat < 4 then s
  else
    let s := s.wrFe (s.fe.flogBase.toNat + 512 * (s.fe.flogNext.toNat % 2 ^ s.fe.flogLog2.toNat)) e
    { s with fe := { s.fe with flogNext := s.fe.flogNext + 1 } }

/-- R373: an entry of the front end. -/
def State.flogFe (s : State) (type cause : Nat) (addr : Word) : State :=
  s.flog type 0xFFFFFFFF { cause := BitVec.ofNat 64 cause, addr := addr } []

/-- R374: a saturating count. -/
def satInc {n : Nat} (x : BitVec n) : BitVec n := if x = BitVec.allOnes n then x else x + 1

/-- R370: a report after its activation has ended is counted and logged; one of an agent outside the cores is the front end's, or, from
8,192 up, that of the core it acts for. -/
def State.lateReport (s : State) (c : Nat) (f : FaultInfo) (pc : Word) : State :=
  if 4096 ≤ c ∧ c < 8192 then s.flogFe 3 f.cause f.addr
  else
    let c := c % 8192
    (s.modCore c (fun k => { k with cntLate := satInc k.cntLate })).flog 3 (globalCore c)
    { cause := causeWord false 0 false f, addr := f.addr, pc := pc } []

/-! Host queues, as everything that ends a part of a packet sees them. -/

/-- R341: a host queue. -/
def State.hq (s : State) (q : Nat) : HQueue := smGet (fun _ => {}) s.hqueues q

/-- A host queue changed. -/
def State.modHq (s : State) (q : Nat) (f : HQueue → HQueue) : State :=
  { s with hqueues := smSet (fun _ => {}) s.hqueues q (f (s.hq q)) }

/-- R343, R345: a started packet changed. -/
def State.modPacket (s : State) (q id : Nat) (f : Started → Started) : State :=
  s.modHq q (fun h => { h with started := h.started.map (fun p => if p.id = id then f p else p) })

/-- R343: one of the things a started packet waits for has ended. -/
def State.packetPart (s : State) (q id : Nat) (ok : Bool) : State :=
  s.modPacket q id (fun p => { p with pending := p.pending - 1, fail := p.fail || !ok })

/-! Faults of accesses. -/

/-- A fault of a memory access: resumable or aborting (R231, R362), or a wait. -/
inductive AccFault where
  | trans (va : Word)
  | abort (cause : Nat) (addr : Word)
  /-- R337: the line is held by the host; the access waits (inv: BISnpInv, otherwise BISnpData) -/
  | line (n : Nat) (inv : Bool)
  /-- R248, R255, R286: the access waits for stores of its slot that are not performed -/
  | busy
  deriving DecidableEq, Repr

/-- A fresh number for a free value of Config. -/
def State.fresh (s : State) : State × Nat := ({ s with choice := s.choice + 1 }, s.choice)

/-- R248, R255, R286: a store has been performed or has failed: the slots that wait for one try again. -/
def State.wakeHome (s : State) : State :=
  s.cores.foldl (fun (s : State) (e : Nat × Core) => (List.range 5).foldl (fun s i =>
    if (s.slotOf e.1 i).wait = .home then s.modSlot e.1 i (fun x => { x with wait := .none }) else s) s) s

end Sys2Proof.Machine
end

