-- ==== Sys2Proof/Machine/Memory.lean ====
section
/-! DEFINITION. Address translation (R226 to R234), homes (R237, R238), loads of every agent (R245 to R247), local memory, and what
the device register window reads (R227). -/
namespace Sys2Proof.Machine

/-! Physical addresses (R227). -/

/-- R227: the package of a physical address. -/
def paPkg (pa : Nat) : Nat := bits pa 55 46

/-- R227: the offset of a physical address in its package. -/
def paOff (pa : Nat) : Nat := bits pa 45 0

/-- R227: the bytes of HBM4E of a package. -/
def hbmBytes : Nat := 0xC000000000

/-- R227: the first offset of the device register window. -/
def windowBase : Nat := 0x3F0000000000

/-- R15: the physical address of an offset of this package. -/
def ownPa (off : Nat) : Nat := Config.pkg * 2 ^ 46 + off

/-- R237: the home slice of an offset. -/
def homeSlice (off : Nat) : Nat :=
  let g := bits off 45 12
  bits g 7 0 ^^^ bits g 15 8 ^^^ bits g 23 16 ^^^ bits g 27 24

/-- R237: the pseudo-channel of an offset. -/
def pseudoChan (off : Nat) : Nat := 64 * (homeSlice off / 32) + bits (bits off 45 12) 13 8

/-- R323: another package that does not answer: never joined, or declared out of service. -/
def State.pkgDown (s : State) (p : Nat) : Bool :=
  p != Config.pkg && (let m := smGet (fun _ => {}) s.members p; !m.member || m.out)

/-- R302, R323: another package is a member of the pod. -/
def State.otherMember (s : State) : Bool := s.members.any (fun e => e.1 != Config.pkg && e.2.member && !e.2.out)

/-- R242: the offset lies in a frame that is offline. -/
def State.offlineAt (s : State) (pa : Nat) : Bool := paPkg pa == Config.pkg && s.fe.offline.contains (paOff pa / 65536)

/-! What a home slice refuses to a reader. -/

/-- R337: the first line of a run of bytes that the host holds, for an access by core c: of the issuing slot or engine, or of an
agent. A response that keeps the line lets the accesses that waited for it go on. -/
def State.hostLine (s : State) (c pa n : Nat) (inv : Bool) : Option Nat :=
  if paPkg pa ≠ Config.pkg then none
  else (List.range ((pa + n - 1) / 64 + 1 - pa / 64)).findSome? (fun i =>
    if smGet (fun _ => false) s.hostHeld (pa / 64 + i) &&
       !s.linePass.any (fun e => e.line == pa / 64 + i && (e.inv || !inv) && e.who == (if c = s.cur.1 then s.cur else (c, 0)))
    then some (pa / 64 + i) else none)

/-- R240, R241, R242: an atom of the run is poisoned or its frame offline. -/
def State.unreadable (s : State) (pa n : Nat) : Bool :=
  (List.range ((pa + n - 1) / 32 + 1 - pa / 32)).any (fun i =>
    smGet (fun _ => false) s.poison (pa / 32 + i) || s.offlineAt ((pa / 32 + i) * 32))

/-! The walk (R228 to R234). -/

/-- R231: what an access wants of its page. -/
inductive Want where
  | read | write | atomic | fetch
  deriving DecidableEq, Repr

/-- R230: bit n of an entry. -/
def pteBit (e : Nat) (n : Nat) : Bool := e / 2 ^ n % 2 == 1

/-- R231 step 2: an entry at a level that the walk may not use. -/
def pteBad (level e : Nat) : Bool :=
  if !pteBit e 0 then true
  else if bits e 57 56 != 0 || bits e 15 10 != 0 || bits e 4 2 != 0 then true
  else if pteBit e 1 then
    level == 0 || bits e 59 58 == 3 || (pteBit e 60 && level == 1) ||
    (level == 1 && bits e 41 16 != 0) || (level == 2 && bits e 28 16 != 0) ||
    (pteBit e 63 && bits e 55 52 != 0)
  else level == 3 || bits e 63 56 != 0 || bits e 9 5 != 0 || bits e 55 46 != Config.pkg

/-- R229: the index of a level. -/
def vaIndex (va level : Nat) : Nat :=
  match level with
  | 0 => bits va 54 48
  | 1 => bits va 47 42
  | 2 => bits va 41 29
  | _ => bits va 28 16

/-- R229: the bytes a leaf of a level maps, as a power of two. -/
def leafBits (level : Nat) : Nat := if level = 1 then 42 else if level = 2 then 29 else 16

/-- R233, R240: n bytes that the walker of core c reads at their home; va: the address it walks for. What it finds at an offset that is
not populated, or in the device register window, the spec leaves open: the model reads zeros there, so that the entry has V = 0
(DESIGN CHOICE, log 61). -/
def State.walkRead (s : State) (c : Nat) (va : Word) (pa n : Nat) : Except AccFault Nat :=
  match s.hostLine c pa n false with
  | some l => .error (.line l false)
  | none => if s.unreadable pa n then .error (.abort 0x09 va) else .ok (s.rdNat pa n)

/-- R229, R231 step 2: the leaf reached from a table at a level, with its level and the physical address of its entry. -/
def State.walk (s : State) (c : Nat) (va : Word) : Nat → Nat → Nat → Except AccFault (Nat × Nat × Nat)
  | 0, _, _ => .error (.trans va)
  | fuel + 1, level, base =>
    let at' := base + 8 * vaIndex va.toNat level
    match s.walkRead c va at' 8 with
    | .error f => .error f
    | .ok e =>
      if pteBad level e then .error (.trans va)
      else if pteBit e 1 then .ok (e, level, at')
      else s.walk c va fuel (level + 1) (bits e 55 16 * 65536)

/-- R228: the root of an address space. -/
def State.rootOf (s : State) (c asid : Nat) (va : Word) : Except AccFault Nat :=
  if !s.fe.astbase.getLsbD 0 then .error (.abort 0x07 va)
  else
    match s.walkRead c va (bits s.fe.astbase.toNat 55 20 * 2 ^ 20 + 16 * asid) 16 with
    | .error f => .error f
    | .ok e =>
      if e % 2 = 0 ∨ bits e 127 56 ≠ 0 ∨ bits e 15 1 ≠ 0 ∨ bits e 55 46 ≠ Config.pkg then .error (.abort 0x07 va)
      else .ok (bits e 55 16 * 65536)

/-- R233: the walk of an address from its root. -/
def State.walkVa (s : State) (c asid : Nat) (va : Word) : Except AccFault (Nat × Nat × Nat) :=
  match s.rootOf c asid va with
  | .error f => .error f
  | .ok root => s.walk c va 4 0 root

/-- R226: a canonical virtual address. -/
def canonical (va : Word) : Bool := (va.setWidth 55).signExtend 64 == va

/-- R230, R231: a page an access may use: its leaf entry and the physical address (host address with HOST). -/
structure Page where
  leaf : Nat
  pa : Nat
  deriving DecidableEq, Repr

/-- R230: HOST, CACHE, DET, ORD of a leaf. -/
def Page.host (p : Page) : Bool := pteBit p.leaf 63
def Page.cache (p : Page) : Bool := pteBit p.leaf 62 && bits p.leaf 59 58 != 0
def Page.det (p : Page) : Bool := pteBit p.leaf 61
def Page.ord (p : Page) : Nat := bits p.leaf 59 58

/-- R227, R231 step 5: the physical checks. -/
def Page.physOk (p : Page) : Bool :=
  p.host || decide (paOff p.pa < hbmBytes) || (decide (windowBase ≤ paOff p.pa) && p.ord == 0 && !pteBit p.leaf 62)

/-- R227: the page lies in the device register window. -/
def Page.window (p : Page) : Bool := !p.host && decide (windowBase ≤ paOff p.pa)

/-- R229, R232: an address through a leaf; lb: the bits of it that the address supplies. -/
def leafPage (e lb va : Nat) : Page := ⟨e, bits e 55 16 * 65536 / 2 ^ lb * 2 ^ lb + va % 2 ^ lb⟩

/-- R225: a TLB that core c looks up. -/
def TlbUnit.of (u : TlbUnit) (c : Nat) : Bool :=
  match u with | .micro d => d == c | .cluster k => k == clusterOf c

/-- R232, R234: the page that a cached entry gives an access of core c: what its leaf maps, or an address of its contiguous group. -/
def TlbEntry.page? (t : TlbEntry) (c asid va : Nat) : Option Page :=
  let lb := leafBits t.level
  if !t.unit.of c || t.asid != asid then none
  else if t.page * 65536 / 2 ^ lb = va / 2 ^ lb then some (leafPage t.leaf.toNat lb va)
  else if pteBit t.leaf.toNat 60 && t.page * 65536 / 2 ^ (lb + 5) == va / 2 ^ (lb + 5) then some (leafPage t.leaf.toNat (lb + 5) va)
  else none

/-- R231: a write or an atomic. -/
def Want.writes : Want → Bool
  | .write | .atomic => true
  | .read | .fetch => false

/-- R232 to R234: the page an access uses: the walk's, or one that a TLB holds, as the hardware chooses (log 6). An entry whose A or D
makes the access fault is walked again. -/
def State.leafFor (s : State) (c asid : Nat) (va : Word) (want : Want) : Except AccFault Page :=
  let cs := (s.tlb.filterMap (fun t => t.page? c asid va.toNat)).filter (fun p => pteBit p.leaf 8 && (!want.writes || pteBit p.leaf 9))
  match (if cs.isEmpty then none else cs[Config.freeNat s.choice va.toNat % (cs.length + 1)]?) with
  | some p => .ok p
  | none =>
    match s.walkVa c asid va with
    | .error f => .error f
    | .ok (e, level, _) => .ok (leafPage e (leafBits level) va.toNat)

/-- R231: the checks of one page, in order. -/
def State.translate (s : State) (c asid : Nat) (va : Word) (want : Want) : Except AccFault Page :=
  if !canonical va then .error (.abort 0x07 va)
  else
    match s.leafFor c asid va want with
    | .error f => .error f
    | .ok p =>
      let perm := match want with
        | .read => pteBit p.leaf 5
        | .write => pteBit p.leaf 6
        | .atomic => pteBit p.leaf 5 && pteBit p.leaf 6
        | .fetch => pteBit p.leaf 7
      if !perm then .error (.abort 0x07 va)
      else if !pteBit p.leaf 8 || (want.writes && !pteBit p.leaf 9) then .error (.trans va)
      else if !p.physOk then .error (.abort 0x07 va)
      else .ok p

/-- R231, R245: an access cut at page boundaries, lower address first. -/
def piecesOf (va : Word) (n : Nat) : List (Word × Nat) :=
  let room := 65536 - va.toNat % 65536
  if n ≤ room then [(va, n)] else [(va, room), (va + BitVec.ofNat 64 room, n - room)]

/-- R231: every page of an access passes its checks. -/
def State.pagesOf (s : State) (c asid : Nat) (va : Word) (n : Nat) (want : Want) : Except AccFault (List (Page × Word × Nat)) :=
  (piecesOf va n).mapM (fun pc => (s.translate c asid pc.1 want).map (fun p => (p, pc.1, pc.2)))

/-! What the device register window reads (R227). -/

/-- R377 and its kin: a register word built of a field at a bit. -/
def fieldAt (v lo : Nat) : Nat := v * 2 ^ lo

/-- R243: OFFLN_NEXT. -/
def State.offlnNext (s : State) : Nat :=
  match s.fe.vacate with
  | [] => 2 ^ 63
  | f :: t => ownPa (t.foldl Nat.min f * 65536)

/-- R341: QSTATE's code. -/
def qstateCode : QState → Nat
  | .running => 0 | .error => 1 | .held => 2 | .disabled => 3

/-- R382: STATE's code. -/
def svcCode : SvcState → Nat
  | .inService => 0 | .draining => 1 | .drained => 2 | .testing => 3 | .retired => 4

/-- R336, R341: a dword of a kick page. -/
def State.kickRead (s : State) (q off : Nat) : Nat :=
  let h := smGet (fun _ => {}) s.hqueues q
  match off with
  | 0x000 => h.widx
  | 0x010 => h.cstat
  | 0x018 => h.ridx
  | 0x020 => qstateCode h.state + h.err * 256
  | 0x028 => h.errIdx
  | _ => 0

/-- R281: LMMAP_i. -/
def State.lmOf (s : State) (i : Nat) : LmMap := smGet (fun i => ⟨i, false⟩) s.lmmap i

/-- R358: the firmware version of the complex on an I/O die. -/
def FrontEnd.version (f : FrontEnd) (die : Bool) : BitVec 16 :=
  (smGet (fun _ => none) f.vers die.toNat).getD (Config.feVersion (1 + die.toNat))

/-- R227: a management register as a dword. -/
def State.mgmtRead (s : State) (off : Nat) : Nat :=
  let f := s.fe
  match off - windowBase with
  | 0x00000000 => f.astbase.toNat
  | 0x00030000 => s.seq.nextPeriod
  | 0x00040000 => f.podTimeout
  | 0x00050000 => f.qtbase.toNat
  | 0x00060000 => (Config.feVersion 0).toNat * 2 ^ 48 + (f.version !f.active).toNat * 2 ^ 32 +
      (f.version f.active).toNat * 2 ^ 16 + f.refused.toNat * 8 + f.updating.toNat * 4 +
      f.standbyOk.toNat * 2 + f.active.toNat
  | 0x00080000 => f.fsqBase.toNat + f.fsqLog2
  | 0x00080010 => f.flogBase.toNat
  | 0x00080018 => f.flogNext.toNat * 2 ^ 16 + f.flogLog2.toNat
  | 0x00080020 => f.fsqWr.toNat * 2 ^ 32 + f.fsqRd.toNat
  | 0x00080028 => f.fsqEn.toNat * 2 ^ 15 + f.fsqVec.toNat
  | 0x00080030 => f.fsTbase.toNat
  | 0x00080038 => f.fsTcnt
  | 0x00090000 => f.cap * 16 + f.maxPt * 4
  | 0x00090008 => f.watts.toNat * 2 ^ 32 + f.tmax.toNat * 2 ^ 24 + f.trip.toNat * 4 + f.pt
  | 0x00090018 => svcCode (s.coreOf f.svcCore).svc * 2 ^ 16 + f.svcCore
  | 0x000A0008 => s.offlnNext
  | 0x000B0008 => (smGet (fun _ => {}) (s.coreOf f.preemptCore).queues f.preemptQueue).heldCount * 2 ^ 32 + f.preemptState * 2 ^ 16 + f.preemptQueue * 2 ^ 12 + f.preemptCore
  | r =>
    if 0x20000 ≤ r ∧ r < 0x20000 + 8 * 512 then
      let m := s.lmOf ((r - 0x20000) / 8); m.moving.toNat * 2 ^ 63 + m.phys
    else 0

/-- R336: the bytes of the MSI-X table (2,048 vectors of 16 bytes). -/
def msixOff : Nat := 0x00070000

/-- R227, R341: a load of n bytes of the device register window. -/
def State.windowRead (s : State) (off n : Nat) : List Byte :=
  let r := off - windowBase
  if 0x1000000000 ≤ r then
    let q := (r - 0x1000000000) / 4096
    bytesOf n (if n = 8 ∧ off % 8 = 0 ∧ q < 262144 then s.kickRead q (r % 4096) else 0)
  else if msixOff ≤ r ∧ r < msixOff + 32768 then
    if (n = 8 ∨ n = 4) ∧ off % n = 0 then (List.range n).map (fun i => smGet (fun _ => 0) s.fe.msixTable (r - msixOff + i))
    else bytesOf n 0
  else bytesOf n (if n = 8 ∧ off % 8 = 0 then s.mgmtRead off else 0)

/-- R227, R336, R341: a load of n bytes at an offset of the window reads a register. -/
def windowNames (off n : Nat) : Bool :=
  let r := off - windowBase
  if 0x1000000000 ≤ r then
    n == 8 && off % 8 == 0 && decide ((r - 0x1000000000) / 4096 < 262144) && [0x000, 0x010, 0x018, 0x020, 0x028].contains (r % 4096)
  else if msixOff ≤ r ∧ r < msixOff + 32768 then (n == 8 || n == 4) && off % n == 0
  else n == 8 && off % 8 == 0 &&
    (decide (0x20000 ≤ r ∧ r < 0x20000 + 8 * 512) ||
     [0x00000, 0x30000, 0x40000, 0x50000, 0x60000, 0x80000, 0x80010, 0x80018, 0x80020, 0x80028, 0x80030, 0x80038, 0x90000, 0x90008,
      0x90018, 0xA0008, 0xB0008].contains r)

/-- R341: the event of a store to a kick page. -/
def kickStore (q off : Nat) (v : Word) (sys : Bool) : List Instr :=
  match off with
  | 0x000 => [.kick q v]
  | 0x008 => [.cancel q v]
  | 0x030 =>
    if !sys then []
    else match v.toNat with
      | 1 => [.qctlResume q]
      | 2 => [.qctlHold q]
      | 3 => [.qctlRelease q]
      | 4 => [.qctlEnable q]
      | 5 => [.qctlDisable q]
      | _ => []
  | _ => []

/-- R227: the event of a store to a management register, made by the host or a system activation. -/
def mgmtStore (off : Nat) (v : Word) : List Instr :=
  let n := v.toNat
  match off - windowBase with
  | 0x00010000 => [.invalidationDoorbell (.record v)]
  | 0x00060008 => if n % 2 = 1 then [.liveUpdate (.write v)] else []
  | 0x00080008 => [.fsresp v]
  | 0x00080020 => [.fsqIdx v]
  | 0x00090010 =>
    if bits n 14 12 = 1 then [.coreDrain (n % 4096)] else if bits n 14 12 = 2 then [.coreReadmit (n % 4096)] else []
  | 0x000A0000 => [.offlnAck v]
  | 0x000B0000 =>
    if bits n 17 16 = 1 then [.preemptPost (n % 4096) (bits n 14 12)]
    else if bits n 17 16 = 2 then [.preemptWithdraw (n % 4096) (bits n 14 12)] else []
  | _ => [.managementRegisterWrite (off - windowBase) v]

/-- R227, R341: the events of a store of n bytes to the device register window. -/
def State.windowStore (s : State) (off : Nat) (bs : List Byte) (sys : Bool) : List Instr :=
  let n := bs.length
  let v := BitVec.ofNat 64 (wordOfBytes bs)
  let r := off - windowBase
  if 0x1000000000 ≤ r then
    let q := (r - 0x1000000000) / 4096
    if n = 8 ∧ off % 8 = 0 ∧ q < 262144 then kickStore q (r % 4096) v sys else []
  else if !sys then []
  else if msixOff ≤ r ∧ r < msixOff + 32768 ∧ n = 4 ∧ off % 4 = 0 then
    let old := (s.windowRead (off / 8 * 8) 8)
    let new := if off % 8 = 0 then bs ++ old.drop 4 else old.take 4 ++ bs
    [.managementRegisterWrite (r / 8 * 8) (BitVec.ofNat 64 (wordOfBytes new))]
  else if n = 8 ∧ off % 8 = 0 then mgmtStore off v
  else []

/-! Tiles as memory sees them (R274, R286). -/

/-- R274: a byte at offset o from BASE belongs to an element. -/
def inElem (esz : Nat) : List (Nat × Nat) → Nat → Bool
  | [], o => decide (o < 2 ^ esz)
  | (d, st) :: t, o => if st = 0 then false else decide (o / st < d) && inElem esz t (o % st)

/-- R274: the dimensions with their strides, outermost first. -/
def tileLevels (d : TileDesc) : List (Nat × Nat) := (d.dims.zip d.strides).take d.rank |>.reverse

/-- R274: the packed bytes of a tile. -/
def tileBytes (d : TileDesc) : Nat := (d.dims.take d.rank).foldl (· * ·) (2 ^ d.esz)

/-- R274: the last address of a tile. -/
def extentLast (d : TileDesc) : Nat :=
  d.base + ((d.dims.zip d.strides).take d.rank).foldl (fun a x => a + (x.1 - 1) * x.2) 0 + 2 ^ d.esz - 1

/-- R274: the footprint: the 32-byte atoms that hold an element byte, at a virtual address. -/
def inFootprint (d : TileDesc) (va : Nat) : Bool :=
  (List.range 32).any (fun i =>
    let x := va / 32 * 32 + i
    decide (d.base ≤ x) && inElem d.esz (tileLevels d) (x - d.base))

/-- R275: the virtual page of a tile's extent that maps to a physical page, if any. -/
def State.tilePage (s : State) (t : Tile) (ppage : Nat) : Option Nat :=
  let first := t.desc.base / 65536
  (List.range (extentLast t.desc / 65536 + 1 - first)).findSome? (fun i =>
    match s.walkVa agentCore t.asid (BitVec.ofNat 64 ((first + i) * 65536)) with
    | .error _ => none
    | .ok (e, level, _) =>
      if (leafPage e (leafBits level) ((first + i) * 65536)).pa / 65536 = ppage then some (first + i) else none)

/-- R286: a physical atom lies in the footprint of a tile. -/
def State.tileHas (s : State) (t : Tile) (pa : Nat) : Bool :=
  match s.tilePage t (pa / 65536) with
  | some p => inFootprint t.desc (p * 65536 + pa % 65536)
  | none => false

/-- R257, R286: the atom is under tenure. -/
def State.tenuredAt (s : State) (pa : Nat) : Bool :=
  s.tiles.any (fun e => !e.2.tenures.isEmpty && s.tileHas e.2 pa)

/-- R257, R286: the atom belongs to a FROZEN tile. -/
def State.frozenAt (s : State) (pa : Nat) : Bool :=
  s.tiles.any (fun e => e.2.state == .frozen && s.tileHas e.2 pa)

/-! Loads. -/

/-- R246: the newest store of the cluster's buffer to a byte. -/
def bufByte (buf : List BufStore) (pa : Nat) : Option Byte :=
  buf.foldl (fun a b => b.bytes.foldl (fun a e => if e.1 = pa then some e.2 else a) a) none

/-- R239: a line that the cache-role banks of core c hold. -/
def State.lineOf? (s : State) (c ln : Nat) : Option CacheLine := (s.coreOf c).cacheLines.find? (fun l => l.line == ln)

/-- R246: a byte as the agents of the package find it past the cluster buffers: the newest store on its way to another package, or home. -/
def State.outByte (s : State) (pa : Nat) : Byte := (bufByte s.remoteOut pa).getD (s.rd8 pa)

/-- R246, R239: a byte as core c loads it: from its cache-role line, its cluster's buffer, or past it. -/
def State.seenByte (s : State) (c : Nat) (cached : Bool) (pa : Nat) : Byte :=
  match (if cached then s.lineOf? c (pa / 64) else none) with
  | some l => l.bytes.getD (pa % 64) 0
  | none => (bufByte (smGet (fun _ => []) s.clusterBuf (clusterOf c)) pa).getD (s.outByte pa)

/-- R238: a byte of host memory. -/
def State.hostByte (s : State) (a : Nat) : Byte := (smGet (fun _ => none) s.hostMem a).getD (Config.hostByte a)

/-- R239: a run of bytes cut at line boundaries. -/
def lineParts (pa n : Nat) : List (Nat × Nat) :=
  (List.range ((pa + n - 1) / 64 + 1 - pa / 64)).map (fun i =>
    let lo := Nat.max pa ((pa / 64 + i) * 64)
    (lo, Nat.min (pa + n) ((pa / 64 + i + 1) * 64) - lo))

/-- R238, R241, R337: n bytes read at their home by core c: the fault or the wait they meet. -/
def State.homeFault (s : State) (c : Nat) (va : Word) (pa n : Nat) : Option AccFault :=
  if s.pkgDown (paPkg pa) then some (.abort 0x09 va)
  else if s.unreadable pa n then some (.abort 0x09 va)
  else (s.hostLine c pa n false).map (fun l => .line l false)

/-- R238, R239, R241: the bytes of one page piece; a line that is held is read without its home. fresh: read past the core's cached
lines. What a register of another package's window holds is not known here (log 6). -/
def State.readPiece (s : State) (c : Nat) (fresh : Bool) (p : Page) (va : Word) (n : Nat) : Except AccFault (List Byte) :=
  if p.host then .ok ((List.range n).map (fun i => s.hostByte (p.pa + i)))
  else if p.window then
    if paPkg p.pa = Config.pkg then .ok (s.windowRead (paOff p.pa) n)
    else if s.pkgDown (paPkg p.pa) then .error (.abort 0x09 va)
    else .ok (bytesOf n (if windowNames (paOff p.pa) n then Config.freeNat s.choice p.pa else 0))
  else
    let cached := p.cache && !fresh
    let far := if cached then (lineParts p.pa n).filter (fun x => (s.lineOf? c (x.1 / 64)).isNone) else [(p.pa, n)]
    match far.findSome? (fun x => s.homeFault c va x.1 x.2) with
    | some f => .error f
    | none => .ok ((List.range n).map (fun i => s.seenByte c cached (p.pa + i)))

/-- R245, R247: a global load of n bytes by core c in an address space. -/
def State.readG (s : State) (c asid : Nat) (va : Word) (n : Nat) : Except AccFault (List Byte) := do
  let ps ← s.pagesOf c asid va n .read
  let bs ← ps.mapM (fun x => s.readPiece c false x.1 x.2.1 x.2.2)
  return bs.flatten

/-! Local memory. -/

/-- R166, R162: local bytes that no slot or copy may reach: a cache or off bank, or a filling reservation. -/
def Core.locBad (k : Core) (off n : Nat) : Bool :=
  decide (off + n > 262144) ||
  (List.range n).any (fun i => let r := k.role ((off + i) / 8192); r == 1 || r == 3) ||
  k.res.any (fun r => r.state == .filling && r.ranges.any (fun g => decide (g.1 < off + n ∧ off < g.1 + g.2)))

/-- R167: a local load of n bytes at an offset already reduced. -/
def State.readL (s : State) (c off n : Nat) : Except AccFault (List Byte) :=
  if (s.coreOf c).locBad off n then .error (.abort 0x06 (BitVec.ofNat 64 off))
  else if (s.coreOf c).locErr off n then .error (.abort 0x09 (BitVec.ofNat 64 off))
  else .ok ((s.coreOf c).rdLoc off n)

/-- R168: local bytes written, for the whole core. -/
def State.writeL (s : State) (c off : Nat) (bs : List Byte) : Except AccFault State :=
  if (s.coreOf c).locBad off bs.length then .error (.abort 0x06 (BitVec.ofNat 64 off))
  else .ok ((s.modCore c (fun k => k.wrLoc (placed off bs))).fire
    (fun w => w.loc && w.core == c && decide (w.atom * 32 < off + bs.length ∧ off < w.atom * 32 + 32)))

/-! Engines. -/

/-- The bytes from an address on, cut at page boundaries. -/
def pageChunks (va : Word) (n : Nat) : List (Word × Nat) :=
  let room := 65536 - va.toNat % 65536
  if n = 0 then []
  else if n ≤ room then [(va, n)]
  else (va, room) :: (List.range ((n - room + 65535) / 65536)).map (fun i =>
    (va + BitVec.ofNat 64 (room + 65536 * i), Nat.min 65536 (n - room - 65536 * i)))

/-- R173, R182: n bytes read by an engine of core c: the cluster's stores are seen, the core's cached lines are not used. -/
def State.readEng (s : State) (c asid : Nat) (glob : Bool) (a : Word) (n : Nat) : Except AccFault (List Byte) :=
  if n = 0 then .ok []
  else if !glob then s.readL c (a.toNat % 262144) n
  else do
    let ps ← (pageChunks a n).mapM (fun x => (s.translate c asid x.1 .read).map (fun p => (p, x.1, x.2)))
    let bs ← ps.mapM (fun x => s.readPiece c true x.1 x.2.1 x.2.2)
    return bs.flatten

end Sys2Proof.Machine
end

