-- ==== Sys2Proof/Machine/Home.lean ====
section
/-! DEFINITION. What happens at a home: writes of atoms (R240, R241), release tags (R253), actions that meet tenure (R257, R286),
deterministic updates (R267 to R269), futures (R263 to R265); and the way of a store to it (R246, R248, R255). -/
namespace Sys2Proof.Machine

/-! Failures (R241, R255, R370). -/

/-- R177, R184: a store of the command that the engine runs has failed: status 0x05. -/
def EngineQ.storeFailed (e : EngineQ) (ord : Nat) (va : Word) : Option EngineQ :=
  match e.q, e.running with
  | c :: _, some r =>
    if c.ord ≠ ord then none else if r.status ≠ 0 then some e else some { e with running := some { r with status := 5, addr := va } }
  | _, _ => none

/-- R255: a failed store of an activation: the first in issue order is kept. -/
def Activation.keepFail (a : Activation) (cause : Nat) (va : Word) (num : Nat) : Activation :=
  { a with storeFail := match a.storeFail with
      | none => some (cause, va, num)
      | some f => if num < f.2.2 then some (cause, va, num) else some f }

/-- The activation that a writer names still holds its slot. -/
def State.writerAct (s : State) (w : Who) : Option Activation := (s.slotOf w.core w.slot).act.filter (fun a => a.serial == w.serial)

/-- R255, R241, R370: a store failed: kept for the next release of its activation, the status of its engine command, or
reported late. An agent's signal that fails at another package's home has cause 0x09 (R404). -/
def State.storeFailed (s : State) (w : Who) (cause : Nat) : State :=
  let k := s.coreOf w.core
  let cause := if agentCore ≤ w.core ∧ cause = 0x0A then 0x09 else cause
  if w.ord ≠ 0 then
    match k.copy.storeFailed w.ord w.va, k.matrix.storeFailed w.ord w.va with
    | some q, _ => s.modCore w.core (fun k => { k with copy := q })
    | none, some q => s.modCore w.core (fun k => { k with matrix := q })
    | none, none => s.lateReport w.core ⟨0x0A, w.va, 0, 0⟩ 0
  else
    match s.writerAct w with
    | some _ => s.modSlot w.core w.slot (fun x => { x with act := x.act.map (fun a => a.keepFail cause w.va w.num) })
    | none => s.lateReport w.core ⟨cause, w.va, 0, 0⟩ 0

/-- R241, R255: the cause of a store that fails at a home. -/
def homeCause (pa : Nat) : Nat := if paPkg pa = Config.pkg then 0x09 else 0x0A

/-- R255, R241, R253: the fault that waits for the slot's next release, FENCE or RETH. -/
def Activation.pendingFault (a : Activation) : Option FaultInfo :=
  match a.storeFail with
  | some f => some ⟨f.1, f.2.1, 0, 0⟩
  | none => a.scopeMiss.map (fun pa => ⟨0x0B, pa, 0, 0⟩)

/-- R249, R255: the fault that waits for the release that stands at a place of the order of issue: no failure of a later store. -/
def Activation.faultBefore (a : Activation) (num : Nat) : Option FaultInfo :=
  match a.storeFail with
  | some f => if f.2.2 < num then some ⟨f.1, f.2.1, 0, 0⟩ else none
  | none => a.pendingFault

/-- R255, R370: the fault that waited is raised: it is no longer kept. -/
def Activation.takeFault (a : Activation) : Activation :=
  match a.storeFail with
  | some _ => { a with storeFail := none }
  | none => { a with scopeMiss := none }

/-! Scopes, tags, acquires (R12, R250, R253). -/

/-- R12: core d lies in the group of core c at a scope. -/
def inGroup (scope : Scope) (c d : Nat) : Bool :=
  match scope with
  | .none => false
  | .core => c == d
  | .cluster => c / 16 == d / 16
  | .sg => c / 512 == d / 512
  | .pkg | .pod => true

/-- R12: cluster scope or wider. -/
def scopeWide (sc : Scope) : Bool := match sc with | .none | .core => false | .cluster | .sg | .pkg | .pod => true

/-- R253: a release that is performed at its home tags the atom, which stays in its slice while the slice has data arrays (R371). -/
def State.tagAtom (s : State) (w : Who) (atom : Nat) : State :=
  if w.rel = .none ∨ paPkg (atom * 32) ≠ Config.pkg ∨ s.fe.sliceOff.contains (homeSlice (paOff (atom * 32))) = true then s
  else { s with relTags := smSet (fun _ => none) s.relTags atom (some ⟨w.rel, w.core, w.slot, w.serial⟩) }

/-- R253, R12: core c lies in the scope of the release that has tagged an atom: a far one, by slot 6 of the agents, is of another
package. -/
def RelTag.covers (t : RelTag) (c : Nat) : Bool := if t.core = agentCore ∧ t.slot = 6 then t.scope == .pod else inGroup t.scope t.core c

/-- R253, R240: an acquire that reads a tagged atom from outside the release's scope sends a scope-miss report, unless the tag has
gone with its atom, which the hardware chooses (log 6). -/
def State.scopeMissAt (s : State) (c pa : Nat) : State :=
  match smGet (fun _ => none) s.relTags (pa / 32) with
  | none => s
  | some t =>
    if t.covers c then s
    else if Config.freeNat s.choice (pa / 32) % 2 = 1 then { s with relTags := smSet (fun _ => none) s.relTags (pa / 32) none }
    else s.due (.scopeMissReport t.core t.serial (pa / 32))

/-- R239, R250: an acquire at cluster scope or wider drops every cache-role line of the core. -/
def State.acquire (s : State) (c : Nat) (scope : Scope) : State :=
  if !scopeWide scope || (s.coreOf c).cacheLines.isEmpty then s else s.modCore c (fun k => { k with cacheLines := [] })

/-! Writes at the home. -/

/-- R241: bytes of one atom written at home; a partial write to a poisoned atom fails, a whole one clears the poison. -/
def State.writeAtom (s : State) (w : Who) (atom : Nat) (bs : List (Nat × Byte)) : State :=
  if smGet (fun _ => false) s.poison atom && decide (bs.length < 32) then s.storeFailed w (homeCause (atom * 32))
  else if s.offlineAt (atom * 32) then s.storeFailed w 0x09
  else
    let s := { s with poison := smSet (fun _ => false) s.poison atom false }
    ((s.wrHbm w.early bs).fire (fun x => !x.loc && x.atom == atom)).tagAtom w atom

/-- R239: a store updates the core's held copies. -/
def State.cacheStore (s : State) (c : Nat) (bs : List (Nat × Byte)) : State :=
  if (s.coreOf c).cacheLines.isEmpty then s
  else s.modCore c (fun k => { k with cacheLines := k.cacheLines.map (fun l =>
    { l with bytes := l.bytes.zipIdx.map (fun b => ((bs.find? (fun e => e.1 == l.line * 64 + b.2)).map (·.2)).getD b.1) }) })

/-- R239: an atomic, a future access or an engine's write drops the core's copies of its lines. -/
def State.cacheDrop (s : State) (c : Nat) (bs : List (Nat × Byte)) : State :=
  if (s.coreOf c).cacheLines.isEmpty then s
  else s.modCore c (fun k => { k with cacheLines := k.cacheLines.filter (fun l => !bs.any (fun e => e.1 / 64 == l.line)) })

/-- Host memory written. -/
def State.wrHost (s : State) (bs : List (Nat × Byte)) : State :=
  { s with hostMem := bs.foldl (fun m e => smSet (fun _ => none) m e.1 (some e.2)) s.hostMem }

/-! The fate of an action at a home (R257, R286). -/

/-- R286: the atom an action is about. -/
def HomeAct.pa : HomeAct → Nat
  | .store bs => (bs.head?.map (·.1)).getD 0
  | .rmw pa _ _ | .fill pa _ | .take pa | .det pa _ => pa

/-- R286: the atom lies in the footprint of a commit whose home receipt is out. -/
def State.commitAt (s : State) (pa : Nat) : Bool := s.commits.any (fun c => s.tileHas { desc := c.desc, asid := c.asid } pa)

/-- What becomes of an action that reaches a home. -/
inductive HomeFate where
  | now | hold
  | fail (cause : Nat)
  deriving DecidableEq, Repr

/-- R257, R286: it fails on a package out of service or a FROZEN footprint; it is held under tenure and behind what is held for its
atom; else it is performed. -/
def State.homeFate (s : State) (pa : Nat) : HomeFate :=
  if s.pkgDown (paPkg pa) then .fail 0x0A
  else if s.frozenAt pa then .fail (homeCause pa)
  else if s.tenuredAt pa || s.heldStores.any (fun h => h.act.pa / 32 == pa / 32) then .hold
  else .now

/-- R286, R293: the fate of an action that has been held: it came before any freeze. -/
def State.heldFate (s : State) (pa : Nat) : HomeFate :=
  if s.pkgDown (paPkg pa) then .fail 0x0A
  else if s.tenuredAt pa || s.heldStores.any (fun h => h.act.pa / 32 == pa / 32) then .hold
  else .now

/-- The fate of an action as it arrives, or as one that has been held. -/
def State.fateOf (s : State) (held : Bool) (pa : Nat) : HomeFate := if held then s.heldFate pa else s.homeFate pa

/-- R337: the lines of n bytes that an action performed late has to wait for: the host holds them, and no response has let it go on. -/
def State.hostWait (s : State) (pa n : Nat) : List Nat :=
  if paPkg pa ≠ Config.pkg then []
  else (s.hostLines pa n).filter (fun l =>
    !s.linePass.any (fun e => e.line == l && e.inv && (e.who == (agentCore, 2) || e.who == s.cur)))

/-- R337: an action waits at its home for lines that the host holds. -/
def State.holdLines (s : State) (ls : List Nat) (h : HeldStore) : State :=
  ls.foldl (fun s l => s.askHost l true) { s with heldStores := s.heldStores ++ [h] }

/-! Atomics (R259 to R261). -/

/-- R259: the new value of AMO. -/
def amoNew (op : AmoOp) (t : Ty) (old c : Nat) : Nat :=
  match op with
  | .add => (old + c) % 2 ^ t.width
  | .and => old &&& c
  | .or => old ||| c
  | .xor => old ^^^ c
  | .min => if tyInt t old ≤ tyInt t c then old else c
  | .max => if tyInt t c ≤ tyInt t old then old else c
  | .swap => c

/-- R261: the new value of a floating atomic and the flags it sets. -/
def amofNew (op : FOp) (old c : Nat) : Nat × Flags :=
  match op with
  | .add =>
    let (v, f) := fsum false 0 [fp32.val old, fp32.val c]
    let (r, f') := roundTo fp32 0 0 false v
    (r, f ||| f')
  | .min => (fminC fp32 old c, 0)
  | .max => (fmaxC fp32 old c, 0)

/-- R259 to R261: the new value, none for a comparison that fails, and the flags. -/
def RmwOp.eval (op : RmwOp) (old : Nat) : Option Nat × Flags :=
  match op with
  | .amo op t c => (some (amoNew op t old c), 0)
  | .cas _ want new => (if old = want then some new else none, 0)
  | .amof op c => let r := amofNew op old c; (some r.1, r.2)

/-- R42, R170: an integer of a type in a scalar register. -/
def widen (t : Ty) (v : Nat) : Word := BitVec.ofInt 64 (if t.isInt then tyInt t v else ((v % 2 ^ t.width : Nat) : Int))

/-! What the one who asked is told. -/

/-- R113, R364: FLAGS bits set late: in FLAGS, or in the record while the slot is stopped. -/
def Slot.lateFlags (x : Slot) (f : Flags) : Slot :=
  if x.mode = .faultService then { x with frec := { x.frec with flags := x.frec.flags ||| f } } else { x with flags := x.flags ||| f }

/-- R97, R261: the entries of an instruction get its value, its predicate and its flags; one that has no entry sets its flags. The slot
waits no longer. -/
def Slot.giveReply (x : Slot) (val pred : Option Nat) (v : Vec) (b : Bool) (f : Flags) : Slot :=
  let x := if val.isNone && pred.isNone then x.lateFlags f else x
  let x := match val with | some i => x.giveValue i v | none => x
  let x := match pred with | some i => x.giveValue i (vecB b) | none => x
  let mark := fun (e : SbEntry) => if some e.id = val ∨ (val = none ∧ some e.id = pred) then { e with flags := f } else e
  let x := { x with sb := x.sb.map mark, frec := { x.frec with saved := x.frec.saved.map mark } }
  { x with wait := match x.wait with
      | .future i => if some i = val ∨ some i = pred then .none else x.wait
      | w => w }

/-- R343, R349, R338, R264: what an action at a home has come to is told: its value, whether it wrote, its flags. -/
def State.tell (s : State) (w : Who) (r : Reply) (v : Nat) (wrote : Bool) (f : Flags) : State :=
  match r with
  | .none => s
  | .slot val pred t acq =>
    match s.writerAct w with
    | none => s
    | some _ =>
      (s.modSlot w.core w.slot (fun x => x.giveReply val pred (vecW (widen t v)) wrote f)).acquire w.core acq
  | .irq vec => if wrote && decide ((BitVec.ofNat 64 v).toInt ≤ 0) then s.out (.msix vec) else s
  | .packet q id => s.packetPart q id true
  | .host _ => s
  | .far pkg id => s.out (.farDone pkg id (bytesOf 8 v) wrote true)

/-- R97: an action of a slot's instruction fails late: the fault is raised when its result would land. -/
def State.tellFault (s : State) (w : Who) (r : Reply) (cause : Nat) (addr : Word) : State :=
  match r, s.writerAct w with
  | .far pkg id, _ => s.out (.farDone pkg id [] false false)
  | .slot val pred _ _, some _ =>
    s.modSlot w.core w.slot (fun x => match val, pred with
      | some i, _ | none, some i => x.giveFail i cause addr
      | none, none => x)
  | _, _ => s

/-- The action has an entry of its slot to answer. -/
def Reply.entry : Reply → Bool
  | .slot val pred _ _ => val.isSome || pred.isSome
  | .none | .irq _ | .packet _ _ | .host _ | .far _ _ => false

/-- R238: another package is answered. -/
def Reply.isFar : Reply → Bool
  | .far _ _ => true
  | .none | .slot _ _ _ _ | .irq _ | .packet _ _ | .host _ => false

/-- R249, R255: an action that would be a release meets the fault that waits for its activation's next release. One without an entry,
where the fault could be raised, leaves it to the next. -/
def State.releaseFault (s : State) (w : Who) (r : Reply) : Option FaultInfo :=
  if w.rel = .none ∨ r.entry = false then none else (s.writerAct w).bind (fun a => a.faultBefore w.num)

/-- R255: the fault of a late release is raised. -/
def State.tellRelease (s : State) (w : Who) (r : Reply) (f : FaultInfo) : State :=
  (s.modSlot w.core w.slot (fun x => { x with act := x.act.map Activation.takeFault })).tellFault w r f.cause f.addr

/-! Deterministic updates (R267 to R269). -/

/-- R268: order is lost at a slice in a round. -/
def State.detLose (s : State) (sl round : Nat) : State :=
  { s with det := { s.det with lost := if s.det.lost.contains (sl, round) then s.det.lost else s.det.lost ++ [(sl, round)] } }

/-- R270: a basket or a record of a round is lost to an uncorrectable error at a slice. -/
def State.detErr (s : State) (sl round : Nat) : State :=
  { s with det := { s.det with errs := if s.det.errs.contains (sl, round) then s.det.errs else s.det.errs ++ [(sl, round)] } }

/-- R370: the writer of an update that its home applies. -/
def detWho (u : DetUpdate) : Who :=
  { core := if u.issuer / 2 ^ 18 = Config.pkg then u.issuer / 64 % 4096 else agentCore, slot := 8, serial := 0, va := BitVec.ofNat 64 u.pa }


/-- R269: the bytes of a spill record. -/
def detRecord (u : DetUpdate) : List Byte :=
  let op := match u.op with | .add => 0 | .min => 1 | .max => 2
  bytesOf 8 u.pa ++ bytesOf 4 u.round ++ bytesOf 4 u.value.toNat ++ bytesOf 4 (u.issuer % 2 ^ 28 + op * 2 ^ 28) ++
    bytesOf 4 u.seq ++ bytesOf 8 0

/-- n bytes by a key: a physical address, or 2^56 above one of host memory. -/
def State.rdKey (s : State) (key n : Nat) : Nat :=
  if key < 2 ^ 56 then s.rdNat key n else wordOfBytes ((List.range n).map (fun i => s.hostByte (key - 2 ^ 56 + i)))

/-- Bytes of one atom written by a key. -/
def State.wrKey (s : State) (w : Who) (key : Nat) (bs : List Byte) : State :=
  if key < 2 ^ 56 then s.writeAtom w (key / 32) (placed key bs) else s.wrHost (placed (key - 2 ^ 56) bs)

/-- R238, R261: the element of an update lies in host memory, where no tenure is held. -/
def detOnHost (u : DetUpdate) : Bool := decide (2 ^ 56 ≤ u.pa)

/-- R261, R268, R270: one update applied to the home value of its element. One that finds the element unreadable is lost. -/
def State.detDo (s : State) (u : DetUpdate) : State × Flags :=
  if !detOnHost u && s.unreadable u.pa 4 then ((s.storeFailed (detWho u) (homeCause u.pa)).detErr (homeSlice (paOff u.pa)) u.round, 0)
  else
    let r := amofNew u.op (s.rdKey u.pa 4) u.value.toNat
    (s.wrKey (detWho u) u.pa (bytesOf 4 r.1), r.2)

/-- R257, R270: an update applied as it arrives, or at the close of its round: it fails on a FROZEN footprint. -/
def State.detApply (s : State) (u : DetUpdate) : State × Flags :=
  match (if detOnHost u then HomeFate.now else s.homeFate u.pa) with
  | .fail cause => (s.storeFailed (detWho u) cause, 0)
  | .hold | .now => s.detDo u

/-- R268: an update applied at once, or held under tenure or for a line that the host holds. -/
def State.detNow (s : State) (w : Who) (u : DetUpdate) : State :=
  if detOnHost u then (s.detDo u).1
  else match s.homeFate u.pa, s.hostWait u.pa 4 with
    | .hold, _ => { s with heldStores := s.heldStores ++ [⟨.det u.pa u, w, .none⟩] }
    | .fail _, _ | .now, [] => (s.detApply u).1
    | .now, ls => s.holdLines ls ⟨.det u.pa u, w, .none⟩

/-- R268, R269: one update to the spill area: COUNT rises by an atomic and the record is written. An area with no room has it applied
at once with LOST, and leaves COUNT at the capacity (DESIGN CHOICE, log 51: R269 does not say whether COUNT rises then); a COUNT that
cannot be read loses it. A record outside the area that the slice reads at close is lost. It is held while COUNT or the record is under
tenure, or in a line that the host holds (R337). held: it has been held before. -/
def State.detSpill (s : State) (w : Who) (sl : Nat) (area : Nat × Nat) (u : DetUpdate) (held : Bool) : State :=
  let far := decide (2 ^ 56 ≤ area.1)
  let n := s.rdKey area.1 8
  let at' := area.1 + 32 + 32 * n
  if !far && s.unreadable area.1 8 then s.detErr sl u.round
  else if n < (2 ^ area.2 - 32) / 32 then
    let ls := if far then [] else s.hostWait area.1 8 ++ s.hostWait at' 32
    match (if far then .now else s.fateOf held area.1), (if far then .now else s.fateOf held at') with
    | .hold, _ | _, .hold => { s with heldStores := s.heldStores ++ [⟨.det area.1 u, w, .none⟩] }
    | .fail cause, _ | _, .fail cause => s.storeFailed (detWho u) cause
    | .now, .now =>
      if !ls.isEmpty then s.holdLines ls ⟨.det area.1 u, w, .none⟩
      else
      let s := (s.wrKey (detWho u) area.1 (bytesOf 8 (n + 1))).wrKey (detWho u) at' (detRecord u)
      match s.det.areas.find? (fun x => x.1 == sl && x.2.1 == u.round) with
      | none => { s with det := { s.det with areas := s.det.areas ++ [(sl, u.round, area)] } }
      | some x => if x.2.2 = area then s else s.detLose sl u.round
  else (s.detNow w u).detLose sl u.round

/-- R268, R270: an update taken at its home slice. The record of an update to host memory could not name its element (R269), so that one
that overflows is applied at once, as without an area (DESIGN CHOICE, log 51). -/
def State.detArrive (s : State) (w : Who) (u : DetUpdate) : State :=
  let u := if detOnHost u then { u with area := none } else u
  let atom := u.pa / 32
  let sl := homeSlice (paOff u.pa)
  let d := s.det
  if d.closed.contains u.round then
    let s := s.detNow w u
    { s with det := { s.det with latePk := true, latePod := true } }
  else
    match d.spilled.find? (fun x => x.atom == atom && x.round == u.round) with
    | some x =>
      (match x.area with
       | some a => s.detSpill w sl a u false
       | none => (s.detNow w u).detLose sl u.round)
    | none =>
      let mine := d.baskets.find? (fun b => b.atom == atom && b.round == u.round)
      let other := d.baskets.any (fun b => b.atom == atom && b.round != u.round)
      let inSlice := (d.baskets.filter (fun b => homeSlice (b.atom * 32 % 2 ^ 46) == sl)).length
      let spilt := fun (a : Option (Nat × Nat)) => { s with det := { d with spilled := d.spilled ++ [Overflow.mk atom u.round a] } }
      match mine with
      | some b =>
        if b.ups.length < 16 then
          { s with det := { d with baskets := d.baskets.map (fun x => if x = b then { b with ups := b.ups ++ [u] } else x) } }
        else
          (match u.area with
           | none => ((spilt none).detNow w u).detLose sl u.round
           | some a =>
             let s := spilt (some a)
             let s := { s with det := { s.det with baskets := d.baskets.filter (fun x => !(x == b)) } }
             (b.ups ++ [u]).foldl (fun s u => s.detSpill w sl a u false) s)
      | none =>
        if other || decide (1024 ≤ inSlice) then
          (match u.area with
           | none => ((spilt u.area).detNow w u).detLose sl u.round
           | some a => (spilt u.area).detSpill w sl a u false)
        else { s with det := { d with baskets := d.baskets ++ [Basket.mk atom u.round [u]] } }

/-! Future cells (R263 to R265). -/

/-- R263: a cell written: its value and its state. -/
def State.setCell (s : State) (w : Who) (key v st : Nat) : State := s.wrKey w key (bytesOf 8 v ++ bytesOf 8 st)

/-- The writer that a deferred request names. -/
def Deferred.who (d : Deferred) : Who := { core := d.core, slot := d.slot, serial := d.serial, va := d.va, asid := d.asid }

/-- R253: an atomic or future access with an acquire meets the tag of the atom it reads. -/
def State.missAcq (s : State) (c key : Nat) (acq : Scope) : State := if acq = .none ∨ 2 ^ 56 ≤ key then s else s.scopeMissAt c key

/-- R264: whom the answer of a deferred request goes to. -/
def Deferred.reply (d : Deferred) (acq : Scope) : Reply :=
  match d.far with
  | some (pkg, id) => .far pkg id
  | none => .slot (some d.sbVal) (some d.sbPred) .n64 acq

/-- R264: a request gets the value: its entries have their results, its acquire is made and its slot goes on. -/
def State.answerOne (s : State) (d : Deferred) (v : Nat) : State :=
  let s := (s.missAcq d.core d.pa d.acq).tell d.who (d.reply d.acq) v true 0
  if !d.take || d.far.isSome then s
  else s.modSlot d.core d.slot (fun x => { x with sb := x.sb.map (fun e => if e.id = d.sbVal then { e with cell := some d.pa } else e) })

/-- R264: the requests deferred at a full cell are answered in arrival order, up to the first LDFT, which empties it. -/
def State.answerCell (s : State) (key v : Nat) : List Deferred → State
  | [] => s
  | d :: t =>
    if d.pa ≠ key then s.answerCell key v t
    else
      let s := (s.answerOne d v)
      let s := { s with deferred := s.deferred.filter (fun e => !(e == d)) }
      if d.take then s.setCell d.who key v 0 else s.answerCell key v t

/-- R265: an empty cell filled. -/
def State.fillCell (s : State) (w : Who) (key v : Nat) : State := (s.setCell w key v 1).answerCell key v s.deferred

/-- R264: a request at an empty cell: deferred while its slice has room, else answered with false. Only this package's slices hold
requests that the model sees; those of other packages are asked as one slice each. -/
def State.deferCell (s : State) (d : Deferred) : State :=
  let mine := s.deferred.filter (fun e => homeSlice (paOff (e.pa % 2 ^ 56)) == homeSlice (paOff (d.pa % 2 ^ 56)) &&
    (decide (2 ^ 56 ≤ e.pa) || decide (2 ^ 56 ≤ d.pa) || paPkg e.pa == paPkg d.pa))
  if mine.length < 64 then { s with deferred := s.deferred ++ [d] }
  else s.tell d.who (d.reply .none) 0 false 0

/-! Actions performed. -/

/-- R253: the scope of the acquire that an action makes. -/
def Reply.acq : Reply → Scope
  | .slot _ _ _ acq => acq
  | .none | .irq _ | .packet _ _ | .host _ | .far _ _ => .none

/-- R259: an atomic of n bytes at a physical address: its old value, whether it wrote, its flags. -/
def State.rmwAt (s : State) (w : Who) (r : Reply) (pa n : Nat) (op : RmwOp) : State × Nat × Bool × Flags :=
  let s := s.missAcq w.core pa r.acq
  let old := s.rdNat pa n
  let r := op.eval old
  (match r.1 with | some v => s.writeAtom w (pa / 32) (placed pa (bytesOf n v)) | none => s, old, r.1.isSome, r.2)

/-- R240, R241: a future cell cannot be read; key: its physical address, or 2^56 above its address in host memory. -/
def State.cellBad (s : State) (key : Nat) : Bool := decide (key < 2 ^ 56) && s.unreadable key 16

/-- R264: the request that an LDFT, or an access of another package, leaves at an empty cell. -/
def HeldStore.request (h : HeldStore) (pa : Nat) : Option Deferred :=
  let w := h.who
  match h.reply with
  | .slot (some i) (some j) _ acq => some ⟨w.core, w.slot, w.serial, i, j, pa, true, acq, w.asid, w.va, none⟩
  | .far pkg id => some ⟨w.core, w.slot, w.serial, 0, 0, pa, true, .none, w.asid, w.va, some (pkg, id)⟩
  | .slot _ _ _ _ | .none | .irq _ | .packet _ _ | .host _ => none

/-- R241: a home refuses bytes of an atom. -/
def State.refusesAtom (s : State) (pa n : Nat) : Bool :=
  (smGet (fun _ => false) s.poison (pa / 32) && decide (n < 32)) || s.offlineAt pa

/-- R286, R257: an action performed at its home, and its answer. -/
def State.perform (s : State) (h : HeldStore) : State :=
  let w := h.who
  match h.act with
  | .store bs =>
    if h.reply.isFar && s.refusesAtom h.act.pa bs.length then s.tellFault w h.reply 0x09 w.va
    else (s.writeAtom w (h.act.pa / 32) bs).tell w h.reply 0 true 0
  | .rmw pa n op =>
    if s.unreadable pa n then
      (match h.reply with
       | .slot (some _) _ _ _ | .far _ _ => s.tellFault w h.reply 0x09 w.va
       | _ => (s.storeFailed w (homeCause pa)).tell w h.reply 0 false 0)
    else
      (match s.releaseFault w h.reply, (op.eval (s.rdNat pa n)).1 with
       | some f, some _ => s.tellRelease w h.reply f
       | _, _ => let r := s.rmwAt w h.reply pa n op; r.1.tell w h.reply (match h.reply with | .irq _ => r.1.rdNat pa n | _ => r.2.1) r.2.2.1 r.2.2.2)
  | .fill pa v =>
    if s.cellBad pa then s.tellFault w h.reply 0x09 w.va
    else if 1 < s.rdKey (pa + 8) 8 then s.tellFault w h.reply 0x07 w.va
    else if s.rdKey (pa + 8) 8 = 1 then s.tell w h.reply 0 false 0
    else
      (match s.releaseFault w h.reply with
       | some f => s.tellRelease w h.reply f
       | none => (s.fillCell w pa v).tell w h.reply 0 true 0)
  | .take pa =>
    (match h.request pa with
     | some d =>
       if s.cellBad pa then s.tellFault w h.reply 0x09 w.va
       else if 1 < s.rdKey (pa + 8) 8 then s.tellFault w h.reply 0x07 w.va
       else if s.rdKey (pa + 8) 8 = 1 then
         let v := s.rdKey pa 8
         (s.answerOne d v).setCell w pa v 0
       else s.deferCell d
     | none => s)
  | .det pa u =>
    if pa = u.pa then (s.detDo u).1
    else match u.area with
      | some a => s.detSpill w (homeSlice (paOff u.pa)) a u true
      | none => s

/-- R257, R241, R255: an action that fails at its home: what it would write is not written, and its read stands (R253, R263, R264). One
that returns a value from a package out of service has none (R238); another package is told that its access has failed. -/
def State.homeFails (s : State) (h : HeldStore) (cause : Nat) : State :=
  let w := h.who
  let down := s.pkgDown (paPkg h.act.pa)
  if h.reply.isFar then s.tellFault w h.reply cause w.va
  else match h.act with
  | .store _ | .det _ _ => (s.storeFailed w cause).tell w h.reply 0 false 0
  | .rmw pa n op =>
    let s := s.missAcq w.core pa h.reply.acq
    let old := s.rdNat pa n
    let r := op.eval old
    let told := match h.reply with | .irq _ => false | _ => r.1.isSome
    (match h.reply with
     | .slot (some _) _ _ _ => if down then s.tellFault w h.reply 0x09 w.va
       else (if r.1.isSome then s.storeFailed w cause else s).tell w h.reply old told r.2
     | _ => (if r.1.isSome then s.storeFailed w cause else s).tell w h.reply old told r.2)
  | .fill pa _ =>
    let st := s.rdNat (pa + 8) 8
    if s.cellBad pa then s.tellFault w h.reply 0x09 w.va
    else if 1 < st then s.tellFault w h.reply 0x07 w.va
    else (if st = 0 then s.storeFailed w cause else s).tell w h.reply 0 (st == 0) 0
  | .take pa =>
    let st := s.rdNat (pa + 8) 8
    if s.cellBad pa || down then s.tellFault w h.reply 0x09 w.va
    else if 1 < st then s.tellFault w h.reply 0x07 w.va
    else if st = 1 then ((s.missAcq w.core pa h.reply.acq).storeFailed w cause).tell w h.reply (s.rdNat pa 8) true 0
    else (match h.request pa with
      | some d => s.deferCell d
      | none => s)

/-- R257, R286: an action that waits at its home. -/
def State.holdAct (s : State) (h : HeldStore) : State := { s with heldStores := s.heldStores ++ [h] }

/-- R257, R286: an action reaches its home. -/
def State.homeAct (s : State) (h : HeldStore) : State :=
  match s.homeFate h.act.pa with
  | .now => s.perform h
  | .hold => s.holdAct h
  | .fail cause => s.homeFails h cause

/-- R263, R238: an access to a future cell reaches its home; one in host memory is under no tenure. -/
def State.futureAct (s : State) (h : HeldStore) : State := if h.act.pa < 2 ^ 56 then s.homeAct h else s.perform h

/-- R338: the host's writes that are performed at pod scope by now are completed. -/
def State.settleHost (s : State) : State :=
  let open' := fun (w : Nat × Nat) => s.heldStores.any (fun h => h.reply == .host w.1 && h.who.num == w.2)
  { s with
    hostOut := s.hostOut.filter open'
    outbox := s.outbox ++ (s.hostOut.filter (fun w => !open' w)).map (fun w => Outgoing.hostDone w.1) }

/-- R250, R262: the VAMOFs whose lanes have all been performed end their wait. -/
def State.wakeLanes (s : State) : State :=
  s.cores.foldl (fun (s : State) (e : Nat × Core) => (List.range 5).foldl (fun s i =>
    let x := s.slotOf e.1 i
    if x.wait = .lanes ∧ s.heldStores.all (fun h => !(h.who.core == e.1 && h.who.slot == i &&
      (x.act.map (·.serial)) == some h.who.serial && h.reply.acq != .none)) = true
    then s.modSlot e.1 i (fun x => { x with wait := .none }) else s) s) s

/-- R286, R285: what is held is performed in arrival order where no tenure, no outstanding commit and no line of the host (R337) keeps it
any longer. What another package has to accept stays until its answer. -/
def State.applyHeld (s : State) : State :=
  (s.heldStores.foldl (fun (s : State) h =>
    let foreign := match h.act with | .det pa _ => paPkg pa != Config.pkg && !s.pkgDown (paPkg pa) | _ => false
    if foreign || s.commitAt h.act.pa then s.holdAct h
    else match s.heldFate h.act.pa, s.hostWait h.act.pa 1 with
      | .now, [] => (s.perform h).cacheDrop h.who.core [(h.act.pa, 0)]
      | .now, ls => s.holdLines ls h
      | .hold, _ => s.holdAct h
      | .fail cause, _ => s.homeFails h cause) { s with heldStores := [] }).wakeHome.wakeLanes.settleHost

/-- R241: a store reaches its homes. -/
def State.homeStore (s : State) (w : Who) (r : Reply) (bs : List (Nat × Byte)) : State :=
  (byAtom bs).foldl (fun s a => s.homeAct ⟨.store a.2, w, r⟩) s

/-! The way of a store (R246, R248, R255). -/

/-- The stores of a cluster's buffer. -/
def State.bufOf (s : State) (cl : Nat) : List BufStore := smGet (fun _ => []) s.clusterBuf cl

/-- R337: a store that has been on its way reaches its homes: one in a line that the host holds by then waits there. -/
def State.lateStore (s : State) (w : Who) (bs : List (Nat × Byte)) : State :=
  (byAtom bs).foldl (fun s a =>
    match s.hostWait (a.1 * 32) 32 with
    | [] => s.homeAct ⟨.store a.2, w, .none⟩
    | ls => s.holdLines ls ⟨.store a.2, w, .none⟩) s

/-- R246: a store leaves the cluster's buffer: it reaches its home, or leaves its forwarding home slice, where the other agents of the
package see it from now on (R35). -/
def State.leaveBuf (s : State) (b : BufStore) : State :=
  match b.remote with
  | some _ =>
    let w := { b.who with early := b.who.early.map (fun e => { e with out := some s.serial }) }
    { s with remoteOut := s.remoteOut ++ [{ b with who := w }] }
  | none => s.lateStore b.who b.bytes

/-- R248: stores of unordered pages to one atom combined: each keeps the bytes that no newer one has. -/
def combine : List BufStore → List BufStore
  | [] => []
  | b :: t =>
    let mine := b.bytes.filter (fun e => !t.any (fun x => x.bytes.any (fun y => y.1 == e.1)))
    if mine.isEmpty then combine t else { b with bytes := mine } :: combine t

/-- R241, R248: stores that combine to the whole of an atom replace it and clear its poison. -/
def State.wholeAtom (s : State) (atom : Nat) (bs : List BufStore) : State :=
  if (bs.map (fun b => b.bytes.length)).sum = 32 ∧ s.homeFate (atom * 32) = .now ∧ s.hostWait (atom * 32) 32 = []
  then { s with poison := smSet (fun _ => false) s.poison atom false } else s

/-- R246, R248: the stores of a cluster's buffer to one atom leave it in order; stores of unordered pages may combine, as the hardware
chooses (log 6). -/
def State.drainAtom (s : State) (cl atom : Nat) : State :=
  let mine := (s.bufOf cl).filter (fun b => b.bytes.any (fun e => e.1 / 32 == atom))
  let rest := (s.bufOf cl).filter (fun b => !b.bytes.any (fun e => e.1 / 32 == atom))
  let s := { s with clusterBuf := smSet (fun _ => []) s.clusterBuf cl rest }
  let loose := mine.all (fun b => b.who.loose && b.remote.isNone) && Config.freeNat s.choice atom % 2 == 1
  if loose then (combine mine).foldl (fun s b => s.leaveBuf b) (s.wholeAtom atom (combine mine))
  else mine.foldl (fun s b => s.leaveBuf b) s

/-- R249: the whole of a cluster's buffer leaves it. -/
def State.drainCluster (s : State) (cl : Nat) : State :=
  let buf := s.bufOf cl
  buf.foldl (fun s b => s.leaveBuf b) { s with clusterBuf := smSet (fun _ => []) s.clusterBuf cl [] }

/-- R286: every cluster's buffer leaves it. -/
def State.drainAll (s : State) : State := s.clusterBuf.foldl (fun s e => s.drainCluster e.1) s

/-- R261, R255: another package has accepted a deterministic update, or it has failed there. -/
def State.acceptDet (s : State) (id : Nat) (ok : Bool) : State :=
  match s.heldStores.find? (fun h => h.who.num == id && (match h.act with | .det _ _ => paPkg h.act.pa != Config.pkg | _ => false)) with
  | none => s
  | some h =>
    let s := { s with heldStores := s.heldStores.filter (fun x => !(x == h)) }
    (if ok then s else s.storeFailed h.who 0x0A).applyHeld

/-- R255: a posted store is acknowledged: its bytes are performed at the owning home, and no older store to them comes after. -/
def State.acknowledge (s : State) (id : Nat) (ok : Bool) : State :=
  match s.remoteOut.find? (fun b => b.remote == some id) with
  | none => s.acceptDet id ok
  | some b =>
    let older := s.remoteOut.takeWhile (fun e => e.remote != some id)
    let newer := (s.remoteOut.dropWhile (fun e => e.remote != some id)).drop 1
    let older := if ok then older.map (fun e => { e with bytes := e.bytes.filter (fun x => !b.bytes.any (fun y => y.1 == x.1)) }) else older
    let w := b.who
    let s := { s with remoteOut := older ++ newer }
    let s := match s.writerAct w with
      | some a => s.modSlot w.core w.slot (fun x => { x with act := some { a with posted := a.posted.filter (fun p => p.1 != id) } })
      | none => s
    (if ok then s.lateStore w b.bytes else s.storeFailed w 0x0A).wakeHome

/-- R247: the stores to an atom that are on their way from core c's cluster reach its home first. -/
def State.flushAtom (s : State) (c atom : Nat) : State :=
  let s := s.drainAtom (clusterOf c) atom
  (s.remoteOut.filter (fun b => b.bytes.any (fun e => e.1 / 32 == atom))).foldl (fun s b =>
    match b.remote with | some id => s.acknowledge id true | none => s) s

/-- R233: in the relaxed running the accesses of a core that miss the TLBs may leave their walks' translations in them, page by page
(log 10). -/
def State.walkDues (s : State) (c asid : Nat) (vas : List Word) : State :=
  if !s.relaxed || decide (agentCore ≤ c) then s
  else vas.foldl (fun s va =>
    if !Config.freeBool s.choice || s.tlb.any (fun t => (t.page? c asid va.toNat).isSome) then s
    else { s.due (.walkCompletion c asid (va.toNat / 65536)) with choice := s.choice + 1 }) s

/-- How a store goes: at once to its home, or through the store path of a slot. -/
inductive Via where
  | slot | atomic | engine
  deriving DecidableEq, Repr

/-- R246, R248, R255: bytes of one atom stored. In the relaxed running a slot's stores to release-consistent and unordered pages wait
in the cluster's buffer, where stores to another package are posted (log 10); a store that its home would hold or refuse goes there
at once. -/
def State.storeAtom (s : State) (w : Who) (via : Via) (ord atom : Nat) (bs : List (Nat × Byte)) : State :=
  let remote := paPkg (atom * 32) != Config.pkg
  let w := { w with num := s.order, loose := ord == 2, strong := ord == 0 && via == .slot }
  let s := { s with order := s.order + 1 }
  let fate := if remote then .now else s.homeFate (atom * 32)
  if s.relaxed && ord != 0 && via == .slot && fate == .now then
    let cl := clusterOf w.core
    let b : BufStore := ⟨bs, { w with early := some { cl := cl, buf := s.serial } }, if remote then some w.num else none⟩
    let s := { s.cacheStore w.core bs with clusterBuf := smSet (fun _ => []) s.clusterBuf cl (s.bufOf cl ++ [b]) }
    if remote then s.modSlot w.core w.slot (fun x => { x with act := x.act.map (fun a => { a with posted := a.posted ++ [(w.num, w.va)] }) })
    else s
  else
    let s := if s.relaxed then s.flushAtom w.core atom else s
    let s := if via != .slot then s.cacheDrop w.core bs else if fate == .now then s.cacheStore w.core bs else s
    s.homeStore w .none bs

/-- R227, R238, R246: bytes of one page piece stored; a store to the window of another package leaves for it, and its answer is awaited
(R248). -/
def State.writePiece (s : State) (w : Who) (via : Via) (sys : Bool) (p : Page) (pl : List (Nat × Byte)) : State :=
  if p.host then s.wrHost pl
  else if p.window then
    if paPkg p.pa = Config.pkg then { s with agenda := s.agenda ++ s.windowStore (paOff p.pa) (pl.map (·.2)) sys }
    else if s.pkgDown (paPkg p.pa) then s.storeFailed w 0x0A
    else
      let w := { w with num := s.order, strong := via == .slot }
      { s.out (.window p.pa (pl.map (·.2))) with order := s.order + 1, remoteOut := s.remoteOut ++ [⟨[], w, some s.order⟩] }
  else (byAtom pl).foldl (fun s a => s.storeAtom w via p.ord a.1 a.2) s

/-- R337: no line of the pieces is held by the host. -/
def State.noHostLine (s : State) (c : Nat) (ps : List (Page × Word × Nat)) : Except AccFault Unit :=
  match ps.findSome? (fun x => if x.1.host || x.1.window then none else s.hostLine c x.1.pa x.2.2 true) with
  | some l => .error (.line l true)
  | none => .ok ()

/-- The atoms of n bytes. -/
def atomsIn (pa n : Nat) : List Nat := (List.range ((pa + n - 1) / 32 + 1 - pa / 32)).map (fun i => pa / 32 + i)

/-- R286: an action would be held at a home slice that holds 64 already. -/
def State.sliceFull (s : State) (pa : Nat) : Bool :=
  s.homeFate pa == .hold &&
  decide (64 ≤ (s.heldStores.filter (fun h => paPkg h.act.pa == paPkg pa && homeSlice (paOff h.act.pa) == homeSlice (paOff pa))).length)

/-- R255, R286: the room for the stores of a slot: 64 posted ones, of which a 65th waits, and the 64 held ones of a home slice. -/
def State.postRoom (s : State) (w : Who) (ps : List (Page × Word × Nat)) : Except AccFault Unit :=
  let mem := ps.filter (fun x => !x.1.host && !x.1.window)
  let far := if s.relaxed then mem.filter (fun x => x.1.ord != 0 && paPkg x.1.pa != Config.pkg) else []
  if !far.isEmpty && (match s.writerAct w with
      | some a => decide (64 < a.posted.length + (far.flatMap (fun x => atomsIn x.1.pa x.2.2)).length)
      | none => false)
  then .error .busy
  else if !s.heldStores.isEmpty && mem.any (fun x => (atomsIn x.1.pa x.2.2).any (fun a => s.sliceFull (a * 32))) then .error .busy
  else .ok ()

/-- R245, R231: a global store; both pages of a straddling access are checked before either part is performed. -/
def State.writeG (s : State) (w : Who) (via : Via) (sys : Bool) (bs : List Byte) : Except AccFault State := do
  let ps ← s.pagesOf w.core w.asid w.va bs.length .write
  s.noHostLine w.core ps
  s.postRoom w ps
  return (ps.foldl (fun (a : State × List Byte) x =>
    (a.1.writePiece { w with va := x.2.1 } via sys x.1 (placed x.1.pa (a.2.take x.2.2)), a.2.drop x.2.2))
    (s.walkDues w.core w.asid (ps.map (·.2.1)), bs)).1

/-- R171, R241, R245: the bytes of an aligned vector store that its mask enables, by their offset in the line, lanes of n bytes; each
atom is one access. The device register window gets each lane as an access of its own (DESIGN CHOICE, log 61: R227 takes accesses of
8 bytes, R171 does not say what an aligned vector presents there). -/
def State.writeAligned (s : State) (w : Who) (sys : Bool) (n : Nat) (bs : List (Nat × Byte)) : Except AccFault State := do
  let p := (← s.translate w.core w.asid w.va .write)
  let p := { p with pa := p.pa / 64 * 64 }
  let pl := bs.map (fun e => (p.pa + e.1, e.2))
  s.noHostLine w.core [(p, w.va, 64)]
  s.postRoom w ((byAtom pl).map (fun a => ({ p with pa := a.1 * 32 }, w.va, 32)))
  let s := s.walkDues w.core w.asid [w.va]
  return if p.window then
      (pl.toChunks n).foldl (fun s l => s.writePiece w .slot sys { p with pa := (l.head?.map (·.1)).getD p.pa } l) s
    else s.writePiece w .slot sys p pl

/-- R172, R182: bytes written by an engine of a core. -/
def State.writeEng (s : State) (w : Who) (sys glob : Bool) (bs : List Byte) : Except AccFault State :=
  if bs.isEmpty then .ok s
  else if !glob then s.writeL w.core (w.va.toNat % 262144) bs
  else do
    let ps ← (pageChunks w.va bs.length).mapM (fun x => (s.translate w.core w.asid x.1 .write).map (fun p => (p, x.1, x.2)))
    s.noHostLine w.core ps
    return (ps.foldl (fun (a : State × List Byte) x =>
      (a.1.writePiece { w with va := x.2.1 } .engine sys x.1 (placed x.1.pa (a.2.take x.2.2)), a.2.drop x.2.2))
      (s.walkDues w.core w.asid (ps.map (·.2.1)), bs)).1

/-! Atomics of every agent. -/

/-- R238, R255, R337: the page of an atomic of n bytes, with the faults and waits of its address; ret: it returns a value. none: it
fails as a store. -/
def State.atomicPage (s : State) (w : Who) (ret : Bool) (n : Nat) : Except AccFault (Option Page) := do
  let p ← s.translate w.core w.asid w.va .atomic
  if p.host then return some p
  if s.pkgDown (paPkg p.pa) || (!p.window && s.unreadable p.pa n) then
    if ret then throw (.abort 0x09 w.va) else return none
  if p.window then return some p
  match s.hostLine w.core p.pa n true with
  | some l => throw (.line l true)
  | none => return some p

/-- What an atomic comes to: performed, with its old value, whether it wrote and its flags; or held, and answered later. -/
inductive AtomOut where
  | done (s : State) (old : Nat) (wrote : Bool) (f : Flags)
  | later (s : State)

/-- R227, R245, R257, R259: n bytes read and written as one action at their home. A management register reads 0 and keeps its value. -/
def State.atomicG (s : State) (w : Who) (ret : Bool) (n : Nat) (op : RmwOp) (r : Reply) : Except AccFault AtomOut :=
  match s.atomicPage w ret n with
  | .error f => .error f
  | .ok none => .ok (.done (s.storeFailed w (match s.translate w.core w.asid w.va .atomic with | .ok p => homeCause p.pa | .error _ => 0x09)) 0 false 0)
  | .ok (some p) =>
    let s := s.walkDues w.core w.asid [w.va]
    if p.host then
      let old := wordOfBytes ((List.range n).map (fun i => s.hostByte (p.pa + i)))
      let v := op.eval old
      .ok (.done (match v.1 with | some x => s.wrHost (placed p.pa (bytesOf n x)) | none => s) old v.1.isSome v.2)
    else if p.window then let v := op.eval 0; .ok (.done s 0 v.1.isSome v.2)
    else
      let w := { w with num := s.order, loose := p.ord == 2, strong := p.ord == 0 }
      let s := { s with order := s.order + 1 }
      let s := (if s.relaxed then s.flushAtom w.core (p.pa / 32) else s).cacheDrop w.core [(p.pa, 0)]
      match s.homeFate p.pa with
      | .now => let x := s.rmwAt w r p.pa n op; .ok (.done x.1 x.2.1 x.2.2.1 x.2.2.2)
      | .hold => if s.sliceFull p.pa then .error .busy else .ok (.later (s.holdAct ⟨.rmw p.pa n op, w, r⟩))
      | .fail cause =>
        let s := s.missAcq w.core p.pa r.acq
        let old := s.rdNat p.pa n
        let v := op.eval old
        .ok (.done (if v.1.isSome then s.storeFailed w cause else s) old v.1.isSome v.2)

/-- R311, R343, R349: an atomic of an agent outside the cores, a release at the scope of w; who is told what it comes to is told at once, or
when it is performed. -/
def State.agentRmw (s : State) (w : Who) (n : Nat) (op : RmwOp) (r : Reply) : Except AccFault State :=
  match s.atomicPage w false n with
  | .error f => .error f
  | .ok none =>
    .ok ((s.storeFailed w 0x09).tell w r 0 false 0)
  | .ok (some p) =>
    if p.host then
      let v := op.eval (wordOfBytes ((List.range n).map (fun i => s.hostByte (p.pa + i))))
      .ok (match v.1 with | some x => (s.wrHost (placed p.pa (bytesOf n x))).tell w r x true 0 | none => s.tell w r 0 false 0)
    else if p.window then .ok (s.tell w r 0 false 0)
    else .ok ({ s with order := s.order + 1 }.homeAct ⟨.rmw p.pa n op, { w with num := s.order }, r⟩)

/-! Releases and the cache role. -/

/-- An engine command is still in its queue. -/
def Core.inQueue (k : Core) (ord : Nat) : Bool := k.copy.q.any (fun c => c.ord == ord) || k.matrix.q.any (fun c => c.ord == ord)

/-- R257, R286: a store of the activation, or of an engine command of it that has completed, still waits at its home. -/
def State.heldAny (s : State) (c i serial : Nat) : Bool :=
  s.heldStores.any (fun h => h.who.core == c && h.who.slot == i && h.who.serial == serial && !(s.coreOf c).inQueue h.who.ord)

/-- R254: the commands of the activation of slot i whose writes are earlier stores of the slot. -/
def State.joinedOf (s : State) (c i : Nat) : List Nat := ((s.slotOf c i).act.map (·.joined)).getD []

/-- R257, R286, R254: an earlier store that a release of the activation waits for still waits at its home: its own, or one of an engine
command that has completed and whose token the slot has read, or behind which it has passed an MXWAIT. loose: stores to unordered pages
count too (R248). -/
def State.heldOf (s : State) (c i serial : Nat) (loose : Bool) : Bool :=
  s.heldStores.any (fun h => h.who.core == c && h.who.slot == i && h.who.serial == serial && (loose || !h.who.loose) &&
    !(s.coreOf c).inQueue h.who.ord && (h.who.ord == 0 || (s.joinedOf c i).contains h.who.ord))

/-- R249: a release at stack-group scope or wider has drained the cluster's buffer. -/
def State.releaseDrain (s : State) (c : Nat) (scope : Scope) : State :=
  match scope with
  | .none | .core | .cluster => s
  | .sg | .pkg | .pod => s.drainCluster (clusterOf c)

/-- R239: the lines that the cache-role banks of a core hold, 128 in each. -/
def Core.lineRoom (k : Core) : Nat := ((List.range 32).filter (fun b => k.role b == 1)).length * 128

/-- R239: a line enters the cache role; with no room it takes the place of one that the hardware chooses. -/
def Core.addLine (k : Core) (l : CacheLine) (choice : Nat) : Core :=
  let old := if k.cacheLines.length < k.lineRoom then k.cacheLines
    else k.cacheLines.eraseIdx (Config.freeNat choice l.line % k.cacheLines.length)
  { k with cacheLines := old ++ [l] }

/-- R239: a held line has been read through a page. -/
def Core.seenThrough (k : Core) (line : Nat) (page : Nat × Nat) : Core :=
  { k with cacheLines := k.cacheLines.map (fun l => if l.line = line ∧ ¬ l.via.contains page then { l with via := l.via ++ [page] } else l) }

/-- R239, R241: a load's miss may allocate lines in the cache-role banks, as the hardware chooses, in the relaxed running (log 10). A
line that cannot be read whole is not held. -/
def State.cacheFill (s : State) (c asid : Nat) (ps : List (Page × Word × Nat)) : State :=
  if !s.relaxed || (s.coreOf c).lineRoom == 0 then s
  else (ps.flatMap (fun x => (lineParts x.1.pa x.2.2).map (fun y => (x.1, x.2.1, y.1 / 64)))).foldl (fun s x =>
    let page := (asid, x.2.1.toNat / 65536)
    let ln := x.2.2
    if !x.1.cache || x.1.host || x.1.window then s
    else if (s.lineOf? c ln).isSome then s.modCore c (fun k => k.seenThrough ln page)
    else if Config.freeBool s.choice && (s.homeFault c x.2.1 (ln * 64) 64).isNone then
      let bs := (List.range 64).map (fun i => s.seenByte c false (ln * 64 + i))
      { s.modCore c (fun k => k.addLine ⟨ln, bs, [page]⟩ s.choice) with choice := s.choice + 1 }
    else s) s

end Sys2Proof.Machine
end

