-- ==== Sys2Proof/Machine/Ops.lean ====
section
/-! DEFINITION. Ending an activation: what it had buffered is discarded, an aborting fault, the end of its gang; stopping it by a
resumable fault; and the fault of an access. -/
namespace Sys2Proof.Machine

/-! Ending an activation by an aborting fault (R368, R69). -/

/-- R354: the count of a launch in a stack group changes. -/
def State.launchCount (s : State) (lid sg : Nat) (by' : Int) : State :=
  match smGet (fun _ => none) s.launches lid with
  | none => s
  | some l =>
    let l := { l with
      c := smSet (fun _ => 0) l.c sg (smGet (fun _ => 0) l.c sg + by')
      x := smSet (fun _ => 0) l.x sg (smGet (fun _ => 0) l.x sg + 1)
      swept := none }
    { s with launches := smSet (fun _ => none) s.launches lid (some l) }

/-- R354: a launch has a failed task. -/
def State.launchFail (s : State) (lid : Nat) : State :=
  match smGet (fun _ => none) s.launches lid with
  | none => s
  | some l => { s with launches := smSet (fun _ => none) s.launches lid (some { l with fail := true }) }

/-- R356: the address of a place of the spill ring. -/
def Core.spillAt (k : Core) (n : Nat) : Nat := k.dqSpb.toNat * 2048 + 64 * n

/-- R353: a deque entry with its descriptor, which local memory holds for an entry of the spill ring. -/
def Core.readEntry (k : Core) (e : DequeEntry) : DequeEntry :=
  match e.pos with
  | none => e
  | some n => { e with desc := k.rdLoc (k.spillAt n) 64 }

/-- R353: the whole deque, top first. -/
def Core.tasks (k : Core) : List DequeEntry := k.deque ++ k.spillDeque.map k.readEntry

/-- R353, R163: an entry of the spill ring keeps its place, or takes the lowest free one (log 16) and is written there. -/
def Core.spillEntry (k : Core) (e : DequeEntry) : Core :=
  match e.pos with
  | some _ => { k with spillDeque := k.spillDeque ++ [e] }
  | none =>
    let n := ((List.range (2 ^ k.dqLog2.toNat)).find? (fun i => !k.spillDeque.any (fun x => x.pos == some i))).getD 0
    { k.wrLoc (placed (k.spillAt n) e.desc) with spillDeque := k.spillDeque ++ [{ e with pos := some n }] }

/-- R353: the deque, top first: 64 hardware entries, then the spill ring. Entries that stay in the ring keep their places. -/
def Core.setDeque (k : Core) (l : List DequeEntry) : Core :=
  let spill := l.drop 64
  let k := { k with deque := (l.take 64).map (fun e => { e with pos := none }), spillDeque := spill.filter (fun e => e.pos.isSome) }
  (spill.filter (fun e => e.pos.isNone)).foldl Core.spillEntry k

/-- R355, R368: the spawns a slot holds are discarded. -/
def State.dropSpawns (s : State) (c i : Nat) : State :=
  let k := s.coreOf c
  let mine := k.tasks.filter (fun e => e.held == some i)
  let keep := fun (e : DequeEntry) => e.held != some i
  mine.foldl (fun s e => s.launchCount e.launch (sgOf c) (-1))
    (s.modCore c (fun k => k.setDeque (k.tasks.filter keep)))

/-- R264: the LDFT answers that an ending activation has not landed go back into their cells if these are still empty. -/
def State.returnCells (s : State) (c i : Nat) : State :=
  let x := s.slotOf c i
  (x.sb ++ x.frec.saved).foldl (fun s e =>
    match e.cell, e.value with
    | some key, some v =>
      let w : Who := { core := agentCore, slot := 0, serial := 0, va := e.addr }
      s.futureAct ⟨.fill key v.toNat, w, .none⟩
    | _, _ => s) s

/-- R332: the block number that an RSEND or RFWD of an ending activation has taken is skipped; its release is still to come. -/
def State.skipTaken (s : State) (r n : Nat) : State :=
  match smGet (fun _ => none) s.rings r with
  | none => s
  | some g => { s with rings := smSet (fun _ => none) s.rings r (some { g with awaitRel := g.awaitRel ++ [n] }) }.out (.ringSkip r n)

/-- R215, R368: the sends of an ending activation that may not leave yet are discarded. -/
def State.dropSends (s : State) (c i : Nat) : State :=
  s.modCore c (fun k => { k with sendBuf := k.sendBuf.filter (fun e => e.slot != i || e.leaving) })

/-- R264: an LDFT of the activation of slot i of core c that waits at its home. -/
def HeldStore.takeOf (h : HeldStore) (c i serial : Nat) : Bool :=
  h.who.core == c && h.who.slot == i && h.who.serial == serial && (match h.act with | .take _ => true | _ => false)

/-- R264, R368: its deferred future requests, those held at their homes among them, and its watches are discarded. -/
def State.dropWaits (s : State) (c i : Nat) : State :=
  { s with
    heldStores := s.heldStores.filter (fun h => !h.takeOf c i (((s.slotOf c i).act.map (·.serial)).getD 0))
    deferred := s.deferred.filter (fun d => !(d.core == c && d.slot == i))
    watches := s.watches.filter (fun w => !(w.core == c && w.slot == i)) }

/-- R332: the block number that its waiting RSEND or RFWD has taken is skipped. -/
def State.dropTaken (s : State) (c i : Nat) : State :=
  match (s.slotOf c i).act.bind (·.ringNum) with
  | some (r, n) => s.skipTaken r n
  | none => s

/-- R46: a command of slot i under a pending guard, or one that still lacks what its slot gives it when its guard acts. -/
def EngCmd.unbound (h : EngCmd) (i : Nat) : Bool := h.slot == i && (h.guard.isSome || h.late)

/-- The unbound commands of slot i that an engine queue holds are discarded. -/
def EngineQ.dropGuarded (e : EngineQ) (i : Nat) : EngineQ := { e with q := e.q.filter (fun m => !m.unbound i) }

/-- R46, R368: its unbound commands are discarded; a block number that one has taken is skipped (R332). -/
def State.dropGuarded (s : State) (c i : Nat) : State :=
  let taken := ((s.coreOf c).copy.q.filter (fun h => h.unbound i)).filterMap (fun h => match h.instr, h.lateBlk with
    | .rsend _ _ _ _ r _ _ _, some n | .rfwd _ _ _ r _, some n => some (r.val, n)
    | _, _ => none)
  taken.foldl (fun s t => s.skipTaken t.1 t.2)
    (s.modCore c (fun k => { k with matrix := k.matrix.dropGuarded i, copy := k.copy.dropGuarded i }))

/-- R164: its BANK_ROLE write that waits is dropped. -/
def State.dropRole (s : State) (c i : Nat) : State :=
  s.modCore c (fun k => if (k.rolePend.map (fun p => p.2.2)) = some i then { k with rolePend := none } else k)

/-- R368: what an ending activation had buffered is discarded. -/
def State.discardHeld (s : State) (c i : Nat) : State :=
  ((((((s.dropRole c i).dropWaits c i).returnCells c i).dropSends c i).dropTaken c i).dropGuarded c i).dropSpawns c i

/-- R368: a slot whose activation ends by an aborting fault: its record is written and it drains; leases run on. -/
def Slot.aborted (x : Slot) (r : FaultRec) (cause : Nat) (noretry : Bool) : Slot :=
  { x with
    mode := .draining, wait := .none, frec := r, tests := [], sbWait := none
    sb := (x.sb ++ x.frec.saved).filter (fun e => e.lease)
    act := x.act.map (fun a => { a with ending := some (.fault cause noretry), heldSubs := [], popped := [], lanesDone := 0 }) }

/-- R368: one activation ends by an aborting fault with the record given: it is logged, what the activation buffered is discarded,
the slot drains. Leases and engine commands run on. -/
def State.abortWith (s : State) (c i : Nat) (r : FaultRec) (cause : Nat) (noretry : Bool) : State :=
  (((s.discardHeld c i).modSlot c i (fun x => x.aborted r cause noretry)).modCore c
    (fun k => { k with cntAbort := satInc k.cntAbort })).flog 1 (globalCore c) r []

/-- R368: one activation ends by an aborting fault at pc: the record is written. -/
def State.abortOne (s : State) (c i : Nat) (f : FaultInfo) (pc : Word) (noretry : Bool) : State :=
  s.abortWith c i (mkRec (s.slotOf c i) i false f pc pc) f.cause noretry

/-- R378: a record whose fault ends as aborting: only CAUSE and RES change. -/
def FaultRec.ended (r : FaultRec) (cause : Nat) : FaultRec :=
  { r with cause := (r.cause &&& ~~~(0x800000FF#64)) ||| BitVec.ofNat 64 (cause % 256), saved := [] }

/-- R378: an activation in fault service ends with a cause, as by RESUME.abort. -/
def State.endStopped (s : State) (c i : Nat) (cause : Nat) : State :=
  s.abortWith c i ((s.slotOf c i).frec.ended cause) cause false

/-- R69, R372, R362: the end of its gang or of its core ends an activation in fault service with that cause and its FAULT_ADDR. -/
def State.endStoppedBy (s : State) (c i : Nat) (cause : Nat) (addr : Word) : State :=
  s.abortWith c i { (s.slotOf c i).frec.ended cause with addr := addr } cause false

/-- R60: what follows an item of the work list whose porter activation has ended by an aborting fault: a message is refused, a record
is dropped, a fault being served is forwarded to the driver, the core leaves service. -/
def WorkItem.afterFault : WorkItem → List WorkItem
  | .spill q m => [.spillFailed q m]
  | .replay q => [.replayFailed q]
  | .service i => [.forward i]
  | .engService e => [.engForward e]
  | .answer _ (some e) _ => [.engForward e]
  | .answer _ none i => [.forward i]
  | .bookkeeping => [.leaveService]
  | .forward _ | .engForward _ | .leaveService | .spillFailed _ _ | .replayFailed _ => []

/-- R60: an item whose own effect is made as the activation of a replaced handler entry returns (log 62). -/
def WorkItem.atReturn : WorkItem → Bool
  | .spill _ _ | .replay _ | .answer _ _ _ => true
  | .service _ | .engService _ | .forward _ | .engForward _ | .bookkeeping | .leaveService | .spillFailed _ _ | .replayFailed _ => false

/-- R60, R215: an aborting fault of the porter ends its activation, if a replaced handler entry runs one, is logged and counted; what
it had buffered is discarded. -/
def State.abortPorter (s : State) (c : Nat) (f : FaultInfo) (pc : Word) : State :=
  let r := mkRec (s.slotOf c 4) 4 false f pc pc
  let s := (s.discardHeld c 4).modCore c (fun k =>
    let k := k.modSlot 4 (fun x => if x.act.isSome then x.aborted r f.cause false else { x with frec := r })
    { k with cntAbort := satInc k.cntAbort, serving := none
             work := (match k.serving with | some w => w.afterFault | none => []) ++ k.work })
  s.flog 1 (globalCore c) r []

/-- R65: messages leave a queue; a new head is the head from now on. -/
def Queue.without (q : Queue) (now : Nat) (gone : Message → Bool) : Queue :=
  let ms := q.msgs.filter (fun w => !gone w)
  if (q.msgs.head?.map gone).getD false then { q with msgs := ms, headSince := now, aborts := 0 } else { q with msgs := ms }

/-- R69: a gang member that still holds its slot takes the budget trap with the gang's end; one that has not started loses its
message and reservation. -/
def State.gangEndMember (s : State) (gid : Nat) (m : GMember) : State :=
  match m.slot with
  | none => s
  | some i =>
    let x := s.slotOf m.core i
    match x.act with
    | some a =>
      if a.gang ≠ some gid then s
      else
        let t := s.modSlot m.core i (fun x => { x with budget := 0 })
        (match x.mode with
         | .running => t.abortOne m.core i ⟨0x0D, BitVec.ofNat 64 gid, 0, 0⟩ x.pc false
         | .faultService => t.endStoppedBy m.core i 0x0D (BitVec.ofNat 64 gid)
         | .free | .draining => s)
    | none =>
      s.modCore m.core (fun k =>
        let k := k.modSlot i (fun x => if x.reserved.map (·.1) = some gid then { x with reserved := none } else x)
        let q := smGet (fun _ => {}) k.queues m.queue
        { k with queues := smSet (fun _ => {}) k.queues m.queue
                            (q.without s.cycle.toNat (fun w => w.kind == .gang && w.msgid == gid)) })

/-- R69: the gang ends: its packet fails, every other member takes the budget trap of cause 0x0D. -/
def State.gangEnd (s : State) (gid : Nat) : State :=
  match smGet (fun _ => none) s.gangs gid with
  | none => s
  | some g =>
    if g.ended then s
    else
      let s := { s with gangs := smSet (fun _ => none) s.gangs gid (some { g with ended := true }) }
      let s := s.packetPart g.queue g.packet false
      let s := g.members.foldl (fun s m => s.gangEndMember gid m) s
      if g.members.all (fun m => m.returned || !m.started) then { s with gangs := smSet (fun _ => none) s.gangs gid none } else s

/-- R69: the end of the activation of slot i of core c ends its gang. -/
def State.endsGang (s : State) (a : Option Activation) : State :=
  match a.bind (·.gang) with
  | some gid => s.gangEnd gid
  | none => s

/-- R368: an aborting fault of slot i of core c at pc. -/
def State.abort (s : State) (c i : Nat) (f : FaultInfo) (pc : Word) (noretry : Bool) : State :=
  if i = 4 then s.abortPorter c f pc
  else (s.abortOne c i f pc noretry).endsGang (s.slotOf c i).act

/-- R368: an aborting fault of the issuing instruction. -/
def State.abortMe (s : State) (f : FaultInfo) : State :=
  { s.abort s.cur.1 s.cur.2 f s.me.pc false with pairNext := none }

/-- R313, R371: an uncorrectable error that has ended the activation of slot i of core c came from the core's own banks or registers. -/
def State.noteOwn (s : State) (c i : Nat) (own : Bool) : State :=
  if own && (match (s.slotOf c i).act.bind (·.ending) with | some (.fault cause _) => cause == 0x09 | some .reth | none => false) then
    s.modSlot c i (fun x => { x with act := x.act.map (fun a => { a with ownErr := true }) })
  else s

/-! Resumable faults (R364). -/

/-- R364 steps 1 to 3: slot i stops in fault service at restart point rpc, and the porter gets a work item. -/
def State.stop (s : State) (c i : Nat) (f : FaultInfo) (pc rpc : Word) : State :=
  let r := fun (x : Slot) => { mkRec x i true f pc rpc with cycle := s.cycle, since := s.wall }
  let s := s.modSlot c i (fun x => { x with mode := .faultService, wait := .none, frec := r x, sb := [], sbWait := none })
  s.modCore c (fun k => { k with work := k.work ++ [.service i] })

/-- R364, R60: a translation fault of the issuing instruction: it stops the slot; in the porter it is cause 0x0F, aborting.
The second instruction of a pair restarts alone (R48). -/
def State.stopMe (s : State) (f : FaultInfo) : State :=
  if s.cur.2 = 4 then s.abortMe { f with cause := 0x0F }
  else { s.stop s.cur.1 s.cur.2 f s.me.pc s.me.pc with pairNext := none }

/-- R364 step 4: the saved entries return to the scoreboard, DONE entries land at once in order with what has been set in FLAGS, and
the slot restarts. -/
def Slot.settle (x : Slot) : Slot :=
  let keep := x.frec.saved.filter (fun e => e.value.isNone)
  let y := x.frec.saved.foldl (fun (x : Slot) (e : SbEntry) =>
    match e.value with | some v => { x.landValue e.cls e.reg v with flags := x.flags ||| e.flags } | none => x) x
  { y with sb := keep, mode := .running, pc := x.frec.rpc, flags := y.flags ||| x.frec.flags
           frec := { x.frec with saved := [], ids := [], flags := 0 } }

/-- R378: RESUME .abort of a stopped slot: cause 0x0F for 0x10 and 0x11, otherwise unchanged. -/
def State.resumeSlotAbort (s : State) (c i : Nat) : State :=
  let x := s.slotOf c i
  let cause := x.frec.cause.toNat % 256
  (s.endStopped c i (if cause = 0x10 ∨ cause = 0x11 then 0x0F else cause)).endsGang x.act

/-! Self-tests (R371, R372, R383). -/

/-- The front end's registers changed. -/
def State.modFe (s : State) (f : FrontEnd → FrontEnd) : State := { s with fe := f s.fe }

/-- R383: the first held drain starts. -/
def State.startDrain (s : State) : State :=
  match s.fe.drains with
  | [] => s
  | c :: _ => s.modCore c (fun k => if k.svc = .inService then { k with svc := .draining } else k)

/-- R383: a drain is asked for: it starts when none is in progress, else it is held. -/
def State.askDrain (s : State) (c : Nat) : State :=
  if (s.coreOf c).svc ≠ .inService || s.fe.drains.contains c then s
  else
    let first := s.fe.drains.isEmpty
    let s := s.modFe (fun f => { f with drains := f.drains ++ [c] })
    if first then s.startDrain else s

/-- R372: the self-test of a unit is asked for; a core is drained first. -/
def State.testUnit (s : State) (u : HwUnit) : State :=
  let s := if s.fe.tests.contains u then s else s.modFe (fun f => { f with tests := f.tests ++ [u] })
  match u with
  | .core c => s.askDrain c
  | .bank _ _ | .slice _ | .frame _ | .link _ _ | .channel _ => s

/-- R371: the third of three fetch faults within 1 s (in units of 1/24 ns). -/
def thirdFetchFault (times : List Nat) : Bool :=
  match times with
  | a :: _ :: b :: _ => decide (a - b ≤ 24000000000)
  | _ => false

/-- R371: a fetch fault of the issuing core; the third within 1 s has it tested. -/
def State.noteFetch (s : State) : State :=
  let s := s.modMyCore (fun k => { k with fetchTimes := (s.wall :: k.fetchTimes).take 3 })
  if thirdFetchFault s.myCore.fetchTimes then s.testUnit (.core s.cur.1) else s

/-! The fault of an access. -/

/-- R337: the host is asked for a line once; the instruction issues again after the response. -/
def State.awaitLine (s : State) (n : Nat) (inv : Bool) : State :=
  let s := if s.bisnp.contains n then s else { s.out (.biSnp n inv) with bisnp := s.bisnp ++ [n] }
  { s.modMe (fun x => { x with wait := .line n }) with pairNext := none }

/-- R248, R255, R286: the instruction at the PC waits for a store of its slot and issues again. -/
def State.waitHome (s : State) : State := { s.modMe (fun x => { x with wait := .home }) with pairNext := none }

/-- The issuing instruction takes the fault of its access. -/
def State.takeAcc (s : State) (f : AccFault) : State :=
  match f with
  | .trans va => s.stopMe ⟨0x10, va, 0, 0⟩
  | .abort cause addr => (if cause = 0x04 then s.noteFetch else s).abortMe ⟨cause, addr, 0, 0⟩
  | .line n inv => s.awaitLine n inv
  | .busy => s.waitHome

end Sys2Proof.Machine
end

