-- ==== Sys2Proof/Machine/Operands.lean ====
section
/-! DEFINITION. The operand forms: pointers and addressing modes (R40, R104, R167), lanes (R137 to R140), channels as
operands (R108), the lease check (R96), rounding modes and draws (R114, R128), and the moulds of instructions built of them. -/
namespace Sys2Proof.Machine

/-! Pointers and addresses. -/

/-- R104: Addr. -/
def Ptr.addr (a : Ptr) : Word := a.base + a.cur

/-- R104: Wrap. -/
def Ptr.wrap (a : Ptr) (x : Int) : Word :=
  if a.limit = 0 then BitVec.ofInt 64 x else BitVec.ofInt 64 (x % (a.limit.toNat : Int))

/-- R104: CUR ← Wrap(a, CUR + n). -/
def Ptr.advance (a : Ptr) (n : Int) : Ptr := { a with cur := a.wrap ((a.cur.toNat : Int) + n) }

/-- R40: the address an AMODE gives, with n the byte width of the element. -/
def Slot.addr (x : Slot) (n : Nat) : AMode → Word
  | .base a imm => x.s a + sext32 imm
  | .idx a b => x.s a + x.s b
  | .scaled a b => x.s a + x.s b * BitVec.ofNat 64 n
  | .post p => (x.ptr p).addr
  | .off p imm => (x.ptr p).addr + sext32 imm

/-- R104: the pointer of AMODE 3 after an access taken without fault. -/
def Slot.bump (x : Slot) : AMode → Slot
  | .post p => x.setPtr p ((x.ptr p).advance (x.ptr p).step.toInt)
  | .base _ _ | .idx _ _ | .scaled _ _ | .off _ _ => x

/-- R167: a local offset. A vector access reduces the address of each lane by itself, so that lanes past 0x3FFFF go on at offset 0
(DESIGN CHOICE, log 61: R174 reduces the start of a copy row once, and R167 does not say it for lanes). -/
def localOff (a : Word) : Nat := a.toNat % 262144

/-- The issuing slot as a writer; rel: the scope of the release that its store makes (R249). -/
def State.who (s : State) (va : Word) (rel : Scope) : Who :=
  { core := s.cur.1, slot := s.cur.2, serial := (s.myAct.map (·.serial)).getD 0, va := va, asid := s.me.asid.toNat, rel := rel }

/-- The issuing slot has made the store of a writer, to a strongly ordered page (R248). -/
def State.strongOwn (s : State) (w : Who) : Bool :=
  w.core == s.cur.1 && w.slot == s.cur.2 && w.serial == ((s.myAct.map (·.serial)).getD 0) && w.strong && w.ord == 0

/-- R248, R257: an access of n bytes with a part on a strongly ordered page (R245) waits while a store of the slot to such a page is not
performed, or not acknowledged by another package. One that faults does not wait. -/
def State.strongWaits (s : State) (a : Word) (n : Nat) (want : Want) : Bool :=
  (s.heldStores.any (fun h => s.strongOwn h.who) || s.remoteOut.any (fun b => s.strongOwn b.who)) &&
  (match s.pagesOf s.cur.1 s.me.asid.toNat a n want with | .ok ps => ps.any (fun x => x.1.ord == 0) | .error _ => false)

/-- R245, R167: n bytes read by the issuing slot. -/
def State.readMem (s : State) (sp : Space) (a : Word) (n : Nat) : Except AccFault (List Byte) :=
  match sp with
  | .loc => s.readL s.cur.1 (localOff a) n
  | .glob => if s.strongWaits a n .read then .error .busy else s.readG s.cur.1 s.me.asid.toNat a n

/-- R245, R167: bytes written by the issuing slot. -/
def State.writeMem (s : State) (sp : Space) (a : Word) (rel : Scope) (bs : List Byte) : Except AccFault State :=
  match sp with
  | .loc => s.writeL s.cur.1 (localOff a) bs
  | .glob => if s.strongWaits a bs.length .write then .error .busy else s.writeG (s.who a rel) .slot s.isSystem bs

/-- R249: the scope of the release that an instruction makes. -/
def relScope (o : Order) : Scope := if o.rel then o.scope else .none

/-- R241, R258: a misaligned single location: a protection fault, or a local-address fault for SPACE 0. -/
def misaligned (sp : Space) (a : Word) : AccFault :=
  match sp with
  | .loc => .abort 0x06 (BitVec.ofNat 64 (localOff a))
  | .glob => .abort 0x07 a

/-- The bytes of a scalar's low n bytes. -/
def scalarBytes (w : Word) (n : Nat) : List Byte := bytesOf n w.toNat

/-- R42: the bytes of an element. -/
def tyBytes (t : Ty) : Nat := t.width / 8

/-! Lanes. -/

/-- R137: lane i at width w. -/
def laneOf (w : Nat) (v : Vec) (i : Nat) : Nat := v.toNat / 2 ^ (w * i) % 2 ^ w

/-- R137: a vector of lanes, lane 0 first. -/
def packLanes (w : Nat) (xs : List Nat) : Vec := BitVec.ofNat 512 (xs.foldr (fun x a => x % 2 ^ w + 2 ^ w * a) 0)

/-- R140: the lanes of a destination: an active lane takes its result, an inactive one keeps its value or becomes zero. -/
def mergeLanes (w n : Nat) (mask : Word) (zro : Bool) (old : Vec) (f : Nat → Nat × Flags) : Vec × Flags :=
  let rs := (List.range (512 / w)).map (fun i =>
    if i < n then (if mask.getLsbD i then f i else (if zro then 0 else laneOf w old i, 0)) else (laneOf w old i, 0))
  (packLanes w (rs.map (·.1)), rs.foldl (fun a r => a ||| r.2) 0)

/-- R137, R204: the bytes of a vector, byte 0 first, and back. -/
def vecBytes (v : Vec) : List Byte := bytesOf 64 v.toNat
def bytesVec (bs : List Byte) : Vec := BitVec.ofNat 512 (wordOfBytes bs)

/-- R139: an immediate as a lane value. -/
def laneImm (t : Ty) (imm : BitVec 32) : Nat :=
  match t with
  | .i64 => (sext32 imm).toNat
  | .i8 | .i16 | .i32 | .n8 | .n16 | .n32 | .n64 | .f32 | .f16 | .bf16 | .e4m3 | .e5m2 | .cb8 | .e8m0 => imm.toNat % 2 ^ t.width

/-! Channels and leases. -/

/-- R96: the vector registers under lease. -/
def Slot.leased (x : Slot) (r : Nat) : Bool := x.sb.any (fun e => e.lease && e.reg == r)

/-- R96: the first of the registers under lease. -/
def Slot.leaseOf (x : Slot) (rs : List Nat) : Option Nat := rs.find? x.leased

/-- R108: the channels that a list of vector sources reads, in order. -/
def chansOf : List VSrc → List (Fin 8)
  | [] => []
  | .reg _ :: t => chansOf t
  | .chan c :: t => c :: chansOf t

/-- R96: the vector registers that a list of sources names. -/
def vregsOf : List VSrc → List Nat
  | [] => []
  | .reg r :: t => r.val :: vregsOf t
  | .chan _ :: t => vregsOf t

/-- R221: the tag a channel is bound to, 0 when it is not bound. -/
def Slot.chanTagOf (x : Slot) (c : Fin 8) : Word := smGet (fun _ => 0) x.chanTag c.val

/-- R108: the entries of a channel. -/
def Slot.chan (x : Slot) (c : Nat) : List ChanEntry := smGet (fun _ => []) x.chans c

/-- R108: every entry the channels need is present. -/
def Slot.chansReady (x : Slot) (cs : List (Fin 8)) : Bool :=
  cs.all (fun c => decide (cs.count c ≤ (x.chan c.val).length))

/-- R108, R222: one entry popped: its data; the credit returns to the writer, and a release that includes the reader acquires. -/
def State.pop (s : State) (c : Fin 8) : Vec × State :=
  match s.me.chan c.val with
  | [] => (0, s)
  | e :: t =>
    let gid := ((s.myAct.bind (·.gang))).getD 0
    let s := s.modMe (fun x => { x with chans := smSet (fun _ => []) x.chans c.val t })
    let s := if inGroup e.rel (e.writer / 8) (globalCore s.cur.1) then s.acquire s.cur.1 e.rel else s
    (e.data,
      if e.writer / 32768 = Config.pkg then s.due (.creditReturn (e.writer / 8 % 4096) (e.writer % 8) ⟨gid, e.port⟩)
      else s.out (.creditReturn gid (e.writer / 8) (e.writer % 8) e.port))

/-- What reading vector sources comes to: a fault, the wait for an entry, or the values, the entries popped, and the state. -/
inductive VecRead where
  | fault (f : FaultInfo)
  | wait
  | ok (vs : List Vec) (popped : List Vec) (s : State)

/-- R108: values of sources, popped entries first when a resumable fault kept them. -/
def State.readSrcs (s : State) : List VSrc → List Vec → List Vec × List Vec × State
  | [], _ => ([], [], s)
  | .reg r :: t, kept => let (vs, ps, s') := s.readSrcs t kept; (s.me.v r :: vs, ps, s')
  | .chan _ :: t, k :: kept => let (vs, ps, s') := s.readSrcs t kept; (k :: vs, k :: ps, s')
  | .chan c :: t, [] => let (e, s1) := s.pop c; let (vs, ps, s') := s1.readSrcs t []; (e :: vs, e :: ps, s')

/-- R108: the vector sources of an instruction, read in the order A, B, C. -/
def State.takeSrcs (s : State) (srcs : List VSrc) : VecRead :=
  let cs := chansOf srcs
  let kept := ((s.myAct.map (·.popped)).getD [])
  if cs.any (fun c => s.me.chanTagOf c == 0) then .fault ⟨0x07, 0, 0, 0⟩
  else if kept.isEmpty && !s.me.chansReady cs then .wait
  else
    let (vs, ps, s') := s.readSrcs srcs kept
    .ok vs ps (s'.modMyAct (fun a => { a with popped := [] }))

/-- R96, R108: the lease check on what an instruction reads and writes, its sources, then its effect. With an entry missing
it waits and nothing changes. Of several leased registers FAULT_ADDR names the first source, then the destination (DESIGN CHOICE,
log 61). -/
def State.withVecs (s : State) (writes : List Nat) (srcs : List VSrc) (f : State → List Vec → List Vec → State) : State :=
  match s.me.leaseOf (vregsOf srcs ++ writes) with
  | some r => s.abortMe ⟨0x05, BitVec.ofNat 64 r, 0, 0⟩
  | none =>
    match s.takeSrcs srcs with
    | .fault e => s.abortMe e
    | .wait => s
    | .ok vs ps s => f s vs ps

/-- The mould of an instruction with vector operands: the guard, the leases of what it reads and writes (R96), its sources
(R108), then its effect. With an entry missing it waits and nothing changes. -/
def vecOp (g : Guard) (writes : List Nat) (srcs : List VSrc) (f : State → List Vec → List Vec → State) (s : State) : Out :=
  guarded g (fun s => s.withVecs writes srcs f) s

/-- The sources of an operand that may be an immediate. -/
def VOp.srcs : VOp → List VSrc
  | .vec v => [v]
  | .imm _ => []

/-- R139: lane i of operand B, from the register read or the immediate. -/
def VOp.lane (b : VOp) (t : Ty) (vs : List Vec) (i : Nat) : Nat :=
  match b with
  | .vec _ => laneOf t.width (vs.getD 1 0) i
  | .imm v => laneImm t v

/-! Rounding. -/

/-- R38, R39: the mode of an instruction: 0 RNE, 1 RTZ, 2 RUP, 3 RDN, 4 stochastic. -/
def Slot.modeOf (x : Slot) : Rnd → Nat
  | .rne => 0 | .rtz => 1 | .rup => 2 | .rdn => 3 | .sto => 4 | .rmode => x.rmode.toNat

/-- R114, R128: the mode, and SRSEED advanced once when the mode is stochastic. -/
def State.rounding (s : State) (r : Rnd) : Nat × BitVec 32 × State :=
  let m := s.me.modeOf r
  if m = 4 then
    let x := srAdvance s.me.srseed
    (m, x, s.modMe (fun y => { y with srseed := x }))
  else (m, s.me.srseed, s)

/-- R113: FLAGS bits set by the issuing slot. -/
def State.orFlags (s : State) (f : Flags) : State := if f = 0 then s else s.modMe (fun x => { x with flags := x.flags ||| f })

/-- A vector result lands (R93), its flags are set (R113), and the instruction completes. -/
def State.putV (s : State) (d : Vreg) (r : Vec × Flags) : State :=
  ((s.orFlags r.2).land .arith .vector d.val 0 (vecOf r.1.toNat)).complete

/-- A scalar result lands late (R93), its flags are set, and the instruction completes. -/
def State.putS (s : State) (kind : SbKind) (d : Sreg) (v : Word) (f : Flags) : State :=
  ((s.orFlags f).land kind .scalar d.val 0 (vecW v)).complete

end Sys2Proof.Machine
end

