-- ==== Sys2Proof/Machine/Uses.lean ====
section
/-! DEFINITION. What an instruction reads and writes (R47, R111, R140), the pairing classes and the pairing rule (R47). -/
namespace Sys2Proof.Machine

/-- A register as R47 counts it; sr is a special register by its number (R111). -/
inductive RegId where
  | s (n : Nat) | v (n : Nat) | c (n : Nat) | p (n : Nat) | m (n : Nat) | a (n : Nat) | sr (n : Nat)
  deriving DecidableEq, Repr

/-- The registers read and the registers written. -/
structure RegUse where
  reads : List RegId
  writes : List RegId
  deriving DecidableEq, Repr

/-- One use after another. -/
def RegUse.join (x y : RegUse) : RegUse := ⟨x.reads ++ y.reads, x.writes ++ y.writes⟩

def rdS (r : Sreg) : RegUse := ⟨[.s r.val], []⟩
def wrS (r : Sreg) : RegUse := ⟨[], [.s r.val]⟩
def rdP (r : Fin 8) : RegUse := ⟨[.p r.val], []⟩
def wrP (r : Fin 8) : RegUse := ⟨[], [.p r.val]⟩
def rdM (r : Fin 8) : RegUse := ⟨[.m r.val], []⟩
def wrM (r : Fin 8) : RegUse := ⟨[], [.m r.val]⟩
def rdA (r : Fin 8) : RegUse := ⟨[.a r.val], []⟩
def wrA (r : Fin 8) : RegUse := ⟨[], [.a r.val]⟩
def wrV (r : Vreg) : RegUse := ⟨[], [.v r.val]⟩
def rdVn (n : Nat) : RegUse := ⟨[.v n], []⟩
def rdV : VSrc → RegUse
  | .reg r => ⟨[.v r.val], []⟩
  | .chan c => ⟨[.c c.val], []⟩
def rdVO : VOp → RegUse
  | .vec v => rdV v
  | .imm _ => ⟨[], []⟩
def rdSrc : Src → RegUse
  | .reg r => rdS r
  | .imm _ => ⟨[], []⟩
def useNone : RegUse := ⟨[], []⟩

/-- R47: an address: its pointer is read, and written by AMODE 3. -/
def useMode : AMode → RegUse
  | .base a _ => rdS a
  | .idx a b | .scaled a b => (rdS a).join (rdS b)
  | .post p => (rdA p).join (wrA p)
  | .off p _ => rdA p

/-- R47: a token register is written. -/
def useTok : Tok → RegUse
  | none => useNone
  | some r => wrS r

/-- R111: RND 5 reads RMODE; RND 4 and 5 read and write SRSEED. -/
def useRnd : Rnd → RegUse
  | .sto => ⟨[.sr 0x042], [.sr 0x042]⟩
  | .rmode => ⟨[.sr 0x041, .sr 0x042], [.sr 0x042]⟩
  | .rne | .rtz | .rup | .rdn => useNone

/-- R111: a core instruction that can set a FLAGS bit writes FLAGS. -/
def useFlags (b : Bool) : RegUse := if b then ⟨[], [.sr 0x040]⟩ else useNone

/-- R138, R140: a mask is read; with MSK ≠ 0 and ZRO 0 the destination is read. -/
def useMask (z : MaskZ) (d : RegId) : RegUse :=
  if z.msk = 0 then useNone else ⟨.m z.msk.val :: (if z.zro then [] else [d]), []⟩

/-- A list of uses as one. -/
def uses (us : List RegUse) : RegUse := us.foldl RegUse.join useNone

/-- R126, R127, R149: every value of type ts is a value of type td, and no operand of a saturating conversion can be clamped. -/
def cvtExact (td ts : Ty) (sat : Bool) : Bool :=
  td == ts ||
  (if td.isFloat then
    (match ts with
     | .e4m3 | .i8 | .n8 => td == .f16 || td == .bf16 || td == .f32
     | .e5m2 => !sat && (td == .f16 || td == .bf16 || td == .f32)
     | .f16 | .bf16 => !sat && td == .f32
     | .i16 | .n16 => td == .f32
     | .i32 | .i64 | .n32 | .n64 | .f32 | .cb8 | .e8m0 => false)
   else
    !ts.isFloat && (!sat || (if td.isSigned == ts.isSigned then decide (ts.width ≤ td.width)
      else !ts.isSigned && decide (ts.width < td.width))))

/-- The mould of a two-operand vector instruction. -/
def useV2 (t : Ty) (flags : Bool) (r : Rnd) (z : MaskZ) (d : Vreg) (a : VSrc) (b : VOp) : RegUse :=
  uses [rdV a, rdVO b, wrV d, useMask z (.v d.val), useRnd r, useFlags (flags && (t.isF || t.isInt))]

/-- The mould of a one-operand vector instruction. -/
def useV1 (flags : Bool) (r : Rnd) (z : MaskZ) (d : Vreg) (a : VSrc) : RegUse :=
  uses [rdV a, wrV d, useMask z (.v d.val), useRnd r, useFlags flags]

/-- R108, R213: the run of vector registers SENDV reads. -/
def sendvRegs (b len : Nat) : List RegId := (List.range ((len + 3) / 4)).map (fun i => .v (b + i))

/-- R47, R111, R140: the registers of an instruction, its guard apart. -/
def usesOf : Instr → RegUse
  | .nop _ | .trap _ _ _ | .brk _ _ | .br _ _ | .reth _ | .fence _ _ | .mxwait _ | .txabort _
  | .unbindIn _ _ | .unbindOut _ _ => useNone
  | .resume _ d a | .resumeAbort _ d a => (rdS a).join (wrS d)
  | .mfsr _ d n => ⟨[.sr n.toNat], [.s d.val]⟩
  | .mtsr _ n a => ⟨[.s a.val], .sr n.toNat :: (if n = 0x104 then [.sr 0x103] else [])⟩
  | .wait _ _ d a b c _ _ _ => uses [rdS a, rdS b, rdS c, wrS d]
  | .waitClk _ c => rdS c
  | .prio _ d b => uses [rdSrc b, wrS d, ⟨[.sr 0x031], [.sr 0x031]⟩]
  | .add _ d a b | .sub _ d a b | .mul _ d a b | .mulh _ d a b | .mulhu _ d a b | .div _ d a b | .divu _ d a b
  | .rem _ d a b | .remu _ d a b | .and _ d a b | .or _ d a b | .xor _ d a b | .andn _ d a b | .shl _ d a b
  | .shr _ d a b | .sar _ d a b | .rot _ d a b | .min _ d a b | .max _ d a b | .minu _ d a b | .maxu _ d a b =>
    uses [rdS a, rdSrc b, wrS d]
  | .clz _ d a | .ctz _ d a | .popc _ d a | .ext _ _ d a | .bfx _ _ d a _ _ => (rdS a).join (wrS d)
  | .bfi _ d a _ _ => uses [rdS a, rdS d, wrS d]
  | .li _ _ d _ => wrS d
  | .lih _ d _ => (rdS d).join (wrS d)
  | .sel _ d p a b => uses [rdP p, rdS a, rdSrc b, wrS d]
  | .cmp _ _ d a b => uses [rdS a, rdSrc b, wrP d]
  | .plog _ _ d a b => uses [rdP a, rdP b, wrP d]
  | .pmov _ f =>
    (match f with
     | .mov d a | .not d a => (rdP a).join (wrP d)
     | .nz d a => (rdS a).join (wrP d)
     | .get d a => (rdP a).join (wrS d)
     | .imm d _ => wrP d)
  | .tstm _ _ _ d m => (rdM m).join (wrP d)
  | .ptset _ f d a =>
    (match f with
     | .all b => uses [rdS a, rdSrc b, wrA d]
     | .base | .cur | .step | .limit => uses [rdS a, rdA d, wrA d])
  | .ptget _ _ d a => (rdA a).join (wrS d)
  | .ptadv _ _ d b => uses [rdSrc b, rdA d, wrA d]
  | .jal _ d _ => wrS d
  | .jalr _ d a _ => (rdS a).join (wrS d)
  | .loop _ d _ => (rdS d).join (wrS d)
  | .ld _ _ d m _ _ => (useMode m).join (wrS d)
  | .st _ _ m c _ _ => (useMode m).join (rdS c)
  | .vld _ _ d m z _ _ => uses [useMode m, wrV d, useMask z (.v d.val)]
  | .vst _ _ m c k _ _ => uses [useMode m, rdV c, useMask ⟨k, true⟩ (.s 0)]
  | .vlds _ _ d m b z _ _ => uses [useMode m, rdS b, wrV d, useMask z (.v d.val)]
  | .vsts _ _ m b c k _ _ => uses [useMode m, rdS b, rdV c, useMask ⟨k, true⟩ (.s 0)]
  | .vgth _ _ _ d m b z _ _ => uses [useMode m, rdV b, wrV d, useMask z (.v d.val)]
  | .vsct _ _ _ m b c k _ _ => uses [useMode m, rdV b, rdV c, useMask ⟨k, true⟩ (.s 0)]
  | .amo _ _ _ d m c _ _ => uses [useMode m, rdS c, wrS d]
  | .amocas _ _ p m b c _ _ => uses [useMode m, rdS b, rdS c, wrP p, wrS b]
  | .amof _ op det d m c _ => uses [useMode m, rdS c, wrS d, useFlags (op == .add && !det)]
  | .vamof _ det _ m b c k _ => uses [useMode m, rdV b, rdV c, useMask ⟨k, true⟩ (.s 0), useFlags (!det)]
  | .drclose _ d a _ => uses [rdS a, wrS d, useFlags true]
  | .ldf _ d p m _ | .ldft _ d p m _ => uses [useMode m, wrS d, wrP p]
  | .stf _ p m c _ => uses [useMode m, rdS c, wrP p]
  | .vadd _ t sat r z d a b | .vsub _ t sat r z d a b | .vmul _ t sat r z d a b => useV2 t (t.isF || sat) r z d a b
  | .vfma _ t sat r z d a b c | .vfms _ t sat r z d a b c => (useV2 t (t.isF || sat) r z d a b).join (rdV c)
  | .vmin _ t z d a b | .vmax _ t z d a b | .vand _ t z d a b | .vor _ t z d a b | .vxor _ t z d a b | .vshl _ t z d a b
  | .vshr _ t z d a b | .vsar _ t z d a b => useV2 t false .rne z d a b
  | .vabs _ _ sat z d a | .vneg _ _ sat z d a => useV1 sat .rne z d a
  | .vrcp _ _ r z d a | .vrsq _ _ r z d a | .vexp2 _ _ r z d a | .vlog2 _ _ r z d a => useV1 true r z d a
  | .vcmp _ _ _ z d a b => uses [rdV a, rdVO b, wrM d, useMask z (.m d.val)]
  | .vsel _ _ k d a b => uses [rdV a, rdV b, wrV d, useMask ⟨k, true⟩ (.s 0)]
  | .vcvt _ td ts _ sat r z d a =>
    (useV1 (!cvtExact td ts sat) r z d a).join (if td.width < ts.width then rdVn d.val else useNone)
  | .vqnt _ _ _ d a b c => uses [rdV a, rdV b, rdVn d.val, wrV d, wrS c, useFlags true]
  | .vdeq _ _ _ _ z d a => (useV1 false .rne z d a).join (rdVn d.val)
  | .vscale _ t _ r z d a b => useV2 t true r z d a b
  | .vred _ op t r k d a => uses [rdV a, wrS d, useMask ⟨k, false⟩ (.s d.val), useRnd r, useFlags (t.isF && op == .add)]
  | .vscan _ op _ t r z d a b => (useV1 (t.isF && op == .add) r z d a).join (rdSrc b)
  | .vperm _ t z d a b two => (useV2 t false .rne z d a (.vec b)).join (match two with | some c => rdV c | none => useNone)
  | .vbcast _ _ z d f =>
    uses [wrV d, useMask z (.v d.val), (match f with | .scalar a => rdS a | .imm _ => useNone | .lane a _ => rdV a)]
  | .vins _ _ d a n => uses [rdS a, rdVn d.val, wrV d, (match n with | .imm _ => useNone | .reg b => rdS b)]
  | .vext _ _ d a n => uses [rdV a, wrS d, (match n with | .imm _ => useNone | .reg b => rdS b)]
  | .vmov _ _ z d a => useV1 false .rne z d a
  | .vldi _ _ z d a _ => uses [rdS a, wrV d, useMask z (.v d.val)]
  | .vzip _ t _ z d a b | .vunzip _ t _ z d a b | .vslide _ t _ z d a b => useV2 t false .rne z d a (.vec b)
  | .vdot _ t sat r z d a b c => uses [rdV a, rdV b, rdV c, wrV d, useMask z (.v d.val), useRnd r, useFlags (t.isFloat || sat)]
  | .vsat _ t t2 z d a => useV1 (t.isFloat || t != t2) .rne z d a
  | .mkand _ d a b | .mkor _ d a b | .mkxor _ d a b => uses [rdM a, rdM b, wrM d]
  | .mknot _ d a => (rdM a).join (wrM d)
  | .mkpop _ _ d a | .mkfst _ _ d a | .mkget _ d a => (rdM a).join (wrS d)
  | .mkset _ d a => (rdSrc a).join (wrM d)
  | .mxcfgAscale _ tok a => (rdSrc a).join (useTok tok)
  | .mxcfgAreset _ tok | .mxzero _ tok _ | .mxprg _ tok | .ringcfgOff _ tok _ => useTok tok
  | .mxld _ tok _ a b _ | .mxldv _ tok _ _ a b _ | .mxattn _ tok _ a b _ _ | .mxafin _ tok a b _ => uses [rdS a, rdS b, useTok tok]
  | .mxmma _ tok _ _ _ _ x y _ =>
    let u := fun (o : MxOp) => match o with | .slot _ => useNone | .loc a => rdS a
    uses [u x, u y, useTok tok]
  | .mxsca _ tok _ _ _ _ a b => uses [rdV a, rdV b, useTok tok]
  | .mxrd _ tok d _ _ lg => uses [⟨[], (List.range (2 ^ lg.val)).map (fun i => .v (d.val + i))⟩, useTok tok]
  | .mxst _ tok _ _ r _ a b _ _ => uses [rdS a, rdS b, useRnd r, useTok tok]
  | .cpy _ tok _ d a b _ => uses [rdS d, rdS a, rdSrc b, useTok tok]
  | .cpy2d _ tok a _ _ _ => (rdS a).join (useTok tok)
  | .cpyt _ tok _ d a _ => uses [rdS d, rdS a, useTok tok]
  | .ringcfg _ tok a _ _ => (rdS a).join (useTok tok)
  | .rsend _ tok _ d _ a b _ => uses [rdS a, rdS b, wrS d, useTok tok]
  | .rfwd _ tok d _ a => uses [rdS a, wrS d, useTok tok]
  | .rfree _ tok _ a => (rdS a).join (useTok tok)
  | .send _ d a b _ _ _ | .sendc _ d a b _ _ _ _ => uses [rdS a, rdS b, wrS d]
  | .sendv _ d a b _ _ len => uses [rdS a, ⟨sendvRegs b.val len.val, []⟩, wrS d]
  | .reply _ b _ _ _ => rdS b
  | .htset _ d a b c _ => uses [rdS a, rdS b, rdS c, wrS d]
  | .qcfg _ d a _ => (rdS a).join (wrS d)
  | .bindIn _ _ a | .bindOut _ _ a => rdS a
  | .chsend _ _ a _ => rdV a
  | .chtst _ p _ b => (rdSrc b).join (wrP p)
  | .bar _ _ _ b => rdSrc b
  | .spawn _ d m _ | .thnew _ d m _ | .txsub _ d m _ | .txrst _ d m _ => (useMode m).join (wrS d)
  | .thsplit _ _ d a b => uses [rdS a, rdSrc b, wrS d]
  | .thjoin _ d a | .thfrz _ d a | .thfrzThaw _ d a | .thfree _ d a | .thinfo _ _ d a => (rdS a).join (wrS d)
  | .txnum _ d | .txnumOpen _ d | .txver _ _ d _ => wrS d
  | .activationStart _ _ _ | .porterActivation _ | .budgetTrap _ _ | .scoreboardWriteLands _ _ _ | .tokenLands _ _ _
  | .predicateResolves _ _ _ | .copyCommandStart _ | .matrixCommandStart _ | .commandCompletion _ _ | .fsresp _ | .fsqIdx _
  | .faultAnswerTimeout _ _ _ | .lateReport _ _ _ _ | .drainComplete _ _ | .sendBufferDeparture _ _ | .messageArrival _ _
  | .heapReplay _ _ | .heapReplayResume _ _ | .agentPortPlacement _ _ | .agentPortRetry _ | .channelEntryArrival _ _ _ _ _
  | .creditReturn _ _ _ | .chtstTimeout _ _ _ | .waitWake _ _ | .waitPoll _ _ | .waitTimeout _ _ | .barrierInheritance _
  | .preemptPost _ _ | .preemptWithdraw _ _ | .homeAccess _ | .scopeMissReport _ _ _ | .detUpdateArrival _
  | .invalidationDoorbell _ | .offlnAck _ | .lmmapMoveComplete _ | .tenureRequestArrival _ _ | .tenureRequestResend _
  | .tenureGrant _ _ | .dispatch _ | .commitGrant _ _ | .homeReceipt _ _ _ | .tileOperationArrival _ _ _ _ | .tileAnswer _ _ _
  | .crateRelease _ _ _ | .kick _ _ | .cancel _ _ | .qctlResume _ | .qctlHold _ | .qctlRelease _ | .qctlEnable _
  | .qctlDisable _ | .queueDisableComplete _ | .packetRead _ | .packetReread _ | .nopPacket _ | .txnPacket _ | .msgPacket _
  | .launchPacket _ | .gangPacket _ | .waitsigPacket _ | .waitsigReread _ _ | .signalPacket _ | .fetchfencePacket _
  | .indirectPacket _ | .ringPacket _ | .packetCompletion _ _ _ | .taskTake _ | .taskSteal _ | .terminationSweep _
  | .liveUpdate _ | .coreDrain _ | .coreDrainComplete _ | .coreReadmit _ | .managementRegisterWrite _ _ | .tenureRelease _ _
  | .forcedIssue _ _ | .mxldvRowFault _ | .gangSlotReservation | .remoteStoreResponse _ _ _ _ | .birspArrival _ _ _
  | .hostMemWrite _ _ | .hostMemRead _ _ _ | .walkCompletion _ _ _ | .invalidationCompletion | .correctedError _
  | .selfTestResult _ _ | .roundClose | .reservationAndNumbering | .closureArrival _ _ _ | .podTimeoutExpiry _
  | .outOfServiceDeclaration _ _ | .podJoin _ _ | .joinNotice _ | .joinRound _ _ | .flitReceive _ _ | .portRetrain _ _ _
  | .portRecalibration _ | .hbmPhyRetrain _ _ | .ringSetupNotice _ _ _ _ _ | .ringSetupAnswer _ _ _
  | .ringBlockArrival _ _ _ _ | .ringBlockAck _ _ _ | .ringReleaseArrival _ | .ringSkipNotice _ _ | .ringTeardownNotice _
  | .liveUpdateHandover | .failover | .operatingPointChange _ | .thermalThrottle | .thermalRaise | .thermalTrip
  | .cbData _ _ _ | .cbCtl _ _ | .bankRole _ _ _ | .packageReset _ | .managementWithdrawRequest | .illegalInstructionTrap => useNone

/-- R47: the pairing classes. -/
inductive PairClass where
  | none | memory | engine | control
  deriving DecidableEq, Repr

/-- R47: by the major opcode. -/
def pairClass (op : Nat) : PairClass :=
  if (0x40 ≤ op ∧ op ≤ 0x47) ∨ (0x50 ≤ op ∧ op ≤ 0x54) ∨ (0x58 ≤ op ∧ op ≤ 0x5A) ∨ op = 0x5C then .memory
  else if (0xA0 ≤ op ∧ op ≤ 0xAB) ∨ (0xB0 ≤ op ∧ op ≤ 0xB2) ∨ (0xB4 ≤ op ∧ op ≤ 0xB7) then .engine
  else if op = 0x02 ∨ op = 0x03 ∨ op = 0x04 ∨ op = 0x07 ∨ (0x38 ≤ op ∧ op ≤ 0x3B) ∨ op = 0xBC ∨ op = 0xC3 then .control
  else .none

/-- R47: writes to s0 and p0 count as neither a read nor a write. -/
def RegId.counts : RegId → Bool
  | .s n | .p n => n != 0
  | .v _ | .c _ | .m _ | .a _ | .sr _ => true

/-- R36: the major opcode of an instruction. -/
def opOf (i : Instr) : Nat := ((encodeFields i).map (fun f => f.op.toNat)).getD 0

/-- R45: the guard of an instruction. -/
def guardOf (i : Instr) : Guard := ((encodeFields i).map (fun f => (⟨f.gn, Fin.ofNat 8 f.gp.toNat⟩ : Guard))).getD ⟨false, 0⟩

/-- R47: what an instruction reads, its guard predicate among it. -/
def readsOf (i : Instr) : List RegId := .p (guardOf i).p.val :: (usesOf i).reads

/-- R47: what an instruction writes. -/
def writesOf (i : Instr) : List RegId := (usesOf i).writes.filter RegId.counts

/-- R47: two instructions may stand in a pair. -/
def pairOk (i j : Instr) : Bool :=
  let ci := pairClass (opOf i)
  let cj := pairClass (opOf j)
  ci != .control && (ci == .none || ci != cj) &&
  (writesOf i).all (fun r => !(readsOf j).contains r && !(writesOf j).contains r)

end Sys2Proof.Machine
end

