-- ==== Sys2Proof/Machine/Fetch.lean ====
section
/-! DEFINITION. Fetch lines (R26 to R35, R217), branch targets (R32, R33), and the issue unit at a PC with the checks of
R50 in their order. -/
namespace Sys2Proof.Machine

/-- R217: the first address of the message code window. -/
def codeWindow : Word := 0xFFFFFFFFFFFFFF00#64

/-- R217: the line of carried code at a PC of the window. -/
def carriedLine (a : Option Activation) (line : Word) : Option (List Byte) :=
  match a with
  | none => none
  | some a =>
    let n := (line - codeWindow).toNat / 64
    if a.msg.kind = .code ∧ n < a.msg.clines then some (padTo 64 (a.msg.payload.drop (64 * n))) else none

/-- R35: a byte of a code line with only the stores that were made before an activation of a core started. -/
def State.byteBefore (s : State) (c serial pa : Nat) : Byte :=
  let then' := fun (b : BufStore) => match b.who.early.bind (fun e => e.at' (clusterOf c) none) with
    | some n => decide (n < serial)
    | none => true
  ((bufByte ((s.bufOf (clusterOf c)).filter then') pa <|> bufByte (s.remoteOut.filter then') pa) <|>
    s.heldAt (clusterOf c) serial pa).getD (s.rd8 pa)

/-- R35: a line that has met stores since the activation started: as it stood then, or as it stands now, which is undefined
line by line. -/
def State.lineSeen (s : State) (c i : Nat) (line : Word) (ps : List (Page × Word × Nat)) (now : List Byte) : List Byte :=
  match (s.slotOf c i).act with
  | none => now
  | some a =>
    let old := (ps.flatMap (fun x => (List.range x.2.2).map (fun j =>
      if x.1.host || x.1.window then none else some (s.byteBefore c a.serial (x.1.pa + j))))).zip now
    let old := old.map (fun e => e.1.getD e.2)
    if old = now then now else if Config.seesStore s.choice line.toNat then now else old

/-- R26, R34, R35: the bytes of the line at an address, as slot i of core c fetches them for a PC; again: fetched once more from
memory (R28). -/
def State.fetchLine (s : State) (c i : Nat) (pc : Word) (again : Bool) : Except AccFault (List Byte) :=
  let line := pcLine pc
  if line.toNat ≥ codeWindow.toNat then
    match carriedLine (s.slotOf c i).act line with
    | some bs => .ok bs
    | none => .error (.abort 0x03 pc)
  else do
    let ps ← s.pagesOf c (s.slotOf c i).asid.toNat line 64 .fetch
    let bs ← ps.mapM (fun x => s.readPiece c true x.1 x.2.1 x.2.2)
    return if again then bs.flatten else s.lineSeen c i line ps bs.flatten

/-- R26: the line word. -/
def lineWord (bs : List Byte) : Nat := wordOfBytes (bs.take 4)

/-- R26: the bits of slot k. -/
def slotWord (bs : List Byte) (k : Nat) : IWord := BitVec.ofNat 96 (wordOfBytes ((bs.drop (4 + 12 * k)).take 12))

/-- R27: an even number of ones. -/
def evenOnes (w x : Nat) : Bool := onesIn w x % 2 == 0

/-- R27: a bit of the line word. -/
def lwBit (lw n : Nat) : Bool := lw / 2 ^ n % 2 == 1

/-- R27, R28: LPAR holds: the 32 bits of the line word hold an even number of ones. -/
def lparOk (lw : Nat) : Bool := evenOnes 32 lw

/-- R27, R28: SPAR of slot k holds. -/
def sparOk (bs : List Byte) (k : Nat) : Bool :=
  evenOnes 97 ((slotWord bs k).toNat * 2 + (lwBit (lineWord bs) (14 + k)).toNat)

/-- R29: a line word that is no illegal encoding. -/
def lineOk (lw : Nat) : Bool :=
  let pair := bits lw 8 5
  bits lw 31 20 == 0 && bits lw 13 9 == 0 && (pair &&& (pair / 2)) == 0 && (pair &&& (bits lw 4 1)) == 0

/-- R28: the line of a PC that passes a parity check, fetched once more when it does not; none: it fails again. -/
def State.fetchChecked (s : State) (c i : Nat) (pc : Word) (ok : List Byte → Bool) : Except AccFault (Option (List Byte)) :=
  match s.fetchLine c i pc false with
  | .error f => .error f
  | .ok bs =>
    if ok bs then .ok (some bs)
    else (s.fetchLine c i pc true).map (fun bs => if ok bs then some bs else none)

/-- R32, R33: the fault of a fetch for a target. -/
def targetFault (target : Word) : AccFault → AccFault
  | .trans _ => .trans target
  | .abort cause _ => .abort cause target
  | .line n inv => .line n inv
  | .busy => .busy

/-- R28, R32, R33: the target check of a branch, a jump or an entry at slot i of core c. -/
def State.checkTarget (s : State) (c i : Nat) (target : Word) : Except AccFault Unit :=
  if pcSlot target > 4 ∨ canonical target = false then .error (.abort 0x03 target)
  else
    match s.fetchChecked c i target (fun bs => lparOk (lineWord bs)) with
    | .error f => .error (targetFault target f)
    | .ok none => .error (.abort 0x04 (pcLine target))
    | .ok (some bs) => if lwBit (lineWord bs) (pcSlot target) then .ok () else .error (.abort 0x03 target)

/-- R32: the target a branch at a PC carries in IMM. -/
def branchTarget (pc : Word) (imm : BitVec 32) : Word :=
  let off : BitVec 29 := BitVec.ofNat 29 (imm.toNat / 8)
  pcLine pc + (off.signExtend 64) * 64 + BitVec.ofNat 64 (imm.toNat % 8)

/-- What stands at the PC of a slot: an issue unit, or what fetching and judging it comes to. -/
inductive FetchUnit where
  | unit (i : Instr) (second : Option Instr)
  | illegalInstruction (pc : Word)
  | illegalEncoding (pc : Word)
  | parity (pc line : Word)
  | access (f : AccFault)
  deriving DecidableEq, Repr

/-- R50, steps 3 to 5: the checks on the one or two words of an issue unit. FAULT_PC of a pairing violation names the first slot
(DESIGN CHOICE, log 61). -/
def judge (pc : Word) (a : Decoded) (b : Option Decoded) : FetchUnit :=
  match a, b with
  | .illegalInstruction, _ => .illegalInstruction pc
  | _, some .illegalInstruction => .illegalInstruction (pc + 1)
  | .illegalEncoding, _ => .illegalEncoding pc
  | .instr _, some .illegalEncoding => .illegalEncoding (pc + 1)
  | .instr i, none => .unit i none
  | .instr i, some (.instr j) => if pairOk i j then .unit i (some j) else .illegalEncoding pc

/-- R27, R28: the line word's pair bit for slot k. -/
def pairAt (bs : List Byte) (k : Nat) : Bool := decide (k < 4) && lwBit (lineWord bs) (5 + k)

/-- R28: the parity of what is about to issue from slot k on holds. -/
def unitParity (k : Nat) (bs : List Byte) : Bool :=
  lparOk (lineWord bs) && sparOk bs k && (!pairAt bs k || sparOk bs (k + 1))

/-- R28: the slot whose parity fails: the second of a pair only where the first one's holds. -/
def parityPc (pc : Word) (bs : List Byte) : Word :=
  if lparOk (lineWord bs) && sparOk bs (pcSlot pc) then pc + 1 else pc

/-- R28 to R30, R50: the issue unit of slot i of core c, fetched and judged in the order of R50. -/
def State.unitAt (s : State) (c i : Nat) : FetchUnit :=
  let pc := (s.slotOf c i).pc
  let k := pcSlot pc
  if k > 4 then .access (.abort 0x03 pc)
  else
  match s.fetchChecked c i pc (unitParity k) with
  | .error f => .access f
  | .ok none =>
    (match s.fetchLine c i pc true with
     | .ok bs => .parity (parityPc pc bs) (pcLine pc)
     | .error f => .access f)
  | .ok (some bs) =>
    if !lineOk (lineWord bs) then .illegalEncoding pc
    else judge pc (decode (slotWord bs k)) (if pairAt bs k then some (decode (slotWord bs (k + 1))) else none)

end Sys2Proof.Machine
end

