-- ==== Sys2Proof/Machine/Hazards.lean ====
section
/-! DEFINITION. When a slot is ready (R70, R73): the scoreboard, pending predicates, channels, engine queues, the send buffer,
credits, and the stores a release waits for (R249, R255, R257); and the slot states that SLOT_STATE reports (R64, R89). -/
namespace Sys2Proof.Machine

/-- R46: the opcodes of engine commands. -/
def isEngineOp (op : Nat) : Bool := (decide (0xA0 ≤ op) && decide (op ≤ 0xAB)) || (decide (0xB0 ≤ op) && decide (op ≤ 0xB7))

/-- R172, R180, R331: the engine a command goes to. -/
def engineOf (op : Nat) : Engine := if op < 0xB0 then .matrix else .copy

/-- The queue of an engine. -/
def Core.eng (k : Core) : Engine → EngineQ
  | .matrix => k.matrix
  | .copy => k.copy

/-- A core with the queue of an engine changed. -/
def Core.modEng (k : Core) (e : Engine) (f : EngineQ → EngineQ) : Core :=
  match e with
  | .matrix => { k with matrix := f k.matrix }
  | .copy => { k with copy := f k.copy }

/-- R92: a register has a write that has not landed. A leased vector register does not wait but faults (R96). -/
def Slot.regBusy (x : Slot) : RegId → Bool
  | .s n => x.pending .scalar n
  | .v n => x.sb.any (fun e => e.cls == .vector && e.reg == n && !e.lease)
  | .p n => x.pending .pred n
  | .c _ | .m _ | .a _ | .sr _ => false

/-- R93: the registers whose MFSR takes a scoreboard entry: CYCLE, RETIRED and those kept per core or per package. -/
def srLate (n : Nat) : Bool :=
  n == 0x002 || n == 0x003 || n == 0x000 || n == 0x030 || n == 0x033 || n == 0x070 || (0x090 ≤ n && n ≤ 0x09F) ||
  n == 0x102 || (0x104 ≤ n && n ≤ 0x10A) || (0x110 ≤ n && n ≤ 0x117) || (0x119 ≤ n && n ≤ 0x11E) || n == 0x120 || n == 0x121 ||
  n == 0x135 || n == 0x137 || n == 0x138

/-- R93: the scoreboard entries an instruction takes. Which vector instructions have a result later than the next clock is left open:
every one of 0x60 to 0x85 but VCMP takes an entry, VQNT two (DESIGN CHOICE, log 61). -/
def entriesOf (i : Instr) : Nat :=
  let op := opOf i
  let tok := match (encodeFields i) with | some f => f.tok.toNat | none => 0
  let own :=
    if op = 0xA6 then (match i with | .mxrd _ _ _ _ _ lg => 2 ^ lg.val | _ => 0)
    else if op = 0x05 then (match i with | .mfsr _ _ n => (srLate n.toNat).toNat | _ => 0)
    else if op = 0x51 ∨ op = 0x58 ∨ op = 0x59 ∨ op = 0x76 then 2
    else if (0x12 ≤ op ∧ op ≤ 0x18) ∨ op = 0x40 ∨ op = 0x42 ∨ op = 0x44 ∨ op = 0x46 ∨ op = 0x50 ∨ op = 0x52 ∨ op = 0x54 ∨
      op = 0x5A ∨ (0x60 ≤ op ∧ op ≤ 0x85 ∧ op ≠ 0x73) ∨ op = 0xC2 ∨ op = 0xBE then 1
    else 0
  own + tok

/-- R93: the scoreboard entries an instruction takes at a slot: under a pending guard the sD of an RSEND or RFWD takes one too (R46). -/
def Slot.entryCount (x : Slot) (i : Instr) : Nat :=
  entriesOf i + ((opOf i == 0xB5 || opOf i == 0xB6) && x.pending .pred (guardOf i).p.val).toNat

/-- A command that reads the codebook table (R123). -/
def readsCodebook : Instr → Bool
  | .mxmma _ _ ta tb _ _ _ _ _ => ta == .cb8 || tb == .cb8
  | _ => false

/-- R123: a command that reads the codebook table has not completed. -/
def Core.codebookRead (k : Core) : Bool := k.matrix.q.any (fun c => readsCodebook c.instr)

/-- R123: an MTSR to the codebook waits for the commands that read it. -/
def Core.mtsrWaits (k : Core) : Instr → Bool
  | .mtsr _ n _ => (n == 0x104 || n == 0x105) && k.codebookRead
  | _ => false

/-- R164: a write to BANK_ROLE, which waits for one that is under way. -/
def writesRole : Instr → Bool
  | .mtsr _ n _ => n == 0x030
  | _ => false

/-- R164: an instruction with an access to local memory. -/
def usesLocal : Instr → Bool
  | .ld _ _ _ _ sp _ | .st _ _ _ _ sp _ | .vld _ _ _ _ _ sp _ | .vst _ _ _ _ _ sp _ | .vlds _ _ _ _ _ _ sp _ | .vsts _ _ _ _ _ _ sp _
  | .vgth _ _ _ _ _ _ _ sp _ | .vsct _ _ _ _ _ _ _ sp _ | .amo _ _ _ _ _ _ sp _ | .amocas _ _ _ _ _ _ sp _
  | .wait _ _ _ _ _ _ _ sp _ | .cpy2d _ _ _ _ sp _ | .ringcfg _ _ _ _ sp | .spawn _ _ _ sp | .thnew _ _ _ sp
  | .txsub _ _ _ sp | .txrst _ _ _ sp => sp == .loc
  | .send _ _ _ _ _ _ _ | .sendc _ _ _ _ _ _ _ _ | .reply _ _ _ _ _ | .qcfg _ _ _ _ | .txver _ _ _ _ => true
  | _ => false

/-- R46: a command that has taken an entry of a channel, or a draw, only once its pending guard acts: what it will use. -/
def lateUses : Instr → List RegId
  | .mxsca _ _ _ _ _ _ a b => [a, b].filterMap (fun v => match v with | .chan c => some (.c c.val) | .reg _ => none)
  | .mxst _ _ _ _ _ _ _ _ _ _ => [.sr 0x042]
  | _ => []

/-- R46: a register of an instruction of slot i that a command under a guard will use first. -/
def Core.lateHolds (k : Core) (i : Nat) (r : RegId) : Bool :=
  match r with
  | .c _ | .sr _ => k.matrix.q.any (fun h => h.late && h.slot == i && (lateUses h.instr).contains r && (r != .sr 0x042 || h.rnd == 4))
  | .s _ | .v _ | .p _ | .m _ | .a _ => false

/-- R46, R78: a RETH of slot i waits for commands that still lack what their slot gives them when their guard acts. -/
def Core.rethWaits (k : Core) (i : Nat) : Instr → Bool
  | .reth _ => k.matrix.q.any (fun h => h.late && h.slot == i) || k.copy.q.any (fun h => h.late && h.slot == i)
  | _ => false

/-- R332: an RSEND or RFWD that has taken block n waits for the release of block n − S while its ring is not in error. -/
def State.creditWaits (s : State) (x : Slot) : Bool :=
  match x.act.bind (·.ringNum) with
  | none => false
  | some (r, n) =>
    match smGet (fun _ => none) s.rings r with
    | none => false
    | some g => !g.err && !g.lost && decide (g.credit ≤ n)

/-! The send family (R213). -/

/-- R213, R167: the local payload of a slot's message. -/
def State.localPayload (s : State) (c i : Nat) (b : Sreg) (len : Nat) : Except FaultInfo (List Byte) :=
  if len = 0 then .ok []
  else
    match s.readL c (localOff ((s.slotOf c i).s b)) (16 * len) with
    | .error (.abort cause a) => .error ⟨cause, a, 0, 0⟩
    | .error _ => .ok []
    | .ok bs => .ok bs

/-- R213: the vector registers of a SENDV. -/
def sendvSrcs (b : Vreg) (len : Nat) : List Nat := (List.range ((len + 3) / 4)).map (fun i => b.val + i)

/-- R213: the payload of SENDV; a leased source takes the lease fault. -/
def Slot.vectorPayload (x : Slot) (b : Vreg) (len : Nat) : Except FaultInfo (List Byte) :=
  match x.leaseOf (sendvSrcs b len) with
  | some r => .error ⟨0x05, BitVec.ofNat 64 r, 0, 0⟩
  | none => .ok (((sendvSrcs b len).flatMap (fun r => vecBytes (x.v (Fin.ofNat 32 r)))).take (16 * len))

/-- R213: the entries of the send buffer that an activation has put there. -/
def Core.sendsOf (k : Core) (i : Nat) : Nat := (k.sendBuf.filter (fun e => e.slot == i && !e.leaving)).length

/-- R213: the checks of a message that come before the wait for an entry: the destination, the limit of the activation, the payload. -/
def State.sendCheck (s : State) (c i : Nat) (a : Sreg) (pl : Except FaultInfo (List Byte)) : Except FaultInfo (List Byte) :=
  if 2 ^ 22 ≤ ((s.slotOf c i).s a).toNat then .error ⟨0x07, 0, 0, 0⟩
  else if 32 ≤ (s.coreOf c).sendsOf i then .error ⟨0x07, 0, 0, 0⟩
  else pl

/-- R213: the checks of a REPLY. -/
def State.replyCheck (s : State) (c i : Nat) (pl : Except FaultInfo (List Byte)) : Except FaultInfo (List Byte) :=
  let x := s.slotOf c i
  if x.msgSrc.getLsbD 22 || decide (1 < x.msgKind.toNat % 8) then .error ⟨0x07, 0, 0, 0⟩
  else if 32 ≤ (s.coreOf c).sendsOf i then .error ⟨0x07, 0, 0, 0⟩
  else pl

/-- R213: the checks of an instruction of the send family; none for another instruction. -/
def State.sendJudge (s : State) (c i : Nat) : Instr → Option (Except FaultInfo (List Byte))
  | .send _ _ a b _ _ len | .sendc _ _ a b _ _ len _ => some (s.sendCheck c i a (s.localPayload c i b len.val))
  | .sendv _ _ a b _ _ len => some (s.sendCheck c i a ((s.slotOf c i).vectorPayload b len.val))
  | .reply _ b _ _ len => some (s.replyCheck c i (s.localPayload c i b len.val))
  | _ => none

/-! Hazards. -/

/-- R45, R97: what an instruction under a guard that acts takes from what several may share. -/
def Slot.takes (x : Slot) (ins : Instr) : Bool := x.acts (guardOf ins)

/-- R213, R224: the first instruction of a pair takes an entry of the send buffer. -/
def State.sendsFirst (s : State) (c i : Nat) (first : Option Instr) : Nat :=
  match first with
  | none => 0
  | some f => if (s.slotOf c i).takes f && (s.sendJudge c i f).isSome then 1 else 0

/-- R222, R224: the first instruction of a pair takes a credit of a port. -/
def Slot.creditsFirst (x : Slot) (port : Fin 8) : Option Instr → Nat
  | some (.chsend g p _ _) => if p = port ∧ x.acts g then 1 else 0
  | _ => 0

/-- R108: the channels an instruction reads. -/
def chansUsed (ins : Instr) : List (Fin 8) :=
  (usesOf ins).reads.filterMap (fun r => match r with | .c m => some (Fin.ofNat 8 m) | _ => none)

/-- R48, R108: the channels that the first instruction of a pair reads. -/
def Slot.chansFirst (x : Slot) : Option Instr → List (Fin 8)
  | some f => if x.takes f then chansUsed f else []
  | none => []

/-- R172, R213, R222: an engine queue, the send buffer or a port has no room for an instruction. -/
def State.full (s : State) (c i : Nat) (first : Option Instr) (ins : Instr) : Bool :=
  let x := s.slotOf c i
  let k := s.coreOf c
  let op := opOf ins
  if isEngineOp op then decide (2 ≤ ((k.eng (engineOf op)).q.length))
  else match ins with
    | .chsend _ p _ _ =>
      (smGet (fun _ => 0) x.portTag p.val != 0) && decide (smGet (fun _ => 0) x.credits p.val ≤ x.creditsFirst p first)
    | _ =>
      match s.sendJudge c i ins with
      | some (.ok _) => decide (32 ≤ k.sendBuf.length + s.sendsFirst c i first) && decide (k.sendsOf i + s.sendsFirst c i first < 32)
      | _ => false

/-- R73, R92 to R97, R213, R222: an instruction of slot i of core c cannot issue yet. first: the first instruction of its pair, when
it is the second (R48). An instruction that needs more than 16 entries issues on an empty scoreboard (an MXRD.x16 with a token, DESIGN
CHOICE, log 61). -/
def State.hazard (s : State) (c i : Nat) (first : Option Instr) (ins : Instr) : Bool :=
  let x := s.slotOf c i
  let k := s.coreOf c
  let g := guardOf ins
  let pend := x.pending .pred g.p.val
  let u := usesOf ins
  let n := (first.map x.entryCount).getD 0
  let cs := chansUsed ins
  if pend && !isEngineOp (opOf ins) then true
  else if !pend && !x.acts g then
    (match encodeFields ins with | some f => f.tok && x.pending .scalar f.c.toNat | none => false)
  else
    (u.reads ++ u.writes).any (fun r => x.regBusy r || k.lateHolds i r) ||
    (x.entryCount ins != 0 && (x.sbWait.isSome || decide (16 < x.sb.length + n + x.entryCount ins) && !x.sb.isEmpty)) ||
    (!pend && (match x.act with | some a => a.popped.isEmpty | none => true) &&
      cs.all (fun ch => x.chanTagOf ch != 0) && !x.chansReady (cs ++ x.chansFirst first)) ||
    s.full c i first ins || k.mtsrWaits ins || k.rethWaits i ins || (k.rolePend.isSome && (usesLocal ins || writesRole ins)) ||
    ((opOf ins == 0xB5 || opOf ins == 0xB6) && !pend && s.creditWaits x)

/-- R70: slot i of core c is ready: it runs, waits for nothing, and its issue unit may issue. -/
def State.slotReady (s : State) (c i : Nat) : Bool :=
  let x := s.slotOf c i
  x.mode == .running && x.wait == .none &&
  (match x.act with
   | none => false
   | some a =>
     (a.atEntry && (match s.checkTarget c i x.pc with | .ok () => false | .error _ => true)) ||
     (match s.unitAt c i with
      | .unit p none => !s.hazard c i none p
      | .unit p (some q) => !s.hazard c i none p && !s.hazard c i (some p) q
      | .illegalInstruction _ | .illegalEncoding _ | .parity _ _ | .access _ => true))

/-- R64, R89: the state code of a slot. -/
def State.slotCode (s : State) (c i : Nat) : Nat :=
  let x := s.slotOf c i
  if i = 4 then (match x.mode with | .running => 1 | .free | .faultService | .draining => 0)
  else if s.cur = (c, i) ∧ x.mode = .running then 1
  else
    match x.mode with
    | .free => 0
    | .running => if s.slotReady c i then 1 else 2
    | .faultService => 3
    | .draining => 4

end Sys2Proof.Machine
end

