-- ==== Sys2Proof/Machine/SReg.lean ====
section
/-! DEFINITION. The special registers (R110, R112 and the registers that later chapters add): what MFSR reads and what
MTSR writes. -/
namespace Sys2Proof.Machine

/-! What the registers kept per core and per package read. -/

/-- R76, R62: the queue of a core. -/
def Core.queueOf (k : Core) (q : Nat) : Queue := smGet (fun _ => {}) k.queues q

/-- A core with a queue changed. -/
def Core.modQueue (k : Core) (q : Nat) (f : Queue → Queue) : Core :=
  { k with queues := smSet (fun _ => {}) k.queues q (f (k.queueOf q)) }

/-- R202: the bytes a message takes in its queue. -/
def msgSize (m : Message) : Nat := 16 + 16 * m.len

/-- R219: the bytes in use in a queue. -/
def Queue.used (q : Queue) : Nat := q.msgs.foldl (fun a m => a + msgSize m) 0

/-- R219: QSTATn. HEAPUSED has 16 bits: what a heap of 65,536 records reads when it is full the spec leaves open; the model reads the
count modulo 2¹⁶, 0 (DESIGN CHOICE, log 61). -/
def Queue.stat (q : Queue) : Word :=
  BitVec.ofNat 64 (q.refused % 65536 * 2 ^ 48 + q.heapCount % 65536 * 2 ^ 32 + q.run.toNat * 2 ^ 31 + q.held.toNat * 2 ^ 30 +
    q.used / 16 % 4096 * 2 ^ 12 + q.msgs.length % 4096)

/-- R165: the bytes of the operand-role banks. -/
def Core.operandBytes (k : Core) : Nat := ((List.range 32).filter (fun b => k.role b == 2)).length * 8192

/-- R165: the bytes of a core's reservations. -/
def Core.reservedBytes (k : Core) : Nat := k.res.foldl (fun a r => r.ranges.foldl (fun a g => a + g.2) a) 0

/-- R165: OPND_STAT. -/
def Core.opndStat (k : Core) : Word :=
  BitVec.ofNat 64 (k.res.length % 256 * 2 ^ 32 + (k.operandBytes - k.reservedBytes) % 2 ^ 19)

/-- R372: the core stands in the in-service map. -/
def SvcState.mapped : SvcState → Bool
  | .inService | .draining => true
  | .drained | .testing | .retired => false

/-- R372: word w of the in-service map. -/
def State.coreMap (s : State) (w : Nat) : Word :=
  BitVec.ofNat 64 ((List.range 64).foldl (fun a b => a + (s.coreOf (64 * w + b)).svc.mapped.toNat * 2 ^ b) 0)

/-- R325: LINK_STAT; after a reset a link is up once it has trained (R386). -/
def State.linkStat (s : State) : Word :=
  BitVec.ofNat 64 ((List.range 18).foldl (fun a p =>
    let x := smGet (fun _ => {}) s.ports p
    a + ((x.lo || x.hi) && !(s.fe.booting && x.training)).toNat * 2 ^ p + (x.lo != x.hi).toNat * 2 ^ (18 + p)) 0)

/-- R330: RING_STATEr. -/
def State.ringState (s : State) (r : Nat) : Word :=
  match smGet (fun _ => none) s.rings r with
  | none => 0
  | some g => BitVec.ofNat 64 (2 ^ 63 + g.succ % 1024 * 2 ^ 53 + g.pred % 1024 * 2 ^ 43 + (g.s - 1) % 16 * 2 ^ 39 +
      (g.lands.length - 1) % 256 * 2 ^ 31 + g.csize / 1024 % 128 * 2 ^ 24 + g.err.toNat * 2 ^ 23 + g.outn % 2048 * 2 ^ 12)

/-- R301: SEQ_STAT. -/
def State.seqStat (s : State) : Word :=
  BitVec.ofNat 64 (s.seq.round % 2 ^ 40 * 2 ^ 24 + s.seq.nextPk % 4096 * 2 ^ 12 + s.seq.nextPod % 4096)

/-- R242: OFFLN_ST. -/
def State.offlnSt (s : State) : Word :=
  BitVec.ofNat 64 (s.fe.chRet.length % 65536 * 2 ^ 48 + s.fe.vacate.length % 2 ^ 24 * 2 ^ 24 + s.fe.offline.length % 2 ^ 24)

/-- R89: SLOT_STATE. -/
def State.slotState (s : State) (c : Nat) : Word :=
  BitVec.ofNat 64 ((List.range 5).foldl (fun a i => a + s.slotCode c i * 2 ^ (4 * i)) 0)

/-- R367: FSSTAT. -/
def Core.fsstat (k : Core) : Word :=
  BitVec.ofNat 64 ((List.range 4).foldl (fun a i => a + ((k.slotOf i).mode == .faultService).toNat * 2 ^ (8 + i)) 0 +
    Nat.min k.work.length 7)

/-- R86: PRIO. The effective level is the larger of LEVEL and the level inherited (R71); the porter runs at 31. -/
def Slot.effLevel (x : Slot) : Nat := Nat.max x.level x.inherited

def Slot.prioWord (x : Slot) : Word := BitVec.ofNat 64 (x.ceil % 32 * 2 ^ 10 + x.effLevel % 32 * 2 ^ 5 + x.level % 32)

/-- R212: MSGCFG. -/
def Core.msgcfg (k : Core) : Word :=
  BitVec.ofNat 64 (k.nextId.toNat * 2 ^ 32 + k.ren.toNat * 2 ^ 31 + k.rqueue.toNat * 2 ^ 16 + k.rhid.toNat * 2 ^ 8)

/-- R189: MX_ROWPROG. -/
def RowProg.word (r : RowProg) : Word :=
  BitVec.ofNat 64 (r.oslot % 4 * 2 ^ 20 + r.slot % 8 * 2 ^ 16 + r.held.toNat * 2 ^ 8 + r.rows % 32)

/-- R122: a row of the codebook table. -/
def Core.cbRowOf (k : Core) (j : Nat) : BitVec 32 := smGet cbDefault k.codebook j

/-- R374: FAULT_CNT. -/
def Core.faultCnt (k : Core) : Word :=
  BitVec.ofNat 64 (k.cntLate.toNat * 2 ^ 48 + k.cntErr.toNat * 2 ^ 32 + k.cntAbort.toNat)

/-- R253: SCOPE_MISS. -/
def Core.scopeMiss (k : Core) : Word := BitVec.ofNat 64 (k.missTrap.toNat * 2 ^ 31 + k.missCount.toNat)

/-- R110, R112: the value MFSR returns. -/
def State.readSr (s : State) (n : Nat) : Word :=
  let c := s.cur.1
  let k := s.myCore
  let x := s.me
  if n < 0x050 then
    match n with
    | 0x000 => BitVec.ofNat 64 (globalCore c)
    | 0x001 => BitVec.ofNat 64 s.cur.2
    | 0x002 => s.cycle
    | 0x003 => k.retired
    | 0x010 => x.msgId
    | 0x011 => x.msgSrc
    | 0x012 => x.msgKind
    | 0x013 => x.msgLen
    | 0x014 => x.msgBase
    | 0x020 => x.txnNum
    | 0x021 => x.tileMap
    | 0x030 => k.bankRole
    | 0x031 => x.prioWord
    | 0x032 => BitVec.ofNat 64 (x.budget % 2 ^ 33)
    | 0x033 => s.coreMap x.cmapSel.toNat
    | 0x040 => x.flags.setWidth 64
    | 0x041 => x.rmode.setWidth 64
    | 0x042 => x.srseed.setWidth 64
    | _ => 0
  else if n < 0x101 then
    match n with
    | 0x050 => x.frec.cause
    | 0x051 => x.frec.addr
    | 0x052 => x.frec.pc
    | 0x053 => x.frec.msg
    | 0x054 => x.frec.sb
    | 0x070 => k.scopeMiss
    | 0x080 => x.detRound.setWidth 64
    | 0x081 => x.detSpill
    | n => if n < 0x070 then smGet (fun _ => 0) x.frec.sbe (n - 0x060) else s.ringState (n - 0x090)
  else if n < 0x122 then
    match n with
    | 0x101 => x.gangInfo
    | 0x102 => s.slotState c
    | 0x103 => x.cbRow.setWidth 64
    | 0x104 => (k.cbRowOf x.cbRow.toNat).setWidth 64
    | 0x106 => k.opndStat
    | 0x107 => k.rowProg.word
    | 0x108 => k.ascale.setWidth 64
    | 0x109 => BitVec.ofNat 64 (k.winb.toNat * 2048)
    | 0x10A => k.msgcfg
    | 0x118 => x.asid.setWidth 64
    | 0x119 => k.qasidLo
    | 0x11A => k.qasidHi
    | 0x11B => s.offlnSt
    | 0x11C => k.missAddr
    | 0x11D => s.seqStat
    | 0x11E => s.linkStat
    | 0x11F => x.launchInfo
    | 0x120 => BitVec.ofNat 64 (k.dqSpb.toNat * 2048 + k.dqLog2.toNat)
    | 0x121 => BitVec.ofNat 64 (k.spillDeque.length % 8192 * 2 ^ 16 + k.deque.length % 128)
    | n => if 0x110 ≤ n ∧ n ≤ 0x117 then (k.queueOf (n - 0x110)).stat else 0
  else
    match n with
    | 0x134 => x.frec.rpc
    | 0x135 => k.fsstat
    | 0x136 => x.cmapSel.setWidth 64
    | 0x137 => k.faultCnt
    | 0x138 => k.brkEn.setWidth 64
    | n => smGet (fun _ => 0) x.frec.sba (n - 0x122)

/-! Writes. -/

/-- R110: the registers that only a system activation may write. -/
def srSystem (n : Nat) : Bool := n == 0x030 || n == 0x109 || n == 0x119 || n == 0x11A || n == 0x120 || n == 0x138

/-- R206, R356: n bytes at a local offset lie in scratchpad banks. -/
def Core.inScratch (k : Core) (off n : Nat) : Bool :=
  decide (off + n ≤ 262144) &&
  (List.range ((off + n - 1) / 8192 + 1 - off / 8192)).all (fun i => k.role (off / 8192 + i) == 0)

/-- R86: LEVEL set under the ceiling. -/
def Slot.setLevel (x : Slot) (req : Nat) : Slot := { x with level := Nat.min req x.ceil }

/-- R122: one row written, then CB_ROW moves on. -/
def State.writeCbData (s : State) (c i : Nat) (v : Word) : State :=
  s.modCore c (fun k =>
    let x := k.slotOf i
    let k := { k with codebook := smSet cbDefault k.codebook x.cbRow.toNat (v.setWidth 32) }
    k.modSlot i (fun x => { x with cbRow := x.cbRow + 1 }))

/-- R121, R122: DEFAULT restores every row. -/
def State.writeCbCtl (s : State) (c : Nat) (v : Word) : State :=
  if v.getLsbD 0 then s.modCore c (fun k => { k with codebook := [] }) else s

/-- R164 step 1, R206: a change of roles that is refused: a bank that leaves the operand role holds part of a reservation, or
one that leaves the scratchpad role holds a window byte. -/
def Core.roleRefused (k : Core) (v : Word) : Bool :=
  (List.range 32).any (fun b =>
    let old := k.role b
    let new := bits v.toNat (2 * b + 1) (2 * b)
    old != new &&
      ((old == 2 && k.res.any (fun r => r.ranges.any (fun g => decide (g.1 < (b + 1) * 8192 ∧ b * 8192 < g.1 + g.2)))) ||
       (old == 0 && decide (k.winb.toNat * 2048 / 8192 = b))))

/-- R164 steps 3 and 4: changing banks are cleared, cache lines dropped, and the new roles stand. -/
def Core.setRoles (k : Core) (v : Word) : Core :=
  let changed := fun (b : Nat) => k.role b != bits v.toNat (2 * b + 1) (2 * b)
  { k with
    bankRole := v
    localMem := k.localMem.filter (fun e => !changed (e.1 / 8192))
    locPoison := k.locPoison.filter (fun e => !changed (e.1 / 256))
    cacheLines := if (List.range 32).any (fun b => k.role b == 1 && changed b) then [] else k.cacheLines }

/-- What a special-register write comes to: a protection fault, or the new state. -/
abbrev SrWrite := Option State

/-- R164: BANK_ROLE written for core c, with nothing to drain. -/
def State.writeBankRole (s : State) (c : Nat) (v : Word) : SrWrite :=
  if (s.coreOf c).roleRefused v then none else some (s.modCore c (fun k => k.setRoles v))

/-- R164 step 2: engine commands issued before a BANK_ROLE write have not completed. -/
def Core.roleDrains (k : Core) (ord : Nat) : Bool := k.matrix.q.any (fun h => decide (h.ord ≤ ord)) || k.copy.q.any (fun h => decide (h.ord ≤ ord))

/-- R110, R112: MTSR by the issuing slot; none for a protection fault. A write to PRIO takes bits [4:0], LEVEL, as the request: CEIL and
EFF are read-only and the bits above reserved (R5, R6, R86). -/
def State.writeSr (s : State) (n : Nat) (v : Word) : SrWrite :=
  let k := s.myCore
  let core := fun (f : Core → Core) => some (s.modMyCore f)
  let slot := fun (f : Slot → Slot) => some (s.modMe f)
  if srSystem n && !s.isSystem then none
  else
    match n with
    | 0x030 => s.writeBankRole s.cur.1 v
    | 0x031 => slot (fun x => x.setLevel (v.toNat % 32))
    | 0x040 => slot (fun x => { x with flags := v.setWidth 10 ||| x.engFlags })
    | 0x041 => slot (fun x => if v.toNat % 8 ≤ 4 then { x with rmode := v.setWidth 3 } else x)
    | 0x042 => slot (fun x => { x with srseed := v.setWidth 32 })
    | 0x070 => core (fun k => { k with missTrap := v.getLsbD 31, missCount := v.setWidth 16 })
    | 0x080 => slot (fun x => { x with detRound := v.setWidth 32 })
    | 0x081 =>
      let l := v.toNat % 32
      if l = 0 ∨ (12 ≤ l ∧ l ≤ 16) then slot (fun x => { x with detSpill := v &&& 0xFFFFFFFFFFFF001F#64 }) else some s
    | 0x103 => slot (fun x => { x with cbRow := v.setWidth 8 })
    | 0x104 => some (s.writeCbData s.cur.1 s.cur.2 v)
    | 0x105 => some (s.writeCbCtl s.cur.1 v)
    | 0x109 =>
      let w := bits v.toNat 17 11
      if k.inScratch (w * 2048) 1280 then core (fun k => { k with winb := BitVec.ofNat 7 w }) else none
    | 0x10A =>
      core (fun k => { k with
        ren := v.getLsbD 31
        rqueue := if bits v.toNat 18 16 = 0 then k.rqueue else BitVec.ofNat 3 (bits v.toNat 18 16)
        rhid := BitVec.ofNat 8 (bits v.toNat 15 8) })
    | 0x119 => core (fun k => { k with qasidLo := v })
    | 0x11A => core (fun k => { k with qasidHi := v })
    | 0x120 =>
      let spb := bits v.toNat 17 11
      let lg := v.toNat % 16
      if !(k.deque.isEmpty && k.spillDeque.isEmpty) || (lg != 0 && !k.inScratch (spb * 2048) (64 * 2 ^ lg)) then none
      else core (fun k => { k with dqSpb := BitVec.ofNat 7 spb, dqLog2 := BitVec.ofNat 4 lg })
    | 0x136 => slot (fun x => { x with cmapSel := v.setWidth 6 })
    | 0x137 =>
      core (fun k => { k with
        cntLate := BitVec.ofNat 16 (bits v.toNat 63 48), cntErr := BitVec.ofNat 16 (bits v.toNat 47 32), cntAbort := v.setWidth 32 })
    | 0x138 => core (fun k => { k with brkEn := v.setWidth 8 })
    | _ => some s

end Sys2Proof.Machine
end

