-- ==== Sys2Proof/Machine/Pick.lean ====
section
/-! DEFINITION. The issue picker (R70, R71) and the clock: what every core clock does to the counters (R70, R74, R112, R379). -/
namespace Sys2Proof.Machine

/-- R70, R71: the class of a slot, by its effective level at the start of the clock; the porter runs at level 31. -/
def State.classOf (s : State) (c i : Nat) : Nat := if i = 4 then 3 else (s.slotOf c i).pickLevel / 8

/-- R70: the ready slots of a core. -/
def State.readySlots (s : State) (c : Nat) : List Nat := (List.range 5).filter (s.slotReady c)

/-- R70: the first slot of a list after the one last chosen, in the order 0, 1, 2, 3, 4, 0. -/
def firstAfter (last : Nat) (l : List Nat) : Option Nat :=
  ((List.range 5).map (fun d => (last + 1 + d) % 5)).find? (fun i => l.contains i)

/-- R70: the slot the picker of core c chooses. -/
def State.pick (s : State) (c : Nat) : Option Nat :=
  let ready := s.readySlots c
  match ready.find? (fun i => decide (4096 ≤ (s.slotOf c i).age)) with
  | some i => some i
  | none =>
    let top := ready.foldl (fun a i => Nat.max a (s.classOf c i)) 0
    firstAfter (smGet (fun _ => 4) (s.coreOf c).lastSlot top) (ready.filter (fun i => s.classOf c i == top))

/-- R70: slot i of core c is chosen: its age returns to zero, the other ready slots grow older, and its class remembers it. A forced
choice counts as the slot last chosen in its class too (DESIGN CHOICE, log 61: the spec does not say). -/
def State.choose (s : State) (c i : Nat) : State :=
  let ready := s.readySlots c
  let cls := s.classOf c i
  let s := s.modCore c (fun k =>
    let k := ready.foldl (fun (k : Core) j => k.modSlot j (fun x => { x with age := if j = i then 0 else x.age + 1 })) k
    { k with lastSlot := smSet (fun _ => 4) k.lastSlot cls i })
  { s with cur := (c, i), turn := c + 1, choice := s.choice + 1 }

/-- The next core, from `turn` on, whose picker finds a ready slot, and that slot. -/
def State.nextIssue (s : State) : Option (Nat × Nat) :=
  s.cores.findSome? (fun e => if e.1 < s.turn then none else (s.pick e.1).map (fun i => (e.1, i)))

/-- R74, R69: the budget of a slot counts in this clock. -/
def State.budgetRuns (s : State) (x : Slot) : Bool :=
  match x.act with
  | none => false
  | some a =>
    x.mode == .running &&
    (match a.gang with
     | none => true
     | some gid =>
       match smGet (fun _ => none) s.gangs gid with
       | none => true
       | some g => !g.members.any (fun m => match m.slot with
         | some i => m.started && (s.slotOf m.core i).mode == .faultService
         | none => false))

/-- R379: the length of a core clock in units of 1/24 ns at an operating point: 2.0, 1.6, 1.2 and 1.0 GHz. -/
def clockUnits (pt : Nat) : Nat := match pt with | 0 => 12 | 1 => 15 | 2 => 20 | _ => 24

/-- R371: a bank being retired goes off once no reservation holds a part of it. -/
def Core.settleBanks (k : Core) : Core :=
  if k.retiring.isEmpty then k
  else
    let busy := fun (b : Nat) => k.res.any (fun r => r.ranges.any (fun g => decide (g.1 < (b + 1) * 8192 ∧ b * 8192 < g.1 + g.2)))
    let v := k.retiring.foldl (fun (v : Nat) b => if busy b then v else v ||| 3 * 2 ^ (2 * b)) k.bankRole.toNat
    { k.setRoles (BitVec.ofNat 64 v) with retiring := k.retiring.filter busy }

/-- R74, R71, R113: the clock of a slot: its budget, its level for the next choice, and the FLAGS bits of this clock. -/
def State.clockSlot (s : State) (x : Slot) : Slot :=
  { x with pickLevel := x.effLevel, engFlags := 0, budget := if s.budgetRuns x then x.budget - 1 else x.budget }

/-- R74: the clock of a core's slots. -/
def State.clockCore (s : State) (k : Core) : Core := { k with slots := k.slots.map (fun (x : Nat × Slot) => (x.1, s.clockSlot x.2)) }

/-- R112, R74: one core clock passes. What the host's response let the agents outside the cores do ends with the clock after it (R337). -/
def State.clock (s : State) : State :=
  { s with
    cores := s.cores.map (fun (e : Nat × Core) => (e.1, (s.clockCore e.2).settleBanks))
    cycle := s.cycle + 1, wall := s.wall + clockUnits s.fe.pt, turn := 0, choice := s.choice + 1
    linePass := (s.linePass.filter (fun e => e.who != (agentCore, 0))).map (fun e =>
      if e.who = (agentCore, 1) then { e with who := (agentCore, 0) } else e) }

end Sys2Proof.Machine
end

