-- ==== Sys2Proof/Machine/Control.lean ====
section
/-! DEFINITION. Meanings: NOP, branches and jumps (R81 to R85), PRIO (R86), special registers (R110), waits (R87), TRAP and BRK
(R376, R377). -/
namespace Sys2Proof.Machine

/-- R81: NOP. -/
def execNop (g : Guard) (s : State) : Out := guarded g (fun s => s.complete) s

/-! Branches. -/

/-- R30, R32: control passes to a target that has passed its check. -/
def State.jump (s : State) (target : Word) : State := (s.setPc target).retire

/-- R32: the target is checked; the branch takes the fault, or f goes on. -/
def State.withTarget (s : State) (target : Word) (f : State → State) : State :=
  match s.checkTarget s.cur.1 s.cur.2 target with
  | .ok () => f s
  | .error e => s.takeAcc e

/-- R82: BR. -/
def execBr (g : Guard) (imm : BitVec 32) (s : State) : Out :=
  guarded g (fun s => let t := branchTarget s.me.pc imm; s.withTarget t (fun s => s.jump t)) s

/-- R83: a call: the link register and the jump. -/
def State.call (s : State) (d : Sreg) (target : Word) : State :=
  s.withTarget target (fun s => (s.modMe (fun x => x.setS d (nextPc x.pc))).jump target)

/-- R83: JAL. -/
def execJal (g : Guard) (d : Sreg) (imm : BitVec 32) (s : State) : Out :=
  guarded g (fun s => s.call d (branchTarget s.me.pc imm)) s

/-- R83: JALR. -/
def execJalr (g : Guard) (d a : Sreg) (imm : BitVec 32) (s : State) : Out :=
  guarded g (fun s => s.call d (s.me.s a + sext32 imm)) s

/-- R85: LOOP. -/
def execLoop (g : Guard) (d : Sreg) (imm : BitVec 32) (s : State) : Out :=
  guarded g (fun s =>
    let n := s.me.s d
    let n' := if n = 0 then 0 else n - 1
    if n' = 0 then (s.modMe (fun x => x.setS d 0)).complete
    else
      let t := branchTarget s.me.pc imm
      s.withTarget t (fun s => (s.modMe (fun x => x.setS d n')).jump t)) s

/-! Special registers. -/

/-- R86: PRIO. -/
def execPrio (g : Guard) (d : Sreg) (b : Src) (s : State) : Out :=
  guarded g (fun s =>
    let req := (s.me.srcZ b).toNat
    let old := BitVec.ofNat 64 s.me.level
    (s.modMe (fun x => (x.setLevel req).setS d old)).complete) s

/-- R48, R110: what MFSR reads: as the register stood before its pair issued. -/
def State.mfsrValue (s : State) (n : Nat) : Word := ((s.myAct.bind (·.pairSr))).getD (s.readSr n)

/-- R110, R93: MFSR. -/
def execMfsr (g : Guard) (d : Sreg) (n : BitVec 12) (s : State) : Out :=
  let v := s.mfsrValue n.toNat
  guarded g (fun s =>
    if srLate n.toNat then s.putS .mfsr d v 0 else (s.modMe (fun x => x.setS d v)).complete) s

/-- R164 steps 1 and 2: a BANK_ROLE write that is not refused waits for the engines. -/
def State.roleWaits (s : State) (n : Nat) (v : Word) : Bool :=
  n == 0x030 && s.isSystem && !s.myCore.roleRefused v && s.myCore.roleDrains s.serial

/-- R110, R164: MTSR; a protection fault writes nothing. -/
def execMtsr (g : Guard) (n : BitVec 12) (a : Sreg) (s : State) : Out :=
  guarded g (fun s =>
    let v := s.me.s a
    if s.roleWaits n.toNat v then
      { (s.modMyCore (fun k => { k with rolePend := some (v, s.serial, s.cur.2) })).modMe (fun x => { x with wait := .role }) with
        pairNext := none }
    else match s.writeSr n.toNat v with
    | some s' => s'.complete
    | none => s.abortMe ⟨0x07, 0, 0, 0⟩) s

/-- R164 step 4: the MTSR of slot i of core c whose roles stand completes. -/
def State.endRole (s : State) (c i : Nat) : State :=
  if (s.slotOf c i).wait ≠ .role then s
  else
    let s := s.modCore c (fun k => { k with rolePend := none })
    ({ s with cur := (c, i) }.modMe (fun x => { x with wait := .none })).complete

/-- R164: the BANK_ROLE write of slot i of core c: a protection fault, or the change of roles once the commands issued before it have
completed. -/
def execBankRole (core slot : Nat) (v : Word) (s : State) : Out :=
  .next (
    let k := s.coreOf core
    let ord := match k.rolePend with | some p => p.2.1 | none => s.serial
    match s.writeBankRole core v with
    | some s' => if k.roleDrains ord then s else s'.endRole core slot
    | none => s.abort core slot ⟨0x07, 0, 0, 0⟩ (s.slotOf core slot).pc false)

/-- R122, R123: the CB_DATA write of slot i of core c, once the commands that read the table have completed (log 58). -/
def execCbData (core slot : Nat) (v : Word) (s : State) : Out :=
  .next (if (s.coreOf core).codebookRead then s else s.writeCbData core slot v)

/-- R121 to R123: the CB_CTL write, once the commands that read the table have completed (log 58). -/
def execCbCtl (core : Nat) (v : Word) (s : State) : Out :=
  .next (if (s.coreOf core).codebookRead then s else s.writeCbCtl core v)

/-! Traps. -/

/-- R376: TRAP. -/
def execTrap (g : Guard) (noretry : Bool) (imm : BitVec 32) (s : State) : Out :=
  guarded g (fun s =>
    { s.abort s.cur.1 s.cur.2 ⟨0x0E, zext32 imm, 0, 0⟩ s.me.pc noretry with pairNext := none }) s

/-- R377: BRK stops activations of a queue with BRK_EN; the restart point is the unit after it. -/
def execBrk (g : Guard) (code : BitVec 16) (s : State) : Out :=
  guarded g (fun s =>
    let en := match s.myAct.bind (·.queue) with
      | some q => s.myCore.brkEn.getLsbD q
      | none => false
    if en && s.cur.2 != 4 then
      (s.stop s.cur.1 s.cur.2 ⟨0x12, code.setWidth 64, 0, 0⟩ s.me.pc (nextPc s.me.pc)).retire
    else s.complete) s

/-- R50: the illegal-instruction trap. -/
def execIllegalInstructionTrap (s : State) : Out := .next (s.abortMe ⟨0x01, 0, 0, 0⟩)

/-! Waits (R87). -/

/-- R87: the conditions of WAIT. -/
def waitHolds (c : WCond) (v b : Word) : Bool :=
  match c with
  | .eq => v == b
  | .ne => v != b
  | .ltu => v.ult b
  | .geu => b.ule v

/-- R87, R240: the slot watches the atom of an address; a slice holds 256 watches. -/
def State.watch (s : State) (sp : Space) (a : Word) : State :=
  let (c, i) := s.cur
  let drop := s.watches.filter (fun w => !(w.core == c && w.slot == i))
  match sp with
  | .loc => { s with watches := drop ++ [⟨c, i, localOff a / 32, true, false⟩] }
  | .glob =>
    match s.translate c s.me.asid.toNat a .read with
    | .ok p =>
      let sl := homeSlice (paOff p.pa)
      if p.host || paPkg p.pa != Config.pkg || decide (256 ≤ (drop.filter (fun w => !w.loc && homeSlice (w.atom * 32 % 2 ^ 46) == sl)).length)
      then { s with watches := drop }
      else { s with watches := drop ++ [⟨c, i, p.pa / 32, false, false⟩] }
    | .error _ => { s with watches := drop }

/-- R253: an acquire that has read an address: the scope-miss check at its atom and the acquire itself. -/
def State.acquireAt (s : State) (o : Order) (sp : Space) (a : Word) : State :=
  if !o.acq then s
  else
    let s := match sp with
      | .loc => s
      | .glob =>
        match s.translate s.cur.1 s.me.asid.toNat a .read with
        | .ok p => if p.host || p.window then s else s.scopeMissAt s.cur.1 p.pa
        | .error _ => s
    s.acquire s.cur.1 o.scope

/-- The end of a WAIT: the last value read goes to sD and the instruction completes. -/
def State.endWait (s : State) (d : Sreg) (v : Word) : State :=
  let (c, i) := s.cur
  let s := { s with watches := s.watches.filter (fun w => !(w.core == c && w.slot == i)) }
  let s := s.modMyAct (fun a => { a with waitT0 := none })
  (s.modMe (fun x => { (x.setS d v) with wait := .none })).complete

/-- R87: one read of a memory wait of the issuing slot. It ends the wait when the condition holds or the limit has passed;
otherwise the slot watches and reads again after 2,048 clocks at the latest. -/
def State.waitRead (s : State) (d : Sreg) (cond : WCond) (a cmp lim t0 : Word) (sp : Space) (o : Order) : State :=
  if a.toNat % 8 ≠ 0 then s.takeAcc (misaligned sp a)
  else
    match s.readMem sp a 8 with
    | .error f =>
      let s := s.modMyAct (fun x => { x with waitT0 := some t0 })
      (s.modMe (fun x => { x with wait := .none })).takeAcc f
    | .ok bs =>
      let v := BitVec.ofNat 64 (wordOfBytes bs)
      if waitHolds cond v cmp || (lim != 0 && lim.ule (s.cycle - t0)) then (s.acquireAt o sp a).endWait d v
      else
        (s.modMe (fun x => { x with
          wait := .mem d cond a cmp lim t0 (s.cycle + 2048) sp (if o.acq then o.scope else .none) })).watch sp a

/-- R87: WAIT. -/
def execWait (g : Guard) (cond : WCond) (d a b c : Sreg) (imm : BitVec 32) (sp : Space) (o : Order) (s : State) : Out :=
  guarded g (fun s =>
    let t0 := ((s.myAct.bind (·.waitT0))).getD s.cycle
    s.waitRead d cond (s.me.s a + sext32 imm) (s.me.s b) (s.me.s c) t0 sp o) s

/-- R87: WAIT.CLK; a limit of 0 completes at once. -/
def execWaitClk (g : Guard) (c : Sreg) (s : State) : Out :=
  guarded g (fun s =>
    let lim := s.me.s c
    if lim = 0 then s.complete else s.modMe (fun x => { x with wait := .clk lim s.cycle })) s

/-- The memory wait of slot i of core c read again, as that slot. -/
def State.rereadWait (s : State) (c i : Nat) : State :=
  match (s.slotOf c i).wait with
  | .mem d cond a cmp lim t0 _ sp acq =>
    if (s.slotOf c i).mode = .running then
      ({ s with cur := (c, i) }.waitRead d cond a cmp lim t0 sp ⟨acq, decide (acq ≠ Scope.none), false⟩).noteOwn c i (sp == Space.loc)
    else s
  | _ => s

/-- R87: a write has met the watch of a waiting slot. -/
def execWaitWake (core slot : Nat) (s : State) : Out :=
  .next (if s.watches.any (fun w => w.core == core && w.slot == slot && w.fired) then s.rereadWait core slot else s)

/-- R87: the 2,048-clock reread falls due. -/
def execWaitPoll (core slot : Nat) (s : State) : Out :=
  .next (match (s.slotOf core slot).wait with
    | .mem _ _ _ _ _ _ poll _ _ => if poll.ule s.cycle then s.rereadWait core slot else s
    | _ => s)

/-- R87: the limit of a wait passes: a memory wait reads a last time and ends; a clock wait ends. -/
def execWaitTimeout (core slot : Nat) (s : State) : Out :=
  .next (match (s.slotOf core slot).wait with
    | .mem _ _ _ _ lim t0 _ _ _ => if lim != 0 && lim.ule (s.cycle - t0) then s.rereadWait core slot else s
    | .clk lim t0 =>
      if lim.ule (s.cycle - t0) && (s.slotOf core slot).mode == .running then
        ({ s with cur := (core, slot) }.modMe (fun x => { x with wait := .none })).complete
      else s
    | _ => s)

end Sys2Proof.Machine
end

