-- ==== Sys2Proof/Machine/Access.lean ====
section
/-! DEFINITION. What loads, stores and atomics share: releases and acquires (R249, R250, R253, R255), vector accesses lane by
lane (R171), and atomics at the home (R258, R259). -/
namespace Sys2Proof.Machine

/-! Command statuses (R94, R95). -/

/-- R362: the cause of a fault that R95 raises for a command status. -/
def statusCause (code : Nat) : Nat :=
  match code with
  | 0x02 => 0x06
  | 0x03 => 0x0F
  | 0x04 => 0x09
  | 0x05 => 0x0A
  | 0x06 => 0x08
  | _ => 0x07

/-- R94: the UNIT of an engine's command; ring commands have UNIT 2 (R331). -/
def statusWord (unit code : Nat) : Word := if code = 0 then 0 else BitVec.ofNat 64 (unit * 256 + code)

/-- R95: the first error of the given units that waits for the issuing activation. -/
def State.cmdError (s : State) (unit : Nat → Bool) : Option CmdError := (s.myAct.map (·.errs)).getD [] |>.find? (fun e => unit e.unit)

/-- R95: the fault of a command status, with FAULT_PC the command's. -/
def State.abortCmd (s : State) (e : CmdError) : State :=
  { s.abort s.cur.1 s.cur.2 ⟨statusCause e.code, e.addr, e.unit, e.code⟩ e.pc false with pairNext := none }

/-! Releases and acquires. -/

/-- R249, R266: what a release of the issuing slot at a scope does before its own store: the cluster's buffer drains. It waits while
an earlier store of the slot is held at its home, or, at pod scope, is not acknowledged. A FENCE drains from cluster scope on, and at
package and pod scope waits for stores to unordered pages too. -/
def State.releasePrep (s : State) (sc : Scope) (fence : Bool) : State × Bool :=
  let s := if fence && scopeWide sc then s.drainCluster (clusterOf s.cur.1) else s.releaseDrain s.cur.1 sc
  let serial := (s.myAct.map (·.serial)).getD 0
  let posted := (s.myAct.map (·.posted)).getD []
  (s, s.heldOf s.cur.1 s.cur.2 serial (fence && (sc == .pkg || sc == .pod)) ||
    (sc == .pod && (!posted.isEmpty || s.remoteOut.any (fun b => s.strongOwn b.who))))

/-- R249, R253, R255: the release of the issuing slot at a scope, then f: the instruction waits for earlier stores and issues again,
or takes the fault that waits for it. -/
def State.withRelease (s : State) (sc : Scope) (fence : Bool) (f : State → State) : State :=
  if sc = .none then f s
  else
    let (s, busy) := s.releasePrep sc fence
    if busy then s.waitHome
    else match s.myAct.bind Activation.pendingFault with
      | some e => (s.modMyAct Activation.takeFault).abortMe e
      | none => f s

/-- R260, R265: the release of an access that is one only if it writes: some: whether it would write now; none: its home decides
later, and raises the fault that waits then. -/
def State.releaseIf (s : State) (o : Order) (writes : State → Option Bool) (f : State → State) : State :=
  if !o.rel then f s
  else match writes s with
    | some false => f s
    | some true => s.withRelease o.scope false f
    | none => let (t, busy) := s.releasePrep o.scope false; if busy then t.waitHome else f t

/-- R250: the scope of the acquire that an instruction makes. -/
def acqScope (o : Order) : Scope := if o.acq then o.scope else .none

/-- The atoms of this package's memory that n bytes at each address touch. -/
def State.atomsOf (s : State) (n : Nat) (as : List Word) : List Nat :=
  (as.filterMap (fun a =>
    match s.translate s.cur.1 s.me.asid.toNat a .read with
    | .ok p => if p.host || p.window || paPkg p.pa != Config.pkg then none
        else some ((List.range ((p.pa + n - 1) / 32 + 1 - p.pa / 32)).map (fun i => p.pa / 32 + i))
    | .error _ => none)).flatten.dedup

/-- R253, R250: the acquire of a load with ACQ that has read n bytes at each of the addresses. -/
def State.acquireOrd (s : State) (o : Order) (sp : Space) (n : Nat) (as : List Word) : State :=
  if !o.acq then s
  else
    let atoms := match sp with | .loc => [] | .glob => s.atomsOf n as
    (atoms.foldl (fun s a => s.scopeMissAt s.cur.1 (a * 32)) s).acquire s.cur.1 o.scope

/-- R233, R239: a load may have filled a TLB and cache-role lines (relaxed running, log 10). -/
def State.touch (s : State) (sp : Space) (a : Word) (n : Nat) : State :=
  match sp with
  | .loc => s
  | .glob =>
    if !s.relaxed then s
    else match s.pagesOf s.cur.1 s.me.asid.toNat a n .read with
      | .ok ps => (s.cacheFill s.cur.1 s.me.asid.toNat ps).walkDues s.cur.1 s.me.asid.toNat (ps.map (·.2.1))
      | .error _ => s

/-! Vector accesses. -/

/-- What a run over lanes has come to: the next lane, the values so far, the state, and the fault that stopped it. -/
structure LaneRun where
  next : Nat
  vals : Vec
  st : State
  fault : Option AccFault

/-- R171: one lane after another while none has faulted. -/
def runLanes (f : State → Nat → Except AccFault (Nat × State)) (w : Nat) : List Nat → LaneRun → LaneRun
  | [], r => r
  | i :: t, r =>
    match f r.st i with
    | .error e => { r with next := i, fault := some e }
    | .ok (v, s) =>
      runLanes f w t { next := i + 1, vals := r.vals ||| BitVec.ofNat 512 (v % 2 ^ w * 2 ^ (w * i)), st := s, fault := none }

/-- R171: the active lanes from the one a resumable fault stopped at, in increasing order. -/
def State.laneAccess (s : State) (w n : Nat) (mask : Word) (f : State → Nat → Except AccFault (Nat × State)) : LaneRun :=
  let a := s.myAct
  let start := (a.map (·.lanesDone)).getD 0
  let vals := (a.map (·.lanesVal)).getD 0
  runLanes f w ((List.range n).filter (fun i => decide (start ≤ i) && mask.getLsbD i)) ⟨start, vals, s, none⟩

/-- R171, R108: the run ends: its fault is taken, the lanes done and the entries popped kept for the restart; or f goes on. -/
def LaneRun.finish (r : LaneRun) (popped : List Vec) (f : State → Vec → State) : State :=
  match r.fault with
  | some e =>
    (r.st.modMyAct (fun a => { a with lanesDone := r.next, lanesVal := r.vals, popped := popped })).takeAcc e
  | none => f (r.st.modMyAct (fun a => { a with lanesDone := 0, lanesVal := 0 })) r.vals

/-- R171: lane i of a vector load. -/
def loadLane (sp : Space) (n : Nat) (at' : Nat → Word) (s : State) (i : Nat) : Except AccFault (Nat × State) :=
  match s.readMem sp (at' i) n with
  | .error e => .error e
  | .ok bs => .ok (wordOfBytes bs, s.touch sp (at' i) n)

/-- R171: lane i of a vector store. -/
def storeLane (sp : Space) (rel : Scope) (n : Nat) (at' : Nat → Word) (data : Vec) (s : State) (i : Nat) : Except AccFault (Nat × State) :=
  match s.writeMem sp (at' i) rel (bytesOf n (laneOf (8 * n) data i)) with
  | .error e => .error e
  | .ok s => .ok (0, s)

/-- R171, R241, R245: a global store of a whole aligned vector: each of its atoms is one access. -/
def State.alignedStore (s : State) (rel : Scope) (n lanes : Nat) (a : Word) (data : Vec) (mask : Word) : LaneRun :=
  let active := (List.range lanes).filter (fun i => mask.getLsbD i)
  match active with
  | [] => ⟨0, 0, s, none⟩
  | i :: _ =>
    let va := a + BitVec.ofNat 64 (i * n)
    let bs := active.flatMap (fun i => placed (i * n) (bytesOf n (laneOf (8 * n) data i)))
    if s.strongWaits va n .write then ⟨i, 0, s, some .busy⟩
    else match s.writeAligned (s.who va rel) s.isSystem n bs with
      | .error e => ⟨i, 0, s, some e⟩
      | .ok s => ⟨lanes, 0, s, none⟩

/-- R171: Ix(i): lane i of the indices at the width of their type. -/
def indexLane (it : Ty) (v : Vec) (i : Nat) : Word := BitVec.ofInt 64 (tyInt it (laneOf it.width v i))

/-! Atomics at the home. -/

/-- R258: the size check of a single location. -/
def aligned (a : Word) (n : Nat) : Bool := a.toNat % n == 0

/-- R259: n bytes read and written as one action at a local bank. -/
def State.atomicL (s : State) (a : Word) (n : Nat) (op : RmwOp) : Except AccFault AtomOut :=
  match s.readL s.cur.1 (localOff a) n with
  | .error e => .error e
  | .ok bs =>
    let old := wordOfBytes bs
    let r := op.eval old
    match r.1 with
    | none => .ok (.done s old false r.2)
    | some v => (s.writeL s.cur.1 (localOff a) (bytesOf n v)).map (fun s => .done s old true r.2)

/-- R258: an atomic of the issuing slot in either space; ret: it returns a value; rel: the scope of its release; r: its answer, where
it is held at its home. -/
def State.atomicMe (s : State) (sp : Space) (a : Word) (n : Nat) (ret : Bool) (rel : Scope) (op : RmwOp) (r : Reply) :
    Except AccFault AtomOut :=
  if !aligned a n then .error (misaligned sp a)
  else match sp with
    | .loc => s.atomicL a n op
    | .glob => if s.strongWaits a n .atomic then .error .busy else s.atomicG (s.who a rel) ret n op r

/-- R92, R261: a late result lands with the flags it sets: at once, or in the relaxed running with its entry (log 10). -/
def State.landWith (s : State) (kind : SbKind) (cls : SbClass) (reg : Nat) (addr : Word) (v : Vec) (f : Flags) : State :=
  s.modMe (fun x =>
    if s.relaxed then
      let (x, id) := x.track kind cls reg addr false (some v)
      { x with sb := x.sb.map (fun e => if e.id = id then { e with flags := f } else e) }
    else { x.landValue cls reg v with flags := x.flags ||| f })

/-- R262: a lane of the issuing slot's VAMOF with an acquire is held at its home. -/
def State.lanesHeld (s : State) : Bool :=
  s.heldStores.any (fun h => h.who.core == s.cur.1 && h.who.slot == s.cur.2 && h.who.serial == ((s.myAct.map (·.serial)).getD 0) &&
    !h.reply.entry && h.reply.acq != .none)

/-- R97: an access that its home answers later has issued: its pointer moves on, and the slot waits for the entry of an acquire. -/
def State.issued (s : State) (m : AMode) (wait : Option Nat) : State :=
  let s := (s.modMe (fun x => x.bump m)).complete
  match wait with
  | some id => s.modMe (fun x => { x with wait := .future id })
  | none => s

end Sys2Proof.Machine
end

