-- ==== Sys2Proof/Machine/TileBase.lean ====
section
/-! DEFINITION. Tile handles (R272), lock-manager entries (R271, R276), tile descriptors (R273, R274), and the bytes of a tile
in packed order. -/
namespace Sys2Proof.Machine

/-! Handles (R272). -/

/-- R272: the fields of a handle. -/
def handleGen (h : Nat) : Nat := bits h 63 52
def handlePkg (h : Nat) : Nat := bits h 51 42
def handleLmi (h : Nat) : Nat := bits h 41 33
def handleEntry (h : Nat) : Nat := bits h 32 19

/-- The key of a lock-manager entry in State.tiles. -/
def tileKey (h : Nat) : Nat := handleLmi h * 16384 + handleEntry h

/-- R272: the handle of an entry of this package. -/
def mkHandle (gen key : Nat) : Nat := gen * 2 ^ 52 + Config.pkg * 2 ^ 42 + key / 16384 * 2 ^ 33 + key % 16384 * 2 ^ 19

/-- An entry of a lock manager. -/
def State.tileAt (s : State) (key : Nat) : Tile := smGet (fun _ => {}) s.tiles key

/-- An entry changed. -/
def State.setTile (s : State) (key : Nat) (t : Tile) : State := { s with tiles := smSet (fun _ => {}) s.tiles key t }

/-- The handle of an entry as it stands. -/
def State.handleOf (s : State) (key : Nat) : Nat := mkHandle (s.tileAt key).gen key

/-- R276: a handle of this package is stale. -/
def State.stale (s : State) (h : Nat) : Bool :=
  let t := s.tileAt (tileKey h)
  t.state == .free || t.gen != handleGen h

/-- R272: the generation after one. -/
def nextGen (g : Nat) : Nat := if g = 4095 then 1 else g + 1

/-- R280, R292: an entry freed. -/
def State.freeTile (s : State) (key : Nat) : State := s.setTile key { gen := nextGen (s.tileAt key).gen }

/-! Descriptors (R273, R274). -/

/-- R273: the fields of a tile descriptor of 64 bytes. -/
def parseTile (bs : List Byte) : TileDesc where
  base := wordOfBytes (bs.take 8)
  esz := (bs.getD 8 0).toNat
  rank := (bs.getD 9 0).toNat
  domain := (bs.getD 10 0).toNat
  state := (bs.getD 11 0).toNat
  dims := (List.range 4).map (fun k => wordOfBytes ((bs.drop (16 + 2 * k)).take 2))
  strides := (List.range 4).map (fun k => wordOfBytes ((bs.drop (24 + 8 * k)).take 8))

/-- R274: the strides nest: each is at least what the dimension below it spans. -/
def nested : Nat → List (Nat × Nat) → Bool
  | _, [] => true
  | least, (d, st) :: t => decide (least ≤ st) && nested (st * d) t

/-- R273, R274: a valid, legal descriptor. -/
def tileOk (bs : List Byte) : Bool :=
  let d := parseTile bs
  let used := (d.dims.zip d.strides).take d.rank
  let rest := (d.dims.zip d.strides).drop d.rank
  ((bs.drop 12).take 4).all (· == 0) && ((bs.drop 56).take 8).all (· == 0) &&
  decide (d.esz ≤ 3) && decide (1 ≤ d.rank) && decide (d.rank ≤ 4) && decide (d.domain ≤ 1) && decide (d.state ≤ 1) &&
  used.all (fun x => decide (1 ≤ x.1) && x.2 % 2 ^ d.esz == 0) && rest.all (fun x => x.1 == 0 && x.2 == 0) &&
  d.base % 2 ^ d.esz == 0 && nested (2 ^ d.esz) used && decide (tileBytes d ≤ 262144) &&
  d.base / 2 ^ 29 == extentLast d / 2 ^ 29

/-- R274: the offset from BASE of the element at a place in packed order. -/
def elemOff : List (Nat × Nat) → Nat → Nat
  | [], _ => 0
  | (d, st) :: t, k => k % d * st + elemOff t (k / d)

/-- R274: the virtual addresses of the elements in packed order. -/
def elemAddrs (d : TileDesc) : List Word :=
  let used := (d.dims.zip d.strides).take d.rank
  (List.range (tileBytes d / 2 ^ d.esz)).map (fun k => BitVec.ofNat 64 (d.base + elemOff used k))

/-! Related handles (R278). -/

/-- R278: the keys of a tile and its ancestors, as far as the depth goes. -/
def State.ancestors (s : State) : Nat → Nat → List Nat
  | 0, key => [key]
  | n + 1, key =>
    let t := s.tileAt key
    if t.parent = 0 then [key] else key :: s.ancestors n (tileKey t.parent.toNat)

/-- R278: two entries are related. -/
def State.related (s : State) (a b : Nat) : Bool := (s.ancestors 3 a).contains b || (s.ancestors 3 b).contains a

/-- R277: two extents intersect. -/
def extentsMeet (a b : TileDesc) : Bool := decide (a.base ≤ extentLast b) && decide (b.base ≤ extentLast a)

/-- R277: a tile of an ASID would overlap a tile whose handle is not stale, its own entries apart; two FROZEN tiles may. -/
def State.overlaps (s : State) (d : TileDesc) (asid : Nat) (frozen : Bool) (not : Nat → Bool) : Bool :=
  s.tiles.any (fun e => !not e.1 && e.2.state != .free && e.2.asid == asid && extentsMeet d e.2.desc &&
    !(frozen && e.2.state == .frozen))

/-! Transaction descriptors (R297). -/

/-- R297: a tile entry. -/
structure TxnEntry where
  handle : Nat := 0
  ver : BitVec 32 := 0
  w : Bool := false
  chk : Bool := false
  deriving DecidableEq, Repr

/-- R297: the fields of a transaction descriptor; tiles has NTILE entries. -/
structure TxnDesc where
  hid : Nat
  place : Nat
  pod : Bool
  queue : Nat
  prio : Nat
  core : Nat
  sig : Word
  args : List Byte
  tiles : List TxnEntry
  deriving DecidableEq, Repr

/-- R297: an integer field of a descriptor. -/
def fieldOf (bs : List Byte) (o n : Nat) : Nat := wordOfBytes ((bs.drop o).take n)

/-- R297: tile entry k. -/
def txnEntry (bs : List Byte) (k : Nat) : TxnEntry where
  handle := fieldOf bs (96 + 16 * k) 8
  ver := BitVec.ofNat 32 (fieldOf bs (104 + 16 * k) 4)
  w := fieldOf bs (108 + 16 * k) 1 % 2 == 1
  chk := fieldOf bs (108 + 16 * k) 1 / 2 % 2 == 1

/-- R297: a descriptor of 384 bytes. -/
def parseTxn (bs : List Byte) : TxnDesc where
  hid := fieldOf bs 0 1
  place := fieldOf bs 2 1 % 4
  pod := fieldOf bs 2 1 / 4 % 2 == 1
  queue := fieldOf bs 3 1 % 8
  prio := fieldOf bs 4 1 % 32
  core := fieldOf bs 8 4 % 4096
  sig := BitVec.ofNat 64 (fieldOf bs 16 8)
  args := (bs.drop 32).take 64
  tiles := (List.range (Nat.min (fieldOf bs 1 1) 16)).map (txnEntry bs)

/-- R297, R306: reserved fields are zero and every field is in range. -/
def txnOk (bs : List Byte) : Bool :=
  let n := fieldOf bs
  decide (16 ≤ n 0 1) && decide (n 1 1 ≤ 16) && decide (n 2 1 < 8) && decide (1 ≤ n 3 1) && decide (n 3 1 ≤ 7) &&
  decide (n 4 1 < 32) && n 5 3 == 0 && decide (n 8 4 < 4096) && (n 2 1 % 4 != 3 || n 8 4 == 0) && n 12 4 == 0 &&
  n 16 8 % 8 == 0 && n 24 8 == 0 && n 352 32 == 0 &&
  (List.range 16).all (fun k =>
    if k < n 1 1 then decide (n (108 + 16 * k) 1 < 4) && n (109 + 16 * k) 3 == 0 else n (96 + 16 * k) 16 == 0)

/-- R299: a global number, and its parts. -/
def txnNumber (pod : Bool) (round idx : Nat) : Nat := pod.toNat * 2 ^ 62 + round % 2 ^ 40 * 2 ^ 22 + Config.pkg * 2 ^ 12 + idx
def numPod (num : Nat) : Bool := num / 2 ^ 62 % 2 == 1
def numRound (num : Nat) : Nat := bits num 61 22
def numPkg (num : Nat) : Nat := bits num 21 12

/-- R299: the order of numbers, and of two numbers of one domain. -/
def numKey (num : Nat) : Nat := num % 2 ^ 62
def numBefore (a b : Nat) : Bool := numPod a == numPod b && decide (numKey a < numKey b)

/-- A numbered transaction of this package. -/
def State.txnOf (s : State) (num : Nat) : Option Txn := smGet (fun _ => none) s.txns num

/-- A transaction set. -/
def State.setTxn (s : State) (num : Nat) (t : Option Txn) : State := { s with txns := smSet (fun _ => none) s.txns num t }

end Sys2Proof.Machine
end

