-- ==== Sys2Proof/Machine/Engine.lean ====
section
/-! DEFINITION. What the engine commands share (R46, R94 to R96, R172, R180 to R184): issue into a queue, the start of the
head command, its translation faults, and its completion. -/
namespace Sys2Proof.Machine

/-! Issue. -/

/-- A command with its captured scalar operands. -/
def mkCmd (i : Instr) (ops : List Word) : EngCmd where
  instr := i
  slot := 0
  serial := 0
  asid := 0
  system := false
  pc := 0
  ops := ops

/-- R46, R97: the producer that a pending guard is bound to, and the value under which the command acts. -/
def Slot.guardOfCmd (x : Slot) (g : Guard) : Option (Nat × Bool) :=
  if g.p = 0 then none
  else (x.sb.find? (fun e => e.cls == .pred && e.reg == g.p.val)).map (fun e => (e.id, !g.neg))

/-- R94, R96, R172, R180: the issuing slot's command enters the queue of an engine with its token, its pending guard and the
registers it will write, which are leased from now on, or once a pending guard acts. late: what it does at issue waits for its
guard. -/
def State.enqueue (s : State) (e : Engine) (g : Guard) (tok : Tok) (dests : List Nat) (cmd : EngCmd) : State :=
  let x := s.me
  let gd := x.guardOfCmd g
  let (x, ds) := dests.foldl (fun (a : Slot × List Nat) r =>
    let (y, id) := a.1.track .arith .vector r 0 gd.isNone none
    (y, a.2 ++ [id])) (x, [])
  let (x, t) := match tok with
    | none => (x, none)
    | some r => let (y, id) := x.track .token .scalar r.val 0 false none; (y, some id)
  let cmd := { cmd with
    slot := s.cur.2, serial := (s.myAct.map (·.serial)).getD 0, asid := x.asid, system := s.isSystem, pc := x.pc,
    guard := gd, tok := t, dests := ds, ord := s.serial + 1, late := cmd.late && gd.isSome, issued := s.order
    joined := s.joinedOf s.cur.1 s.cur.2 }
  let s := { s with serial := s.serial + 1 }
  let note : CmdNote := ⟨cmd.ord, tok.map (·.val), e == .matrix⟩
  ((s.modMe (fun _ => x)).modMyAct (fun a => { a with cmds := a.cmds ++ [note] })).modMyCore (fun k => k.modEng e (fun q => { q with q := q.q ++ [cmd] }))

/-- R46: the guard of the issuing command is pending. -/
def State.guardPends (s : State) (g : Guard) : Bool := s.me.pending .pred g.p.val

/-- R46: an engine command under its guard: queued while the guard is pending or acts; else its token reads 0. -/
def engineOp (g : Guard) (tok : Tok) (f : State → State) (s : State) : Out :=
  if s.guardPends g then .next (f s) else guardedTok g tok f s

/-- R175, R331: a descriptor of n bytes read at issue, aligned to 64. -/
def State.readDesc (s : State) (sp : Space) (a : Word) (n : Nat) : Except AccFault (List Byte) :=
  if a.toNat % 64 ≠ 0 then .error (misaligned sp a) else s.readMem sp a n

/-! Execution. -/

/-- What a command comes to when the engine executes it: done, with its status, flags, results and the address its status is about;
ended with neither a release nor a wait (R176); a translation fault, with the row and whether it was a write; or the wait for a line
the host holds. -/
inductive EngOut where
  | done (s : State) (status : Nat) (flags : Flags) (results : List Vec) (addr : Word)
  | early (s : State) (status : Nat) (addr : Word)
  | fault (s : State) (va : Word) (row : Nat) (write : Bool)
  | line (n : Nat) (inv : Bool)
  /-- R333: the command does not start yet -/
  | wait

/-- R177, R362: the address that an access's fault is about. -/
def AccFault.addr : AccFault → Word
  | .trans va => va
  | .abort _ a => a
  | .line _ _ | .busy => 0

/-- R177, R184: the status code of an access that cannot be performed. -/
def abortCode (cause : Nat) : Nat :=
  match cause with
  | 0x06 => 2
  | 0x09 => 4
  | 0x0A => 5
  | _ => 1

/-- R170, R363: the issuing activation is still running. -/
def State.cmdLive (s : State) (c : Nat) (h : EngCmd) : Bool :=
  let x := s.slotOf c h.slot
  (match x.act with | some a => a.serial == h.serial | none => false) && (x.mode == .running || x.mode == .faultService)

/-- R367: the record of a command that faulted without a stopped slot. -/
def State.engRec (s : State) (c : Nat) (h : EngCmd) (cause : Nat) (va : Word) : FaultRec where
  cause := causeWord true h.slot true ⟨cause, va, 0, 0⟩
  addr := va
  pc := h.pc
  msg := if s.cmdLive c h then msgWord (s.slotOf c h.slot).act else 0

/-- The queue of an engine of a core changed. -/
def State.modEng (s : State) (c : Nat) (e : Engine) (f : EngineQ → EngineQ) : State := s.modCore c (fun k => k.modEng e f)

/-- R177, R183, R367: the engine holds its head command and fault service gets the fault without a stopped slot. An MXLDV holds
its row progress, and its fault is raised by MXLDV_ROW_FAULT (R190). -/
def State.engFault (s : State) (c : Nat) (e : Engine) (h : EngCmd) (va : Word) (row : Nat) (write : Bool) : State :=
  let ldv := match h.instr with | .mxldv _ _ _ _ _ _ _ => true | _ => false
  let f : EngFault := { addr := va, row := row, write := write, cycle := s.cycle, since := s.wall, raised := if ldv then 0 else 2 }
  let s := s.modEng c e (fun q => { q with
    fault := some f, frec := s.engRec c h (if ldv then 0x11 else 0x10) va
    q := match q.q with | [] => [] | x :: t => { x with blk := if ldv then row else x.blk } :: t })
  if ldv then
    (s.modCore c (fun k => { k with rowProg := { k.rowProg with held := true, rows := row } })).due (.mxldvRowFault c)
  else s.modCore c (fun k => { k with work := k.work ++ [.engService e] })

/-- The REL of a command. -/
def cmdOrder : Instr → Order
  | .mxld _ _ _ _ _ o | .mxldv _ _ _ _ _ _ o | .mxmma _ _ _ _ _ _ _ _ o | .mxst _ _ _ _ _ _ _ _ _ o
  | .mxattn _ _ _ _ _ _ o | .mxafin _ _ _ _ o | .cpy _ _ _ _ _ _ o | .cpy2d _ _ _ _ _ o | .cpyt _ _ _ _ _ o
  | .rsend _ _ _ _ _ _ _ o => o
  | _ => Order.zero

/-- R172, R182, R254: the acquire of a command, before its first read. -/
def State.cmdAcq (s : State) (c : Nat) (h : EngCmd) : State :=
  let o := cmdOrder h.instr
  if o.acq then s.acquire c o.scope else s

/-- R249, R254: at the release of a command the cluster's buffer drains. -/
def State.cmdRel (s : State) (c : Nat) (h : EngCmd) : State :=
  let o := cmdOrder h.instr
  if o.rel then s.releaseDrain c o.scope else s

/-- R172, R182, R241: a command as a writer; its release is made by its stores as they are performed (R253). -/
def EngCmd.who (h : EngCmd) (c : Nat) (va : Word) : Who :=
  let o := cmdOrder h.instr
  { core := c, slot := h.slot, serial := h.serial, va := va, ord := h.ord, asid := h.asid.toNat, rel := if o.rel then o.scope else .none }

/-- R337: the accessor that an engine of a core is. -/
def engSlot : Engine → Nat
  | .matrix => 5
  | .copy => 6

/-- R337: the accesses of an accessor that a response has let go on have been made. -/
def State.dropPass (s : State) (w : Nat × Nat) : State :=
  if s.linePass.isEmpty then s else { s with linePass := s.linePass.filter (fun e => e.who != w) }

/-- R46, R164, R180: the head command of an engine that may start now: the engine is idle and not held by a fault, the guard has acted,
and no change of bank roles that was asked for before it is still to come. -/
def State.startable (s : State) (c : Nat) (e : Engine) : Option EngCmd :=
  let k := s.coreOf c
  let q := k.eng e
  match q.q with
  | [] => none
  | h :: _ =>
    if q.running.isSome || q.fault.isSome || h.guard.isSome ||
      (match k.rolePend with | some p => decide (p.2.1 < h.ord) | none => false) then none
    else some h

/-- R172, R182: the head command of an engine starts and has its effect; it completes by COMMAND_COMPLETION. One that still waits for
what its slot gives it (R46) does not start. -/
def State.startHead (s : State) (c : Nat) (e : Engine) (run : State → EngCmd → EngOut) : State :=
  match s.startable c e with
  | none => s
  | some h =>
    if h.late then s
    else
      let me := (c, engSlot e)
      let s1 := { s.modEng c e (fun q => { q with running := some { status := 0 } }) with cur := me }
      let fin := fun (t : State) => { t.dropPass me with cur := s.cur }
      let ends := fun (t : State) (f : EngRun → EngRun) => t.modEng c e (fun q => { q with running := q.running.map f })
      match run s1 h with
      | .done t st fl rs a =>
        fin (ends (t.cmdRel c h) (fun r => { r with
          status := if st = 0 then r.status else st, addr := if st = 0 then r.addr else a
          flags := fl, results := rs, waitHeld := (cmdOrder h.instr).rel }))
      | .early t st a => fin (ends t (fun r => { r with status := st, addr := a }))
      | .fault t va row write => (fin (t.modEng c e (fun q => { q with running := none }))).engFault c e h va row write
      | .wait => s
      | .line n inv => if s.bisnp.contains n then s else { s.out (.biSnp n inv) with bisnp := s.bisnp ++ [n] }

/-- R46: the head command of an engine gets what its slot gives it as it starts, by f: none while it has to wait. -/
def State.lateHead (s : State) (c : Nat) (e : Engine) (f : State → EngCmd → State × EngCmd) : State :=
  match s.startable c e with
  | none => s
  | some h =>
    if !h.late || !s.cmdLive c h || (s.slotOf c h.slot).mode == .faultService then s
    else
      let r := f s h
      r.1.modEng c e (fun q => { q with q := match q.q with | [] => [] | x :: t => if x.ord = h.ord then r.2 :: t else x :: t })

/-- R249, R254, R255, R286: the release of a command still waits for a store of its own that is held, or for an earlier store of its
activation that is held or not acknowledged. -/
def State.relWaits (s : State) (c : Nat) (h : EngCmd) : Bool :=
  let x := s.slotOf c h.slot
  s.heldStores.any (fun w => w.who.core == c && w.who.slot == h.slot && w.who.serial == h.serial &&
    (w.who.ord == h.ord || (!w.who.loose && decide (w.who.num < h.issued) && !(s.coreOf c).inQueue w.who.ord &&
      (w.who.ord == 0 || h.joined.contains w.who.ord)))) ||
  ((cmdOrder h.instr).scope == .pod &&
    (match x.act with | some a => a.serial == h.serial && a.posted.any (fun p => decide (p.1 < h.issued)) | none => false))

/-- The atoms of this package's memory in n bytes from a global address, as an engine of core c reaches them. -/
def State.spanAtoms (s : State) (c asid : Nat) (a : Word) (n : Nat) : List Nat :=
  ((pageChunks a n).filterMap (fun x =>
    match s.translate c asid x.1 .read with
    | .ok p => if p.host || p.window || paPkg p.pa != Config.pkg then none
        else some ((List.range ((p.pa + x.2 - 1) / 32 + 1 - p.pa / 32)).map (fun i => p.pa / 32 + i))
    | .error _ => none)).flatten

/-- R233, R253: what a command that has read n global bytes leaves: walks of its pages, and its acquire's look at the atoms. -/
def State.acqSpan (s : State) (c : Nat) (h : EngCmd) (glob : Bool) (a : Word) (n : Nat) : State :=
  let s := if glob then s.walkDues c h.asid.toNat ((pageChunks a n).map (·.1)) else s
  if (cmdOrder h.instr).acq && glob then
    (s.spanAtoms c h.asid.toNat a n).foldl (fun s x => s.scopeMissAt c (x * 32)) s
  else s

/-- R332: what the wait for a block's acknowledgement has come to: none while it lasts, or the status. -/
def State.ackStatus (s : State) (ring blk : Nat) : Option Nat :=
  match smGet (fun _ => none) s.rings ring with
  | none => some 7
  | some r =>
    match r.acks.find? (fun a => a.1 == blk) with
    | some a => some (if a.2 then 0 else 7)
    | none => if r.lost then some 5 else none

/-- R332: an acknowledgement that has been used. -/
def State.dropAck (s : State) (ring blk : Nat) : State :=
  match smGet (fun _ => none) s.rings ring with
  | none => s
  | some r => { s with rings := smSet (fun _ => none) s.rings ring (some { r with acks := r.acks.filter (fun a => a.1 != blk) }) }

/-- R326: the releases that are due in block order: each block skipped, or freed by every landing core and not being forwarded. -/
def Ring.releases (r : Ring) : Nat → Ring × Nat
  | 0 => (r, 0)
  | fuel + 1 =>
    let b := r.inNext
    let ready := r.skipped.contains b || r.lands.all (fun l => r.freed.contains (b, l.1))
    if ready && !r.forwarding.contains b then
      let r := { r with
        inNext := b + 1, skipped := r.skipped.filter (· != b), freed := r.freed.filter (fun f => f.1 != b) }
      let (r, n) := r.releases fuel
      (r, n + 1)
    else (r, 0)

/-- R326: a ring changed, and the releases that this makes due sent to the predecessor. -/
def State.modRing (s : State) (ring : Nat) (f : Ring → Ring) : State :=
  match smGet (fun _ => none) s.rings ring with
  | none => s
  | some r =>
    let (r, n) := (f r).releases 17
    let s := { s with rings := smSet (fun _ => none) s.rings ring (some r) }
    { s with outbox := s.outbox ++ List.replicate n (.ringRelease ring) }

/-- R326, R332: an RFWD has ended: its incoming block may be released. -/
def State.endForward (s : State) (h : EngCmd) : State :=
  match h.instr with
  | .rfwd _ _ _ ring _ =>
    if h.pre.isSome then s else s.modRing ring.val (fun r => { r with forwarding := r.forwarding.erase (h.ops.getD 1 0).toNat })
  | _ => s

/-! Completion. -/

/-- R93, R364: entries whose producer has given them a result land in a slot, or in the record of a stopped one. -/
def State.landIds (s : State) (c i : Nat) (ids : List Nat) : State :=
  s.modSlot c i (fun x =>
    match x.mode with
    | .running | .draining => ids.foldl (fun x id => x.landEntry id) x
    | .faultService => ids.foldl (fun x id => x.markDone id) x
    | .free => x)

/-- R94: the unit of a command. -/
def cmdUnit : Instr → Nat
  | .cpy _ _ _ _ _ _ _ | .cpy2d _ _ _ _ _ _ | .cpyt _ _ _ _ _ _ => 1
  | .ringcfg _ _ _ _ _ | .ringcfgOff _ _ _ | .rsend _ _ _ _ _ _ _ _ | .rfwd _ _ _ _ _ | .rfree _ _ _ _ => 2
  | _ => 0

/-- R113, R364: the FLAGS bits that a command of a slot sets; an MTSR to FLAGS in the same clock does not clear them. -/
def Slot.engFlagged (x : Slot) (f : Flags) : Slot :=
  let y := x.lateFlags f
  if x.mode = .faultService then y else { y with engFlags := y.engFlags ||| f }

/-- R96: registers that a command will not write: their entries end. -/
def Slot.dropDests (x : Slot) (ids : List Nat) : Slot :=
  { x with
    sb := x.sb.filter (fun b => !ids.contains b.id), sbWait := x.sbWait.filter (fun i => !ids.contains i)
    frec := { x.frec with saved := x.frec.saved.filter (fun b => !ids.contains b.id) } }

/-- R94, R95, R96, R113: what a completed command gives its running activation: flags, registers and token in one clock, or an
error that waits and no change to a register. -/
def State.giveCmd (s : State) (c : Nat) (h : EngCmd) (r : EngRun) : State :=
  let unit := cmdUnit h.instr
  let e : Engine := if unit = 0 then .matrix else .copy
  let s := s.modSlot c h.slot (fun x =>
    let x := if r.status = 0 then (h.dests.zip r.results).foldl (fun (x : Slot) d => x.giveValue d.1 d.2) (x.engFlagged r.flags)
      else x.dropDests h.dests
    match h.tok with
    | some id => x.giveValue id (vecW (statusWord unit r.status))
    | none =>
      if r.status = 0 then x
      else { x with act := x.act.map (fun a => { a with errs := a.errs ++ [CmdError.mk e unit r.status h.pc r.addr] }) })
  s.landIds c h.slot (h.dests ++ (match h.tok with | some id => [id] | none => []))

/-- R370, R78: the command of an activation that has ended: its leases end, its status and flags are dropped or reported. -/
def State.dropCmd (s : State) (c : Nat) (h : EngCmd) (r : EngRun) : State :=
  let s := s.modSlot c h.slot (fun x => x.dropDests h.dests)
  let s := if h.tok.isNone && r.status != 0 then s.lateReport c ⟨statusCause r.status, r.addr, cmdUnit h.instr, r.status⟩ h.pc else s
  if r.flags ≠ 0 then s.lateReport c ⟨0, 0, cmdUnit h.instr, 0⟩ h.pc else s

/-- R254: the slot has passed an MXWAIT: the writes of its earlier matrix commands are earlier stores of it. -/
def Activation.joinMatrix (a : Activation) : Activation :=
  { a with joined := a.joined ++ (a.cmds.filter (·.matrix)).map (·.ord), cmds := a.cmds.filter (fun n => !n.matrix) }

/-- R200, R95, R254: the MXWAIT of a running slot ends; an error of an earlier command is raised there. -/
def State.endMxwait (s : State) (c : Nat) (h : EngCmd) : State :=
  if (s.slotOf c h.slot).wait ≠ .mx then s
  else
    let s := { s.modSlot c h.slot (fun x => { x with wait := .none, act := x.act.map Activation.joinMatrix }) with cur := (c, h.slot) }
    match s.cmdError (fun u => u == 0) with
    | some e => s.abortCmd e
    | none => s

/-! Guards that resolve (R46, R97). -/

/-- R46: what a memory access of a command under a pending guard has met, for its slot to take once the guard acts. -/
def AccFault.late : AccFault → Option (Bool × Nat × Word)
  | .trans va => some (true, 0x10, va)
  | .abort cause a => some (false, cause, a)
  | .line _ _ | .busy => none

/-- R364: a slot that stands between two issue units, or waits for its next one to issue. -/
def Slot.between (x : Slot) : Bool :=
  x.mode == .running && (match x.wait with
    | .none | .mem _ _ _ _ _ _ _ _ _ | .clk _ _ | .line _ | .home => true
    | .bar _ _ | .mx | .future _ | .tile _ _ _ | .tileGot _ _ _ | .role | .lanes => false)

/-- R46: the fault of a command whose guard has acted is taken by its slot: an aborting one at the command, a translation fault before the
slot's next issue unit; the command asks again after RESUME. -/
def State.takeLate (s : State) (c : Nat) (h : EngCmd) (f : Bool × Nat × Word) : State × EngCmd :=
  if f.1 && h.slot != 4 then
    if (s.slotOf c h.slot).between then
      (s.stop c h.slot ⟨f.2.1, f.2.2, 0, 0⟩ h.pc (s.slotOf c h.slot).pc, { h with lateFault := none })
    else (s, { h with lateFault := some f })
  else (s.abort c h.slot ⟨if f.1 then 0x0F else f.2.1, f.2.2, 0, 0⟩ h.pc false, h)

/-- R175, R331, R46: the descriptor of a command under a guard that has acted, where its read at issue met a fault: the slot takes it,
and reads again after RESUME. -/
def State.lateRead (s : State) (c : Nat) (h : EngCmd) (sp : Space) (n : Nat) : State × EngCmd :=
  match h.lateFault with
  | some f => s.takeLate c h f
  | none =>
    let r := { s with cur := (c, h.slot) }.readDesc sp (h.ops.getD 0 0) n
    match r with
    | .ok bs => (s, { h with data := bs, late := false })
    | .error (.line l inv) => (s.askHost l inv, h)
    | .error e => (match e.late with | some f => s.takeLate c h f | none => (s, h))

/-- R46: a discarded command: its token reads 0, the wait of its MXWAIT ends and no fault is raised there. -/
def State.discardCmd (s : State) (c : Nat) (h : EngCmd) : State :=
  if s.cmdLive c h then
    let s := s.modSlot c h.slot (fun x =>
      let x := x.dropDests h.dests
      match h.tok with | some id => x.giveValue id 0 | none => x)
    let s := s.landIds c h.slot (match h.tok with | some id => [id] | none => [])
    let s := match h.num with
      | some id => (s.modSlot c h.slot (fun x => x.dropDests [id]))
      | none => s
    match h.instr with
    | .mxwait _ => s.modSlot c h.slot (fun x => if x.wait = .mx then { x with wait := .none } else x)
    | _ => s
  else s.modSlot c h.slot (fun x => x.dropDests h.dests)

/-- R46, R97: a command is bound to the producer id of an activation of slot i. -/
def EngCmd.boundTo (h : EngCmd) (i serial id : Nat) : Bool :=
  h.slot == i && h.serial == serial && (match h.guard with | some p => p.1 == id | none => false)

/-- R96: the destinations of a command whose guard has acted are leased from now on. -/
def Slot.lease (x : Slot) (ids : List Nat) : Slot := { x with sb := x.sb.map (fun e => if ids.contains e.id then { e with lease := true } else e) }

/-- R46, R97: the commands of the activation of slot i bound to its producer id are executed or discarded by the value it has given. -/
def State.resolveGuard (s : State) (c i id : Nat) (v : Bool) : State :=
  let serial := ((s.slotOf c i).act.map (·.serial)).getD 0
  let bound := fun (h : EngCmd) => h.boundTo i serial id
  let acts := fun (h : EngCmd) => match h.guard with | some p => p.2 == v | none => true
  [Engine.matrix, Engine.copy].foldl (fun s e =>
    let all := ((s.coreOf c).eng e).q
    let s := s.modEng c e (fun q => { q with
      q := (q.q.filter (fun h => !(bound h && !acts h))).map (fun h => if bound h then { h with guard := none } else h) })
    let s := (all.filter (fun h => bound h && acts h)).foldl (fun s h => s.modSlot c i (fun x => x.lease h.dests)) s
    (all.filter (fun h => bound h && !acts h)).foldl (fun s h => s.discardCmd c h) s) s

/-! Restarting a stopped slot (R364, R378). -/

/-- R378, R364: RESUME of a stopped slot: results that landed while it was stopped count from now on, so commands bound to a predicate
among them act or are discarded; an entry that kept a failure raises its fault at its own PC. -/
def State.resumeSlot (s : State) (c i : Nat) : State :=
  let saved := (s.slotOf c i).frec.saved
  let s := s.modSlot c i Slot.settle
  let s := saved.foldl (fun s e =>
    match e.kind, e.value with
    | .pred, some v => s.resolveGuard c i e.id (v.getLsbD 0)
    | _, _ => s) s
  match saved.findSome? (fun e => e.fail.map (fun f => (e, f))) with
  | some (e, cause, addr) => s.abort c i ⟨cause, addr, 0, 0⟩ e.pc false
  | none => s

end Sys2Proof.Machine
end

