-- ==== Sys2Proof/Machine/Copy.lean ====
section
/-! DEFINITION. Meanings: the copy engine's commands (R172 to R177). -/
namespace Sys2Proof.Machine

/-! Issue (R174, R175). -/

/-- R174: CPY. -/
def execCpy (g : Guard) (tok : Tok) (dir : Fin 4) (d a : Sreg) (b : Src) (o : Order) (s : State) : Out :=
  engineOp g tok (fun s =>
    (s.enqueue .copy g tok [] (mkCmd (.cpy g tok dir d a b o) [s.me.s d, s.me.s a, s.me.srcZ b])).complete) s

/-- R175, R331, R46: a command whose descriptor of n bytes is read at issue. Under a pending guard a read that faults raises nothing: the
command keeps the fault, which its slot takes once the guard acts. f: the slot and the command's descriptor and fault. -/
def State.withDesc (s : State) (g : Guard) (sp : Space) (a : Word) (n : Nat)
    (f : State → List Byte → Option (Bool × Nat × Word) → State) : State :=
  match s.readDesc sp a n with
  | .ok bs => f s bs none
  | .error e =>
    match e.late with
    | some l => if s.guardPends g then f s [] (some l) else s.takeAcc e
    | none => s.takeAcc e

/-- R175: CPY2D; its descriptor is read at issue. -/
def execCpy2d (g : Guard) (tok : Tok) (a : Sreg) (imm : BitVec 32) (sp : Space) (o : Order) (s : State) : Out :=
  engineOp g tok (fun s =>
    let at' := s.me.s a + sext32 imm
    s.withDesc g sp at' 64 (fun s bs l =>
      (s.enqueue .copy g tok [] { mkCmd (.cpy2d g tok a imm sp o) [at'] with data := bs, late := l.isSome, lateFault := l }).complete)) s

/-- R174: CPYT. -/
def execCpyt (g : Guard) (tok : Tok) (pack : Bool) (d a : Sreg) (o : Order) (s : State) : Out :=
  engineOp g tok (fun s =>
    (s.enqueue .copy g tok [] (mkCmd (.cpyt g tok pack d a o) [s.me.s d, s.me.s a])).complete) s

/-! Execution (R176). -/

/-- R176: a copy by rows: sides, addresses, row bytes, rows, row distances. -/
structure Copy where
  dglob : Bool
  sglob : Bool
  dst : Word
  src : Word
  rb : Nat
  rows : Nat
  ds : Word
  ss : Word

/-- R176: the addresses of row r as written. -/
def Copy.dstAt (p : Copy) (r : Nat) : Word := p.dst + BitVec.ofNat 64 r * p.ds
def Copy.srcAt (p : Copy) (r : Nat) : Word := p.src + BitVec.ofNat 64 r * p.ss

/-- A row's first address as an integer, without wrapping. -/
def rowStart (a d : Word) (r : Nat) : Int := (a.toNat : Int) + r * d.toInt

/-- R176: a byte of a destination row is a byte of a source row, by the addresses as written; the rows' hulls first. Whether the byte
ranges that intersect are the rows or the hull of each side the rule leaves open (DESIGN CHOICE: row against row, log 61). -/
def Copy.meet (p : Copy) : Bool :=
  let lo := fun (a d : Word) => min (rowStart a d 0) (rowStart a d (p.rows - 1))
  let hi := fun (a d : Word) => max (rowStart a d 0) (rowStart a d (p.rows - 1)) + p.rb
  if p.rb = 0 ∨ p.rows = 0 then false
  else if hi p.dst p.ds ≤ lo p.src p.ss ∨ hi p.src p.ss ≤ lo p.dst p.ds then false
  else (List.range p.rows).any (fun i => (List.range p.rows).any (fun j =>
    decide ((rowStart p.dst p.ds i - rowStart p.src p.ss j).natAbs < p.rb)))

/-- R175: the copy a descriptor describes; none when a field is out of range. -/
def copyOfDesc (bs : List Byte) : Option Copy :=
  let n := fun (at' k : Nat) => wordOfBytes ((bs.drop at').take k)
  let sp := n 40 1
  if (bs.drop 41).any (· != 0) || decide (4 ≤ sp) || decide (2 ^ 24 < n 16 4) || decide (2 ^ 20 < n 20 4) then none
  else some {
    dglob := sp / 2 % 2 == 1
    sglob := sp % 2 == 1
    dst := BitVec.ofNat 64 (n 0 8)
    src := BitVec.ofNat 64 (n 8 8)
    rb := n 16 4
    rows := n 20 4
    ds := BitVec.ofNat 64 (n 24 8)
    ss := BitVec.ofNat 64 (n 32 8) }

/-- R176: n bytes copied from one address to another; the fault and whether it was the write's. -/
def State.copySpan (s : State) (c : Nat) (h : EngCmd) (dglob sglob : Bool) (dst src : Word) (n : Nat) : Except (AccFault × Bool) State :=
  match s.readEng c h.asid.toNat sglob src n with
  | .error f => .error (f, false)
  | .ok bs =>
    match (s.acqSpan c h sglob src n).writeEng (h.who c dst) h.system dglob bs with
    | .error f => .error (f, true)
    | .ok s => .ok s

/-- R176: pieces copied in order; on a fault, the piece and the fault. -/
def State.copyAll (s : State) (c : Nat) (h : EngCmd) (dglob sglob : Bool) : Nat → List (Word × Word × Nat) → Except (Nat × AccFault × Bool) State
  | _, [] => .ok s
  | k, (d, a, n) :: t =>
    match s.copySpan c h dglob sglob d a n with
    | .error (f, w) => .error (k, f, w)
    | .ok s => s.copyAll c h dglob sglob (k + 1) t

/-- R177: of the pieces before the one that failed, a free choice has been copied (log 6). -/
def State.copySome (s : State) (c : Nat) (h : EngCmd) (dglob sglob : Bool) (ps : List (Word × Word × Nat)) : State :=
  let r := ps.foldl (fun (a : State × Nat) p =>
    (if Config.freeBool a.2 then (match a.1.copySpan c h dglob sglob p.1 p.2.1 p.2.2 with | .ok t => t | .error _ => a.1) else a.1, a.2 + 1))
    (s, s.choice)
  { r.1 with choice := r.2 }

/-- R176, R177: the copy of a command: done, held by a translation fault with nothing copied, or ended by a status. A command
whose fault was left unresolved (blk 1) ends with status 0x03. -/
def State.runPieces (s : State) (c : Nat) (h : EngCmd) (dglob sglob : Bool) (ps : List (Word × Word × Nat)) : EngOut :=
  let some' := fun (k st : Nat) (a : Word) => EngOut.done (s.copySome c h dglob sglob (ps.take k)) st 0 [] a
  match s.copyAll c h dglob sglob 0 ps with
  | .ok t => if h.blk = 1 then some' ps.length 3 0 else .done t 0 0 [] 0
  | .error (k, .trans va, w) => if h.blk = 1 then some' k 3 va else .fault s va 0 w
  | .error (_, .line n inv, _) => .line n inv
  | .error (_, .busy, _) => .wait
  | .error (k, .abort cause a, _) => some' k (if h.blk = 1 then 3 else abortCode cause) a

/-- R176: a copy by rows, with its checks. One of ROWS above 0 and ROWBYTES 0 moves nothing and is taken as a count of zero (DESIGN
CHOICE, log 61: the rule names a count and a row count). -/
def State.runCopy (s : State) (c : Nat) (h : EngCmd) (p : Copy) : EngOut :=
  if 2 ^ 32 < p.rb * p.rows ∨ (p.dglob = p.sglob ∧ p.meet = true) then .early s 8 0
  else
    let s := s.cmdAcq c h
    if p.rb * p.rows = 0 then .early (s.cmdRel c h) 0 0
    else s.runPieces c h p.dglob p.sglob ((List.range p.rows).map (fun r => (p.dstAt r, p.srcAt r, p.rb)))

/-- R176, R275: the descriptor of the tile of a handle, as its home lock manager answers: a tile, or a status. The lock managers of
another package are not in the state: their answer is free (log 6). -/
def State.tileForCopy (s : State) (h : EngCmd) (handle : Nat) : Except Nat TileDesc :=
  let bad := if bits handle 18 0 ≠ 0 then true else false
  if handlePkg handle = Config.pkg then
    let t := s.tileAt (tileKey handle)
    if bad || s.stale handle || t.state == .retiring then .error 6
    else if t.asid ≠ h.asid.toNat then .error 1
    else .ok t.desc
  else if s.pkgDown (handlePkg handle) then .error 5
  else
    let bs := vecBytes (Config.freeVec s.choice)
    if bad || !tileOk bs then .error 6
    else if Config.freeBool s.choice then .error 1
    else .ok (parseTile bs)

/-- R176: CPYT: the elements of the tile against TileBytes consecutive local bytes. -/
def State.runCpyt (s : State) (c : Nat) (h : EngCmd) (pack : Bool) (off : Word) (handle : Nat) : EngOut :=
  match s.tileForCopy h handle with
  | .error st => .early s st (if st = 6 then BitVec.ofNat 64 handle else 0)
  | .ok d =>
    let s := s.cmdAcq c h
    let base := localOff off
    let es := 2 ^ d.esz
    let ps := (elemAddrs d).zipIdx.map (fun e =>
      let l := BitVec.ofNat 64 (base + es * e.2)
      if pack then (e.1, l, es) else (l, e.1, es))
    if 262144 < base + tileBytes d then .done s 2 0 [] (BitVec.ofNat 64 base)
    else s.runPieces c h pack (!pack) ps

/-- R176: a copy command executed. -/
def State.runCopyCmd (s : State) (c : Nat) (h : EngCmd) : EngOut :=
  match h.instr with
  | .cpy _ _ dir _ _ _ _ =>
    s.runCopy c h { dglob := decide (2 ≤ dir.val), sglob := dir.val % 2 == 1, dst := h.ops.getD 0 0, src := h.ops.getD 1 0,
                    rb := (h.ops.getD 2 0).toNat, rows := 1, ds := 0, ss := 0 }
  | .cpy2d _ _ _ _ _ _ =>
    match copyOfDesc h.data with | some p => s.runCopy c h p | none => .early s 8 0
  | .cpyt _ _ pack _ _ _ => s.runCpyt c h pack (h.ops.getD 0 0) (h.ops.getD 1 0).toNat
  | _ => .early s 0 0

end Sys2Proof.Machine
end

