-- ==== Sys2Proof/Machine/Vector.lean ====
section
/-! DEFINITION. Meanings: the vector lanes (R136 to R160). -/
namespace Sys2Proof.Machine

/-- The mould of a vector instruction that writes one result per destination lane of type t: f gets the sources, the rounding
mode, the lane and its draw (R128, R140). -/
def vecLanes (g : Guard) (t : Ty) (r : Rnd) (z : MaskZ) (d : Vreg) (srcs : List VSrc)
    (f : List Vec → Nat → Nat → Nat → Nat × Flags) (s : State) : Out :=
  vecOp g [d.val] srcs (fun s vs _ =>
    let (mode, x, s) := s.rounding r
    s.putV d (mergeLanes t.width t.lanes (s.me.m z.msk) z.zro (s.me.v d) (fun i => f vs mode i (srDraw x i)))) s

/-- The same without rounding and without flags. -/
def vecMove (g : Guard) (t : Ty) (z : MaskZ) (d : Vreg) (srcs : List VSrc) (f : List Vec → Nat → Nat) (s : State) : Out :=
  vecLanes g t .rne z d srcs (fun vs _ i _ => (f vs i, 0)) s

/-- Lane i of source k. -/
def laneAt (t : Ty) (vs : List Vec) (k i : Nat) : Nat := laneOf t.width (vs.getD k 0) i

/-! Arithmetic. -/

/-- Round of an exact value with the flags that made it. -/
def roundFl (f : Fmt) (mode draw : Nat) (x : FVal × Flags) : Nat × Flags :=
  let (c, fl) := roundTo f mode draw false x.1
  (c, x.2 ||| fl)

/-- R142, R143: a result by its type: rounded once, truncated, or clamped. -/
def arith (t : Ty) (sat : Bool) (mode draw : Nat) (fl : Fmt → FVal × Flags) (x : Int) : Nat × Flags :=
  match tyFmt t with
  | some f => roundFl f mode draw (fl f)
  | none => if sat then clampTo t x else (truncInt x t.width, 0)

/-- R142: the mould of VADD, VSUB and VMUL. -/
def vecArith (g : Guard) (t : Ty) (sat : Bool) (r : Rnd) (z : MaskZ) (d : Vreg) (a : VSrc) (b : VOp)
    (fl : Nat → FVal → FVal → FVal × Flags) (int : Int → Int → Int) (s : State) : Out :=
  vecLanes g t r z d (a :: VOp.srcs b) (fun vs mode i draw =>
    let x := laneAt t vs 0 i
    let y := VOp.lane b t vs i
    arith t sat mode draw (fun f => fl mode (f.val x) (f.val y)) (int (tyInt t x) (tyInt t y))) s

/-- R142: VADD. -/
def execVadd (g : Guard) (t : Ty) (sat : Bool) (r : Rnd) (z : MaskZ) (d : Vreg) (a : VSrc) (b : VOp) (s : State) : Out :=
  vecArith g t sat r z d a b (fun mode x y => fsum false mode [x, y]) (· + ·) s

/-- R142: VSUB. -/
def execVsub (g : Guard) (t : Ty) (sat : Bool) (r : Rnd) (z : MaskZ) (d : Vreg) (a : VSrc) (b : VOp) (s : State) : Out :=
  vecArith g t sat r z d a b (fun mode x y => fsum false mode [x, y.negate]) (· - ·) s

/-- R142: VMUL. -/
def execVmul (g : Guard) (t : Ty) (sat : Bool) (r : Rnd) (z : MaskZ) (d : Vreg) (a : VSrc) (b : VOp) (s : State) : Out :=
  vecArith g t sat r z d a b (fun _ x y => fmul x y) (· * ·) s

/-- R143: the mould of VFMA and VFMS: a × b ± c, rounded once. -/
def vecFma (g : Guard) (t : Ty) (sat : Bool) (r : Rnd) (z : MaskZ) (d : Vreg) (a : VSrc) (b : VOp) (c : VSrc)
    (neg : Bool) (s : State) : Out :=
  vecLanes g t r z d (a :: VOp.srcs b ++ [c]) (fun vs mode i draw =>
    let x := laneAt t vs 0 i
    let y := VOp.lane b t vs i
    let w := laneAt t vs (1 + (VOp.srcs b).length) i
    arith t sat mode draw
      (fun f =>
        let (p, fp) := fmul (f.val x) (f.val y)
        let (v, fs) := fsum false mode [p, if neg then (f.val w).negate else f.val w]
        (v, fp ||| fs))
      (tyInt t x * tyInt t y + (if neg then -tyInt t w else tyInt t w))) s

/-- R143: VFMA. -/
def execVfma (g : Guard) (t : Ty) (sat : Bool) (r : Rnd) (z : MaskZ) (d : Vreg) (a : VSrc) (b : VOp) (c : VSrc) (s : State) : Out :=
  vecFma g t sat r z d a b c false s

/-- R143: VFMS. -/
def execVfms (g : Guard) (t : Ty) (sat : Bool) (r : Rnd) (z : MaskZ) (d : Vreg) (a : VSrc) (b : VOp) (c : VSrc) (s : State) : Out :=
  vecFma g t sat r z d a b c true s

/-- R142: the smaller of two lanes. -/
def laneMin (t : Ty) (x y : Nat) : Nat :=
  match tyFmt t with
  | some f => fminC f x y
  | none => if tyInt t y < tyInt t x then y else x

/-- R142: the larger of two lanes. -/
def laneMax (t : Ty) (x y : Nat) : Nat :=
  match tyFmt t with
  | some f => fmaxC f x y
  | none => if tyInt t x < tyInt t y then y else x

/-- R142: VMIN. -/
def execVmin (g : Guard) (t : Ty) (z : MaskZ) (d : Vreg) (a : VSrc) (b : VOp) (s : State) : Out :=
  vecMove g t z d (a :: VOp.srcs b) (fun vs i => laneMin t (laneAt t vs 0 i) (VOp.lane b t vs i)) s

/-- R142: VMAX. -/
def execVmax (g : Guard) (t : Ty) (z : MaskZ) (d : Vreg) (a : VSrc) (b : VOp) (s : State) : Out :=
  vecMove g t z d (a :: VOp.srcs b) (fun vs i => laneMax t (laneAt t vs 0 i) (VOp.lane b t vs i)) s

/-- R144: a sign operation on a lane: the float's sign bit by fs, or the integer, clamped under .sat. -/
def signLane (t : Ty) (sat : Bool) (fs : Bool → Bool) (x : Nat) (int : Int) : Nat × Flags :=
  match tyFmt t with
  | some f =>
    if f.val x = .nan then (f.nan, 0)
    else (x % 2 ^ (f.eb + f.m) + f.signBit (fs (decide (2 ^ (f.eb + f.m) ≤ x))), 0)
  | none => if sat then clampTo t int else (truncInt int t.width, 0)

/-- R144: VABS. -/
def execVabs (g : Guard) (t : Ty) (sat : Bool) (z : MaskZ) (d : Vreg) (a : VSrc) (s : State) : Out :=
  vecLanes g t .rne z d [a] (fun vs _ i _ => let x := laneAt t vs 0 i; signLane t sat (fun _ => false) x (tyInt t x).natAbs) s

/-- R144: VNEG. -/
def execVneg (g : Guard) (t : Ty) (sat : Bool) (z : MaskZ) (d : Vreg) (a : VSrc) (s : State) : Out :=
  vecLanes g t .rne z d [a] (fun vs _ i _ => let x := laneAt t vs 0 i; signLane t sat (fun b => !b) x (-(tyInt t x))) s

/-- R145: the mould of the four functions: the exact value of each lane rounded once. -/
def vecFun (g : Guard) (t : Ty) (r : Rnd) (z : MaskZ) (d : Vreg) (a : VSrc) (fn : FVal → FVal × Flags) (s : State) : Out :=
  vecLanes g t r z d [a] (fun vs mode i draw =>
    match tyFmt t with
    | some f => roundFl f mode draw (fn (f.val (laneAt t vs 0 i)))
    | none => (0, 0)) s

/-- R145: 1 ÷ a. -/
def fRcp (x : FVal) : FVal × Flags := fdiv (.fin false 1 1 0) x

/-- R145: 1 ÷ √a. -/
def fRsq : FVal → FVal × Flags
  | .nan => (.nan, 0)
  | .inf neg => if neg then (.nan, fIV) else (.fin false 0 1 0, 0)
  | .fin neg n _ e => if n = 0 then (.inf neg, fDZ) else if neg then (.nan, fIV) else (rsqrtVal n e, 0)

/-- R145, R197: 2ᵃ. -/
def fExp2 : FVal → FVal × Flags
  | .nan => (.nan, 0)
  | .inf neg => (if neg then .fin false 0 1 0 else .inf false, 0)
  | .fin neg n _ e => (if n = 0 then .fin false 1 1 0 else exp2Val neg n e, 0)

/-- R145, R199: log₂ a. -/
def fLog2 : FVal → FVal × Flags
  | .nan => (.nan, 0)
  | .inf neg => if neg then (.nan, fIV) else (.inf false, 0)
  | .fin neg n _ e => if n = 0 then (.inf true, fDZ) else if neg then (.nan, fIV) else (log2Val n e, 0)

/-- R145: VRCP. -/
def execVrcp (g : Guard) (t : Ty) (r : Rnd) (z : MaskZ) (d : Vreg) (a : VSrc) (s : State) : Out := vecFun g t r z d a fRcp s

/-- R145: VRSQ. -/
def execVrsq (g : Guard) (t : Ty) (r : Rnd) (z : MaskZ) (d : Vreg) (a : VSrc) (s : State) : Out := vecFun g t r z d a fRsq s

/-- R145: VEXP2. -/
def execVexp2 (g : Guard) (t : Ty) (r : Rnd) (z : MaskZ) (d : Vreg) (a : VSrc) (s : State) : Out := vecFun g t r z d a fExp2 s

/-- R145: VLOG2. -/
def execVlog2 (g : Guard) (t : Ty) (r : Rnd) (z : MaskZ) (d : Vreg) (a : VSrc) (s : State) : Out := vecFun g t r z d a fLog2 s

/-! Bits, shifts and comparison. -/

/-- R146: the mould of two-operand bit operations. -/
def vecBits (g : Guard) (t : Ty) (z : MaskZ) (d : Vreg) (a : VSrc) (b : VOp) (f : Nat → Nat → Nat) (s : State) : Out :=
  vecMove g t z d (a :: VOp.srcs b) (fun vs i => f (laneAt t vs 0 i) (VOp.lane b t vs i)) s

/-- R146: VAND. -/
def execVand (g : Guard) (t : Ty) (z : MaskZ) (d : Vreg) (a : VSrc) (b : VOp) (s : State) : Out :=
  vecBits g t z d a b (fun x y => x &&& y) s

/-- R146: VOR. -/
def execVor (g : Guard) (t : Ty) (z : MaskZ) (d : Vreg) (a : VSrc) (b : VOp) (s : State) : Out :=
  vecBits g t z d a b (fun x y => x ||| y) s

/-- R146: VXOR. -/
def execVxor (g : Guard) (t : Ty) (z : MaskZ) (d : Vreg) (a : VSrc) (b : VOp) (s : State) : Out :=
  vecBits g t z d a b (fun x y => x ^^^ y) s

/-- R146: VSHL. -/
def execVshl (g : Guard) (t : Ty) (z : MaskZ) (d : Vreg) (a : VSrc) (b : VOp) (s : State) : Out :=
  vecBits g t z d a b (fun x y => x * 2 ^ (y % t.width) % 2 ^ t.width) s

/-- R146: VSHR. -/
def execVshr (g : Guard) (t : Ty) (z : MaskZ) (d : Vreg) (a : VSrc) (b : VOp) (s : State) : Out :=
  vecBits g t z d a b (fun x y => x / 2 ^ (y % t.width)) s

/-- R146: VSAR; a is read as signed. -/
def execVsar (g : Guard) (t : Ty) (z : MaskZ) (d : Vreg) (a : VSrc) (b : VOp) (s : State) : Out :=
  vecBits g t z d a b (fun x y => truncInt (sextInt x t.width / 2 ^ (y % t.width)) t.width) s

/-- R147: a condition on two lanes. -/
def vcondHolds (c : VCond) (t : Ty) (x y : Nat) : Bool :=
  match tyFmt t with
  | some f =>
    let a := f.val x
    let b := f.val y
    let un := a == .nan || b == .nan
    (match c with
     | .eq => !un && !flt a b && !flt b a
     | .ne => un || flt a b || flt b a
     | .lt => flt a b
     | .le => !un && !flt b a
     | .gt => flt b a
     | .ge => !un && !flt a b
     | .un => un)
  | none =>
    let a := tyInt t x
    let b := tyInt t y
    (match c with
     | .eq => decide (a = b)
     | .ne => decide (a ≠ b)
     | .lt => decide (a < b)
     | .le => decide (a ≤ b)
     | .gt => decide (b < a)
     | .ge => decide (b ≤ a)
     | .un => false)

/-- R147: VCMP. -/
def execVcmp (g : Guard) (cond : VCond) (t : Ty) (z : MaskZ) (d : Fin 8) (a : VSrc) (b : VOp) (s : State) : Out :=
  vecOp g [] (a :: VOp.srcs b) (fun s vs _ =>
    let bit := fun (i : Nat) =>
      if (s.me.m z.msk).getLsbD i then vcondHolds cond t (laneAt t vs 0 i) (VOp.lane b t vs i)
      else if z.zro then false else (s.me.m d).getLsbD i
    let m := BitVec.ofNat 64 ((List.range t.lanes).foldl (fun acc i => acc + (bit i).toNat * 2 ^ i) 0)
    (s.modMe (fun x => x.setM d m)).complete) s

/-- R148: VSEL. -/
def execVsel (g : Guard) (t : Ty) (k : Fin 8) (d : Vreg) (a b : VSrc) (s : State) : Out :=
  vecOp g [d.val] [a, b] (fun s vs _ =>
    let m := s.me.m k
    s.putV d (packLanes t.width ((List.range t.lanes).map (fun i => laneAt t vs (if m.getLsbD i then 0 else 1) i)), 0)) s

/-! Conversion. -/

/-- R149, R150, R151: n destination lanes from lane base on take their elements by R140; the others keep their values. -/
def mergePart (w base n : Nat) (mask : Word) (zro : Bool) (old : Vec) (f : Nat → Nat × Flags) : Vec × Flags :=
  let rs := (List.range (512 / w)).map (fun j =>
    if base ≤ j ∧ j < base + n then
      (if mask.getLsbD (j - base) then f (j - base) else (if zro then 0 else laneOf w old j, 0))
    else (laneOf w old j, 0))
  (packLanes w (rs.map (·.1)), rs.foldl (fun a r => a ||| r.2) 0)

/-- R149: Conv of a lane read as ts. -/
def convLane (td ts : Ty) (sat : Bool) (mode draw x : Nat) : Nat × Flags :=
  if td = ts then (x, 0)
  else
    let v := match tyFmt ts with
      | some f => f.val x
      | none => FVal.ofInt (tyInt ts x)
    match tyFmt td with
    | some f => roundTo f mode draw sat v
    | none =>
      match tyFmt ts with
      | some _ => roundToInt td mode draw v
      | none => if sat then clampTo td (tyInt ts x) else (truncInt (tyInt ts x) td.width, 0)

/-- R149: VCVT. -/
def execVcvt (g : Guard) (td ts : Ty) (part : Fin 8) (sat : Bool) (r : Rnd) (z : MaskZ) (d : Vreg) (a : VSrc) (s : State) : Out :=
  vecOp g [d.val] [a] (fun s vs _ =>
    let (mode, x, s) := s.rounding r
    let n := 512 / Nat.max ts.width td.width
    let from' := if ts.width < td.width then part.val * n else 0
    let base := if td.width < ts.width then part.val * n else 0
    s.putV d (mergePart td.width base n (s.me.m z.msk) z.zro (s.me.v d) (fun i =>
      convLane td ts sat mode (srDraw x i) (laneAt ts vs 0 (from' + i))))) s

/-- R150: VQNT. -/
def execVqnt (g : Guard) (td : Ty) (part : Bool) (d : Vreg) (a b : VSrc) (c : Sreg) (s : State) : Out :=
  vecOp g [d.val] [a, b] (fun s vs _ =>
    let xs := (List.range 32).map (fun i => fp32.val (laneAt .f32 vs (i / 16) (i % 16)))
    let (es, sc, fl) := if td = .e5m2 then quantise e5m2 15 xs else quantise e4m3 8 xs
    let r := mergePart 8 (32 * part.toNat) 32 (BitVec.allOnes 64) false (s.me.v d) (fun i => (es.getD i 0, 0))
    let s := s.land .arith .scalar c.val 0 (vecOf sc)
    s.putV d (r.1, fl)) s

/-- R151: element i of VDEQ as an exact value. -/
def deqVal (k : Core) (td ts : Ty) (part i : Nat) (v : Vec) : FVal :=
  let n := 512 / td.width
  match tyFmt ts with
  | some f => f.val (laneOf 8 v (part * n + i))
  | none =>
    let idx := laneOf 16 v (part * n / 8 + i / 8)
    cbDecode (k.cbRowOf (bits idx 15 8)) idx (i % 8)

/-- R151: VDEQ. -/
def execVdeq (g : Guard) (td ts : Ty) (part : Fin 16) (z : MaskZ) (d : Vreg) (a : VSrc) (s : State) : Out :=
  vecOp g [d.val] [a] (fun s vs _ =>
    let k := s.myCore
    s.putV d (mergeLanes td.width td.lanes (s.me.m z.msk) z.zro (s.me.v d) (fun i =>
      match tyFmt td with
      | some f => ((roundTo f 0 0 false (deqVal k td ts part.val i (vs.getD 0 0))).1, 0)
      | none => (0, 0)))) s

/-- R152: VSCALE. -/
def execVscale (g : Guard) (t : Ty) (k : Fin 16) (r : Rnd) (z : MaskZ) (d : Vreg) (a : VSrc) (b : VOp) (s : State) : Out :=
  vecLanes g t r z d (a :: VOp.srcs b) (fun vs mode i draw =>
    let c := match b with
      | .vec _ => laneOf 8 (vs.getD 1 0) (if t.lanes ≤ 2 ^ k.val then 0 else i / 2 ^ k.val)
      | .imm v => v.toNat % 256
    match tyFmt t with
    | some f => roundFl f mode draw (fmul (f.val (laneAt t vs 0 i)) (e8m0Val c))
    | none => (0, 0)) s

/-! Reductions and scans. -/

/-- R153: a lane widened to a scalar. -/
def widenLane (t : Ty) (x : Nat) : Word := if t.isInt then BitVec.ofInt 64 (tyInt t x) else BitVec.ofNat 64 x

/-- R153: the smallest or largest of lanes by f, e with none; a NaN result is the default NaN. -/
def foldLanes (t : Ty) (f : Nat → Nat → Nat) (e : Nat) : List Nat → Nat
  | [] => e
  | x :: xs =>
    let r := xs.foldl f x
    match tyFmt t with
    | some fm => if fm.val r = .nan then fm.nan else r
    | none => r

/-- R153: the greatest and the least value of a type, infinities for a floating type. -/
def topLane (t : Ty) : Nat := match tyFmt t with | some f => f.infCode false | none => truncInt (tyHi t) t.width
def botLane (t : Ty) : Nat := match tyFmt t with | some f => f.infCode true | none => truncInt (tyLo t) t.width

/-- R153: the value of VRED over the active lanes. -/
def reduce (op : RedOp) (t : Ty) (mode draw : Nat) (xs : List Nat) : Nat × Flags :=
  match op with
  | .add =>
    (match tyFmt t with
     | some f => roundFl f mode draw (fsum true mode (xs.map f.val))
     | none => (xs.foldl (· + ·) 0 % 2 ^ t.width, 0))
  | .min => (foldLanes t (laneMin t) (topLane t) xs, 0)
  | .max => (foldLanes t (laneMax t) (botLane t) xs, 0)
  | .and => (xs.foldl (fun a x => a &&& x) (2 ^ t.width - 1), 0)
  | .or => (xs.foldl (fun a x => a ||| x) 0, 0)
  | .xor => (xs.foldl (fun a x => a ^^^ x) 0, 0)

/-- R153: VRED. -/
def execVred (g : Guard) (op : RedOp) (t : Ty) (r : Rnd) (msk : Fin 8) (d : Sreg) (a : VSrc) (s : State) : Out :=
  vecOp g [] [a] (fun s vs _ =>
    let (mode, x, s) := s.rounding r
    let xs := ((List.range t.lanes).filter (fun i => (s.me.m msk).getLsbD i)).map (laneAt t vs 0)
    let (v, fl) := reduce op t mode (srDraw x 0) xs
    s.putS .arith d (widenLane t v) fl) s

/-- R154: lane i of VSCAN from the start value and the lanes it takes in.  Where it takes in none, the sum is
the start value alone, so that a start of -0 stays -0: the rule does not say whether an empty sum counts as
+0 (DESIGN CHOICE, log 61). -/
def scanLane (op : FOp) (t : Ty) (mode draw start : Nat) (xs : List Nat) : Nat × Flags :=
  match op with
  | .add =>
    (match tyFmt t with
     | some f => roundFl f mode draw (fsum false mode ((start :: xs).map f.val))
     | none => ((start :: xs).foldl (· + ·) 0 % 2 ^ t.width, 0))
  | .min => (foldLanes t (laneMin t) 0 (start :: xs), 0)
  | .max => (foldLanes t (laneMax t) 0 (start :: xs), 0)

/-- R154: VSCAN. -/
def execVscan (g : Guard) (op : FOp) (ex : Bool) (t : Ty) (r : Rnd) (z : MaskZ) (d : Vreg) (a : VSrc) (b : Src) (s : State) : Out :=
  let start := fun (x : Slot) => match b with
    | .reg q => (x.s q).toNat % 2 ^ t.width
    | .imm v => laneImm t v
  vecOp g [d.val] [a] (fun s vs _ =>
    let (mode, x, s) := s.rounding r
    let mask := s.me.m z.msk
    let st := start s.me
    s.putV d (mergeLanes t.width t.lanes mask z.zro (s.me.v d) (fun i =>
      let js := (List.range (if ex then i else i + 1)).filter (fun j => mask.getLsbD j)
      scanLane op t mode (srDraw x i) st (js.map (laneAt t vs 0))))) s

/-! Moving lanes. -/

/-- R155: VPERM. -/
def execVperm (g : Guard) (t : Ty) (z : MaskZ) (d : Vreg) (a b : VSrc) (two : Option VSrc) (s : State) : Out :=
  let third := match two with | some c => [c] | none => []
  vecMove g t z d ([a, b] ++ third) (fun vs i =>
    let k := laneAt t vs 1 i
    if k < t.lanes then laneAt t vs 0 k
    else if third.length = 1 ∧ k < 2 * t.lanes then laneAt t vs 2 (k - t.lanes)
    else 0) s

/-- R156: VBCAST. -/
def execVbcast (g : Guard) (t : Ty) (z : MaskZ) (d : Vreg) (f : BCast) (s : State) : Out :=
  match f with
  | .scalar a =>
    vecOp g [d.val] [] (fun s _ _ =>
      let v := (s.me.s a).toNat % 2 ^ t.width
      s.putV d (mergeLanes t.width t.lanes (s.me.m z.msk) z.zro (s.me.v d) (fun _ => (v, 0)))) s
  | .imm v => vecMove g t z d [] (fun _ _ => laneImm t v) s
  | .lane a n => vecMove g t z d [a] (fun vs _ => laneAt t vs 0 n.val) s

/-- R156: the lane a lane operand names. -/
def LaneSel.index (x : Slot) : LaneSel → Nat
  | .imm n => n.val
  | .reg b => (x.s b).toNat

/-- R156: VINS. -/
def execVins (g : Guard) (t : Ty) (d : Vreg) (a : Sreg) (n : LaneSel) (s : State) : Out :=
  vecOp g [d.val] [] (fun s _ _ =>
    let k := LaneSel.index s.me n
    let v := (s.me.s a).toNat % 2 ^ t.width
    s.putV d (packLanes t.width ((List.range t.lanes).map (fun i => if i = k then v else laneOf t.width (s.me.v d) i)), 0)) s

/-- R156: VEXT. -/
def execVext (g : Guard) (t : Ty) (d : Sreg) (a : VSrc) (n : LaneSel) (s : State) : Out :=
  vecOp g [] [a] (fun s vs _ =>
    let k := LaneSel.index s.me n
    s.putS .arith d (if k < t.lanes then widenLane t (laneAt t vs 0 k) else 0) 0) s

/-- R157: VMOV. -/
def execVmov (g : Guard) (t : Ty) (z : MaskZ) (d : Vreg) (a : VSrc) (s : State) : Out :=
  vecMove g t z d [a] (fun vs i => laneAt t vs 0 i) s

/-- R157: VLDI. -/
def execVldi (g : Guard) (t : Ty) (z : MaskZ) (d : Vreg) (a : Sreg) (imm : BitVec 32) (s : State) : Out :=
  vecOp g [d.val] [] (fun s _ _ =>
    let v := s.me.s a
    s.putV d (mergeLanes t.width t.lanes (s.me.m z.msk) z.zro (s.me.v d) (fun i =>
      ((v + BitVec.ofNat 64 i * sext32 imm).toNat % 2 ^ t.width, 0)))) s

/-- R158: lane j of vA followed by vB. -/
def seqLane (t : Ty) (vs : List Vec) (j : Nat) : Nat :=
  if j < t.lanes then laneAt t vs 0 j else laneAt t vs 1 (j - t.lanes)

/-- R158: VZIP. -/
def execVzip (g : Guard) (t : Ty) (part : Bool) (z : MaskZ) (d : Vreg) (a b : VSrc) (s : State) : Out :=
  vecMove g t z d [a, b] (fun vs i => laneAt t vs (i % 2) (part.toNat * (t.lanes / 2) + i / 2)) s

/-- R158: VUNZIP. -/
def execVunzip (g : Guard) (t : Ty) (part : Bool) (z : MaskZ) (d : Vreg) (a b : VSrc) (s : State) : Out :=
  vecMove g t z d [a, b] (fun vs i => seqLane t vs (2 * i + part.toNat)) s

/-- R158: VSLIDE. -/
def execVslide (g : Guard) (t : Ty) (k : Fin 65) (z : MaskZ) (d : Vreg) (a b : VSrc) (s : State) : Out :=
  vecMove g t z d [a, b] (fun vs i => seqLane t vs (i + k.val)) s

/-! Dot products and saturation. -/

/-- R159: the terms of lane j. -/
def dotTerms (t : Ty) (vs : List Vec) (j : Nat) : List (Nat × Nat) :=
  let n := 32 / t.width
  (List.range n).map (fun k => (laneAt t vs 0 (n * j + k), laneAt t vs 1 (n * j + k)))

/-- R159: lane j of VDOT. -/
def dotLane (t : Ty) (sat : Bool) (mode draw : Nat) (vs : List Vec) (j : Nat) : Nat × Flags :=
  let c := laneOf 32 (vs.getD 2 0) j
  match tyFmt t with
  | some f =>
    let ps := (dotTerms t vs j).map (fun p => fmul (f.val p.1) (f.val p.2))
    let (v, fl) := fsum true mode (ps.map (·.1) ++ [fp32.val c])
    roundFl fp32 mode draw (v, ps.foldl (fun a p => a ||| p.2) fl)
  | none =>
    let rt : Ty := if t.isSigned then .i32 else .n32
    let x := (dotTerms t vs j).foldl (fun a p => a + tyInt t p.1 * tyInt t p.2) (tyInt rt c)
    if sat then clampTo rt x else (truncInt x 32, 0)

/-- R159: VDOT. -/
def execVdot (g : Guard) (t : Ty) (sat : Bool) (r : Rnd) (z : MaskZ) (d : Vreg) (a b c : VSrc) (s : State) : Out :=
  vecLanes g .f32 r z d [a, b, c] (fun vs mode i draw => dotLane t sat mode draw vs i) s

/-- R160: a lane of type t limited to the range of t2. -/
def satLane (t t2 : Ty) (x : Nat) : Nat × Flags :=
  match tyFmt t, tyFmt t2 with
  | some f, some f2 =>
    let m := f2.val f2.maxCode
    let top := (roundTo f 1 0 false m).1
    (match f.val x with
     | .nan => (f.nan, 0)
     | .inf neg => (f.signBit neg + top, fSAT)
     | .fin neg n d e => if flt m (.fin false n d e) then (f.signBit neg + top, fSAT) else (x, 0))
  | _, _ =>
    let v := tyInt t x
    let y := max (tyLo t2) (min v (tyHi t2))
    (truncInt y t.width, flagIf (decide (y ≠ v)) fSAT)

/-- R160: VSAT. -/
def execVsat (g : Guard) (t t2 : Ty) (z : MaskZ) (d : Vreg) (a : VSrc) (s : State) : Out :=
  vecLanes g t .rne z d [a] (fun vs _ i _ => satLane t t2 (laneAt t vs 0 i)) s

end Sys2Proof.Machine
end

