-- ==== Sys2Proof/Machine/Matrix.lean ====
section
/-! DEFINITION. Meanings: the matrix engine (R178 to R201). -/
namespace Sys2Proof.Machine

/-! Issue (R181, R185). -/

/-- The mould of a matrix command that captures scalars only. -/
def mxIssue (g : Guard) (tok : Tok) (i : Instr) (ops : Slot → List Word) (s : State) : Out :=
  engineOp g tok (fun s => (s.enqueue .matrix g tok [] (mkCmd i (ops s.me))).complete) s

/-- R196: MXCFG .ascale. -/
def execMxcfgAscale (g : Guard) (tok : Tok) (a : Src) (s : State) : Out :=
  mxIssue g tok (.mxcfgAscale g tok a) (fun x => [x.srcZ a]) s

/-- R196: MXCFG .areset. -/
def execMxcfgAreset (g : Guard) (tok : Tok) (s : State) : Out := mxIssue g tok (.mxcfgAreset g tok) (fun _ => []) s

/-- R187: MXLD. -/
def execMxld (g : Guard) (tok : Tok) (f : MxLd) (a b : Sreg) (o : Order) (s : State) : Out :=
  mxIssue g tok (.mxld g tok f a b o) (fun x => [x.s a, x.s b]) s

/-- R188: MXLDV. -/
def execMxldv (g : Guard) (tok : Tok) (r64 : Bool) (slot : Fin 4) (a b : Sreg) (o : Order) (s : State) : Out :=
  mxIssue g tok (.mxldv g tok r64 slot a b o) (fun x => [x.s a, x.s b]) s

/-- R191: the captured offset of a local operand. -/
def mxOpVal (x : Slot) : MxOp → Word
  | .slot _ => 0
  | .loc a => x.s a

/-- R191: MXMMA. -/
def execMxmma (g : Guard) (tok : Tok) (ta tb : Ty) (h16 : Bool) (d : Fin 8) (x y : MxOp) (o : Order) (s : State) : Out :=
  mxIssue g tok (.mxmma g tok ta tb h16 d x y o) (fun z => [mxOpVal z x, mxOpVal z y]) s

/-- R192: MXZERO. -/
def execMxzero (g : Guard) (tok : Tok) (mask : BitVec 8) (s : State) : Out := mxIssue g tok (.mxzero g tok mask) (fun _ => []) s

/-- R96, R108, R46: the fault of the vector sources of a command under a pending guard, which its slot takes once the guard acts. -/
def Slot.lateSrcs (x : Slot) (srcs : List VSrc) : Option (Bool × Nat × Word) :=
  match x.leaseOf (vregsOf srcs) with
  | some r => some (false, 0x05, BitVec.ofNat 64 r)
  | none => if (chansOf srcs).any (fun c => x.chanTagOf c == 0) then some (false, 0x07, 0) else none

/-- R134: the values of sources as they stand, the entries of channels among them: the k-th entry for the k-th read. -/
def Slot.peekSrcs (x : Slot) : List VSrc → List (Fin 8) → List Vec
  | [], _ => []
  | .reg r :: t, seen => x.v r :: x.peekSrcs t seen
  | .chan c :: t, seen => (((x.chan c.val)[seen.count c]?).map (·.data)).getD 0 :: x.peekSrcs t (c :: seen)

/-- R193, R134: MXSCA; its scale lanes are captured at issue. Under a pending guard (R46) it is queued: a fault of its sources is taken,
and the entries it has read are popped, once the guard acts; a channel that lacks an entry at issue is read then. -/
def execMxsca (g : Guard) (tok : Tok) (ts ta : Ty) (d t : Fin 8) (a b : VSrc) (s : State) : Out :=
  engineOp g tok (fun s =>
    let cmd := mkCmd (.mxsca g tok ts ta d t a b) []
    let cs := chansOf [a, b]
    if s.guardPends g then
      let f := s.me.lateSrcs [a, b]
      let vs := if s.me.chansReady cs then s.me.peekSrcs [a, b] [] else (vregsOf [a, b]).map (fun r => s.me.v (Fin.ofNat 32 r))
      (s.enqueue .matrix g tok [] { cmd with late := f.isSome || !cs.isEmpty, lateFault := f, vecs := vs }).complete
    else s.withVecs [] [a, b] (fun s vs _ => (s.enqueue .matrix g tok [] { cmd with vecs := vs }).complete)) s

/-- R194: MXRD; its destinations are leased from issue on. -/
def execMxrd (g : Guard) (tok : Tok) (d : Vreg) (t : Fin 8) (row : Fin 16) (lg : Fin 8) (s : State) : Out :=
  engineOp g tok (fun s =>
    (s.enqueue .matrix g tok ((List.range (2 ^ lg.val)).map (fun n => d.val + n)) (mkCmd (.mxrd g tok d t row lg) [])).complete) s

/-- R195: MXST; the rounding mode and the draw are taken at issue, the draw under a pending guard once it acts (R46). -/
def execMxst (g : Guard) (tok : Tok) (t : Ty) (sat : Bool) (r : Rnd) (ti : Fin 8) (a b : Sreg) (sp : Space) (o : Order) (s : State) : Out :=
  engineOp g tok (fun s =>
    let late := s.guardPends g && s.me.modeOf r == 4
    let (mode, x, s) := if late then (4, 0, s) else s.rounding r
    let cmd := { mkCmd (.mxst g tok t sat r ti a b sp o) [s.me.s a, s.me.s b] with rnd := mode, seed := x, late := late }
    (s.enqueue .matrix g tok [] cmd).complete) s

/-- R198: MXATTN. -/
def execMxattn (g : Guard) (tok : Tok) (q : Fin 4) (a b : Sreg) (nm1 : Fin 16) (o : Order) (s : State) : Out :=
  mxIssue g tok (.mxattn g tok q a b nm1 o) (fun x => [x.s a, x.s b]) s

/-- R199: MXAFIN. -/
def execMxafin (g : Guard) (tok : Tok) (a b : Sreg) (o : Order) (s : State) : Out :=
  mxIssue g tok (.mxafin g tok a b o) (fun x => [x.s a, x.s b]) s

/-- R200: MXWAIT enters the queue and its slot waits for it. -/
def execMxwait (g : Guard) (s : State) : Out :=
  engineOp g none (fun s =>
    ((s.enqueue .matrix g none [] (mkCmd (.mxwait g) [])).complete).modMe (fun x => { x with wait := .mx })) s

/-- R201: MXPRG. -/
def execMxprg (g : Guard) (tok : Tok) (s : State) : Out := mxIssue g tok (.mxprg g tok) (fun _ => []) s

/-! The engine's arrays (R179, R186). -/

/-- An accumulator word. -/
def Core.acc (k : Core) (t i j : Nat) : BitVec 32 := smGet (fun _ => 0) k.tiles (256 * t + 16 * i + j)

/-- The words of a tile written: it holds no error any more (R371). -/
def Core.setAcc (k : Core) (t : Nat) (f : Nat → Nat → BitVec 32) : Core :=
  { k with
    tiles := (List.range 256).foldl (fun m n => smSet (fun _ => 0) m (256 * t + n) (f (n / 16) (n % 16))) k.tiles
    badArrays := k.badArrays.filter (· != t) }

/-- Bytes of an operand slot. -/
def Core.slotBytes (k : Core) (o off n : Nat) : List Byte :=
  (List.range n).map (fun b => smGet (fun _ => 0) k.oslots (4096 * o + off + b))

/-- Row i of an operand slot written; the rows are written in order, and a slot written whole holds no error (R371). -/
def Core.setSlotRow (k : Core) (o i : Nat) (bs : List Byte) : Core :=
  { k with
    oslots := (placed (4096 * o + 256 * i) bs).foldl (fun m e => smSet (fun _ => 0) m e.1 e.2) k.oslots
    badArrays := if i = 15 then k.badArrays.filter (· != 8 + o) else k.badArrays }

/-- R198: m[i] and l[i]. -/
def Core.attnM (k : Core) (i : Nat) : BitVec 32 := smGet (fun _ => 0xFF800000) k.mxm i
def Core.attnL (k : Core) (i : Nat) : BitVec 32 := smGet (fun _ => 0) k.mxl i

/-- R196, R199: every m[i] −∞, every l[i] +0, every tile zero. -/
def Core.attnReset (k : Core) : Core :=
  { k with mxm := [], mxl := [], tiles := [], badArrays := k.badArrays.filter (fun n => decide (8 ≤ n ∧ n ≤ 11)) }

/-- A free word: lane j of a free vector. -/
def freeWord (n j : Nat) : BitVec 32 := (Config.freeVec n).extractLsb' (32 * j) 32

/-- R184: the words of a tile, the bytes of a slot, the attention state left undefined (log 6). -/
def Core.spoilAcc (k : Core) (n t : Nat) : Core := k.setAcc t (fun i j => freeWord (n + i) j)
def Core.spoilSlot (k : Core) (n o : Nat) : Core :=
  (List.range 16).foldl (fun (k : Core) i =>
    k.setSlotRow o i ((List.range 4).flatMap (fun q => vecBytes (Config.freeVec (n + 4 * i + q))))) k
def Core.spoilAttn (k : Core) (n : Nat) : Core :=
  let k := (List.range 8).foldl (fun (k : Core) t => k.spoilAcc (n + 16 * t) t) k
  (List.range 16).foldl (fun (k : Core) i => { k with
    mxm := smSet (fun _ => 0xFF800000) k.mxm i (freeWord (n + 128) i)
    mxl := smSet (fun _ => 0) k.mxl i (freeWord (n + 129) i) }) k

/-- R184: the engine state that a failed command would have written. -/
def Core.spoil (k : Core) (n : Nat) : Instr → Core
  | .mxld _ _ f _ _ _ => (match f with | .full o | .r64 o => k.spoilSlot n o.val | .acc t => k.spoilAcc n t.val)
  | .mxldv _ _ _ o _ _ _ => k.spoilSlot n o.val
  | .mxmma _ _ _ _ _ d _ _ _ => k.spoilAcc n d.val
  | .mxsca _ _ _ _ d _ _ _ => k.spoilAcc n d.val
  | .mxattn _ _ _ _ _ _ _ | .mxafin _ _ _ _ _ => k.spoilAttn n
  | _ => k

/-- R195, R199, R184: the memory bytes of a command's destination, by rows. -/
def mxDest (h : EngCmd) : List (Bool × Word × Nat) :=
  let a := h.ops.getD 0 0
  let b := h.ops.getD 1 0
  match h.instr with
  | .mxst _ _ t _ _ _ _ _ sp _ =>
    (List.range 16).map (fun i => (sp == .glob, a + BitVec.ofNat 64 i * b, if t.width = 32 then 64 else 32))
  | .mxafin _ _ _ _ _ => (List.range 16).map (fun i => (false, a + BitVec.ofNat 64 (256 * i), 256)) ++ [(false, b, 64)]
  | _ => []

/-- R184: a row of a destination left undefined where it can be written at all. -/
def State.spoilRow (s : State) (c : Nat) (h : EngCmd) (r : Bool × Word × Nat) : State :=
  let bs := (List.range 4).flatMap (fun i => vecBytes (Config.freeVec (s.choice + i)))
  let s := { s with choice := s.choice + 4 }
  match s.writeEng (h.who c r.2.1) h.system r.1 (bs.take r.2.2) with
  | .ok t => t
  | .error _ => s

/-- R184: a command that ends with a non-zero code has left the engine state and the memory bytes it would have written undefined. -/
def State.spoilCmd (s : State) (c : Nat) (h : EngCmd) : State :=
  let s := { s.modCore c (fun k => k.spoil s.choice h.instr) with choice := s.choice + 256 }
  (mxDest h).foldl (fun s r => s.spoilRow c h r) s

/-- R184: a matrix command that ends with a status. -/
def mxEnd (s : State) (st : Nat) (a : Word) : EngOut := .done s st 0 [] a

/-- R184: a matrix command whose access to local memory faults. -/
def mxLocal (s : State) (f : AccFault) : EngOut :=
  mxEnd s (match f with | .abort cause _ => abortCode cause | .trans _ | .line _ _ | .busy => 2) f.addr

/-- R371, R184: the engine arrays that a command reads: accumulator tiles 0 to 7, operand slots 8 to 11, the attention state 12. -/
def mxReads : Instr → List Nat
  | .mxmma _ _ _ _ _ d x y _ =>
    d.val :: [x, y].filterMap (fun o => match o with | .slot n => some (8 + n.val) | .loc _ => none)
  | .mxsca _ _ _ _ d t _ _ => [d.val, t.val]
  | .mxrd _ _ _ t _ _ => [t.val]
  | .mxst _ _ _ _ _ t _ _ _ _ => [t.val]
  | .mxattn _ _ q _ _ _ _ => (8 + q.val) :: 12 :: List.range 8
  | .mxafin _ _ _ _ _ => 12 :: List.range 8
  | _ => []

/-! Execution. -/

/-- R183: a multiple of 64. -/
def by64 (w : Word) : Bool := w.toNat % 64 == 0

/-- R187: the 16 rows of MXLD. -/
def State.mxRows (s : State) (c : Nat) (a st : Word) (rb : Nat) : Except AccFault (List (List Byte)) :=
  (List.range 16).mapM (fun i => s.readL c (localOff (a + BitVec.ofNat 64 i * st)) rb)

/-- R187: MXLD executed. -/
def State.runMxld (s : State) (c : Nat) (h : EngCmd) (f : MxLd) : EngOut :=
  let a := h.ops.getD 0 0
  let st := h.ops.getD 1 0
  let rb := match f with | .full _ => 256 | .r64 _ | .acc _ => 64
  if !by64 a || !by64 st then mxEnd s 8 0
  else
    match s.mxRows c a st rb with
    | .error f => mxLocal s f
    | .ok rows =>
      let put := fun (k : Core) => match f with
        | .full o | .r64 o => rows.zipIdx.foldl (fun (k : Core) r => k.setSlotRow o.val r.2 (padTo 256 r.1)) k
        | .acc t => k.setAcc t.val (fun i j => BitVec.ofNat 32 (wordOfBytes (((rows.getD i []).drop (4 * j)).take 4)))
      .done (s.modCore c put) 0 0 [] 0

/-- R188, R190: rows of MXLDV from row i on. A translation fault holds the command with the rows before it landed. -/
def State.mxldvRows (s : State) (c : Nat) (h : EngCmd) (o rb : Nat) (a st : Word) : List Nat → EngOut
  | [] => .done (s.modCore c (fun k => { k with rowProg := { k.rowProg with rows := 16 } })) 0 0 [] 0
  | i :: t =>
    let va := a + BitVec.ofNat 64 i * st
    let s := s.modCore c (fun k => { k with rowProg := { k.rowProg with rows := i } })
    match s.readEng c h.asid.toNat true va rb with
    | .error (.trans x) => .fault s x i false
    | .error (.line n inv) => .line n inv
    | .error .busy => .wait
    | .error (.abort cause x) => mxEnd s (abortCode cause) x
    | .ok bs =>
      ((s.acqSpan c h true va rb).modCore c (fun k => k.setSlotRow o i (padTo 256 bs))).mxldvRows c h o rb a st t

/-- R188: MXLDV executed, or continued from its row progress. -/
def State.runMxldv (s : State) (c : Nat) (h : EngCmd) (r64 : Bool) (o : Nat) : EngOut :=
  let a := h.ops.getD 0 0
  let st := h.ops.getD 1 0
  let s := s.modCore c (fun k => { k with rowProg := ⟨o, h.slot, false, h.blk⟩ })
  if !by64 a || !by64 st then mxEnd s 8 0
  else s.mxldvRows c h o (if r64 then 64 else 256) a st ((List.range 16).drop h.blk)

/-- R186: an operand of MXMMA: n bytes of a slot or of local memory. A local region of a command is one access from its reduced offset:
one that runs past 0x3FFFF ends with status 2. Only the rows of MXLD are said to be reduced each by itself (R187; DESIGN CHOICE, log
61). -/
def State.mxOperand (s : State) (c : Nat) (x : MxOp) (off : Word) (n : Nat) : Except AccFault (List Byte) :=
  match x with
  | .slot o => .ok ((s.coreOf c).slotBytes o.val 0 n)
  | .loc _ => s.readL c (localOff off) n

/-- R186: element values of 256 bytes of a row or column in a floating format. -/
def rowVals (f : Fmt) (bs : List Byte) : List FVal :=
  let n := f.width / 8
  (List.range (256 / n)).map (fun k => f.val (wordOfBytes ((bs.drop (n * k)).take n)))

/-- R186: the 256 weights of a CB8 column of 64 bytes. -/
def cbVals (k : Core) (bs : List Byte) : List FVal :=
  (List.range 256).map (fun e =>
    let idx := wordOfBytes ((bs.drop (2 * (e / 8))).take 2)
    cbDecode (k.cbRowOf (bits idx 15 8)) idx (e % 8))

/-- R130: a list cut into groups of 32. -/
def groups32 {α : Type} (xs : List α) : List (List α) := (List.range (xs.length / 32)).map (fun g => (xs.drop (32 * g)).take 32)

/-- R130: MatrixSum in a floating mode. -/
def matrixSum (m : AccMode) (acc : Nat) (a b : List FVal) : Nat × Flags :=
  (groups32 (List.zipWith fmul a b)).foldl (fun r g => let (c, f) := accGroup m r.1 g; (c, r.2 ||| f)) (acc, 0)

/-- R130, R132: MatrixSum in INT32 mode. -/
def matrixSumInt (acc : Nat) (a b : List Int) : Nat × Flags :=
  (groups32 (List.zipWith (· * ·) a b)).foldl (fun r g => let (c, f) := accGroupInt r.1 g; (c, r.2 ||| f)) (acc, 0)

/-- R191: the new words of tile d, row by row, with the flags. -/
def mmaWords (k : Core) (ta tb : Ty) (h16 : Bool) (d : Nat) (a b : List Byte) : List (List (Nat × Flags)) :=
  let row := fun (bs : List Byte) (n i : Nat) => (bs.drop (n * i)).take n
  let acc := fun i j => (k.acc d i j).toNat
  let idx := List.range 16
  match tyFmt ta with
  | none =>
    let ints := fun (bs : List Byte) => bs.map (fun x => x.toInt)
    let bs := idx.map (fun j => ints (row b 256 j))
    idx.map (fun i => let r := ints (row a 256 i); bs.zipIdx.map (fun c => matrixSumInt (acc i c.2) r c.1))
  | some f =>
    let bs := idx.map (fun j => match tyFmt tb with
      | some g => rowVals g (row b 256 j)
      | none => cbVals k (row b 64 j))
    let m : AccMode := if h16 then .fp16 else .fp32
    idx.map (fun i => let r := rowVals f (row a 256 i); bs.zipIdx.map (fun c => matrixSum m (acc i c.2) r c.1))

/-- R191: MXMMA sets IV, ACC_INF and ACC_SAT only. -/
def mmaFlags : Flags := fIV ||| fACCINF ||| fACCSAT

/-- A tile from rows of results, and their flags. -/
def Core.setAccRows (k : Core) (d : Nat) (rows : List (List (Nat × Flags))) : Core :=
  k.setAcc d (fun i j => BitVec.ofNat 32 ((rows.getD i []).getD j (0, 0)).1)
def rowsFlags (rows : List (List (Nat × Flags))) : Flags := rows.foldl (fun a r => r.foldl (fun a x => a ||| x.2) a) 0

/-- R191: MXMMA executed. -/
def State.runMxmma (s : State) (c : Nat) (h : EngCmd) (ta tb : Ty) (h16 : Bool) (d : Nat) (x y : MxOp) : EngOut :=
  let pa := h.ops.getD 0 0
  let pb := h.ops.getD 1 0
  -- CB8 columns are 256 bytes apart in a slot and 64 bytes apart in local memory
  let cbSlot := decide (tb = .cb8) && (match y with | .slot _ => true | .loc _ => false)
  let nb := if tb = .cb8 ∧ !cbSlot then 1024 else 4096
  if !by64 pa || !by64 pb then mxEnd s 8 0
  else
    match s.mxOperand c x pa 4096, s.mxOperand c y pb nb with
    | .error f, _ | .ok _, .error f => mxLocal s f
    | .ok a, .ok b =>
      let b := if cbSlot then (List.range 16).flatMap (fun j => (b.drop (256 * j)).take 64) else b
      let rows := mmaWords (s.coreOf c) ta tb h16 d a b
      .done (s.modCore c (fun k => k.setAccRows d rows)) 0 (rowsFlags rows &&& mmaFlags) [] 0

/-- R193: ScaleOf. -/
def scaleOf (ts : Ty) (v : Vec) (n : Nat) : FVal := if ts = .e8m0 then e8m0Val (laneOf 8 v n) else fp32.val (laneOf 32 v n)

/-- R133: one element of MXSCA: a NaN operand gives NaN without IV. -/
def scaElem (d x r c : FVal) : Nat × Flags :=
  if d == .nan || x == .nan || r == .nan || c == .nan then (fp32.nan, 0)
  else
    let (p, f1) := fmul x r
    let (p, f2) := fmul p c
    let (v, f3) := fsum false 0 [d, p]
    let (w, f4) := roundTo fp32 0 0 false v
    (w, ((f1 ||| f2 ||| f3) &&& fIV) ||| flagIf (f4 &&& fOF != 0) fACCINF)

/-- R193: MXSCA executed. -/
def State.runMxsca (s : State) (c : Nat) (h : EngCmd) (ts ta : Ty) (d t : Nat) : EngOut :=
  let k := s.coreOf c
  let rows := (List.range 16).map (fun i => (List.range 16).map (fun j =>
    let w := k.acc t i j
    let x := if ta = .i32 then FVal.ofInt w.toInt else fp32.val w.toNat
    scaElem (fp32.val (k.acc d i j).toNat) x (scaleOf ts (h.vecs.getD 0 0) i) (scaleOf ts (h.vecs.getD 1 0) j)))
  .done (s.modCore c (fun k => k.setAccRows d rows)) 0 (rowsFlags rows) [] 0

/-- R194: row i of a tile as a vector. -/
def Core.accRow (k : Core) (t i : Nat) : Vec := packLanes 32 ((List.range 16).map (fun j => (k.acc t i j).toNat))

/-- R195: the bytes of row i of MXST, with the flags. -/
def mxstRow (k : Core) (h : EngCmd) (t : Ty) (sat : Bool) (ti i : Nat) : List Byte × Flags :=
  match (if t = .f32 then none else tyFmt t) with
  | none => (vecBytes (k.accRow ti i), 0)
  | some f =>
    let rs := (List.range 16).map (fun j => roundTo f h.rnd (srDraw h.seed (16 * i + j)) sat (fp32.val (k.acc ti i j).toNat))
    (rs.flatMap (fun r => bytesOf 2 r.1), rs.foldl (fun a r => a ||| r.2) 0)

/-- R195: rows of MXST written in increasing order; on a fault, what it was. -/
def State.mxstRows (s : State) (c : Nat) (h : EngCmd) (glob : Bool) : List (Word × List Byte) → Except AccFault State
  | [] => .ok s
  | (a, bs) :: t =>
    match s.writeEng (h.who c a) h.system glob bs with
    | .error f => .error f
    | .ok s => s.mxstRows c h glob t

/-- R195: MXST executed. -/
def State.runMxst (s : State) (c : Nat) (h : EngCmd) (t : Ty) (sat : Bool) (ti : Nat) (sp : Space) : EngOut :=
  let a := h.ops.getD 0 0
  let st := h.ops.getD 1 0
  let glob := decide (sp = .glob)
  let rows := (List.range 16).map (fun i => mxstRow (s.coreOf c) h t sat ti i)
  let at' := fun (i : Nat) => a + BitVec.ofNat 64 i * st
  if !by64 a || !by64 st then mxEnd s 8 0
  else
    match s.mxstRows c h glob (rows.zipIdx.map (fun r => (at' r.2, r.1.1))) with
    | .ok t => .done t 0 (rows.foldl (fun f r => f ||| r.2) 0) [] 0
    | .error (.trans va) => .fault s va 0 true
    | .error (.line n inv) => .line n inv
    | .error .busy => .wait
    | .error (.abort cause x) => mxEnd s (abortCode cause) x

/-! Attention (R196 to R199). -/

/-- An FP32 result of an exact value: IV of its making, ACC_INF for an overflow when it counts. -/
def attnRound (inf : Bool) (x : FVal × Flags) : Nat × Flags :=
  let (c, f) := roundTo fp32 0 0 false x.1
  (c, (x.2 &&& fIV) ||| flagIf (inf && f &&& fOF != 0) fACCINF)

/-- R197: Exp2 of an FP32 encoding. -/
def exp2Code (y : Nat) : Nat := (roundTo fp32 0 0 false (fExp2 (fp32.val y)).1).1

/-- R198: Max, NaN if any operand is NaN. -/
def attnMax (xs : List Nat) : Nat :=
  if xs.any (fun x => fp32.val x == .nan) then fp32.nan
  else match xs with | [] => fp32.nan | x :: t => t.foldl (fmaxC fp32) x

/-- A sum of products rounded once. -/
def sumProds (ps : List (FVal × Flags)) : FVal × Flags :=
  let (v, f) := fsum false 0 (ps.map (·.1))
  (v, ps.foldl (fun a p => a ||| p.2) f)

/-- R198: what one query row comes to: m, l, the 128 outputs, and the flags. -/
structure AttnRow where
  m : Nat
  l : Nat
  o : List Nat
  fl : Flags

/-- R198: one query row against n keys. -/
def attnRow (q : List FVal) (ks vs : List (List FVal)) (scale m l : Nat) (o : List Nat) : AttnRow :=
  let ss := ks.map (fun k => matrixSum .fp32 0 q k)
  let xs := ss.map (fun r => attnRound false (fmul (fp32.val r.1) (fp32.val scale)))
  let mn := attnMax (m :: xs.map (·.1))
  let sub := fun (a : Nat) => attnRound false (fsum false 0 [fp32.val a, (fp32.val mn).negate])
  let low := fp32.val mn == .inf true
  let dm := sub m
  let dx := xs.map (fun x => sub x.1)
  let cf := if low then 0x3F800000 else exp2Code dm.1
  let ps := if low then xs.map (fun _ => 0) else dx.map (fun d => (roundTo bf16 0 0 false (fp32.val (exp2Code d.1))).1)
  let pv := ps.map bf16.val
  let l' := attnRound true (sumProds (fmul (fp32.val cf) (fp32.val l) :: pv.map (fun p => (p, 0))))
  let os := o.zipIdx.map (fun e =>
    attnRound true (sumProds (fmul (fp32.val cf) (fp32.val e.1) :: List.zipWith (fun p v => fmul p (v.getD e.2 .nan)) pv vs)))
  let f0 := ss.foldl (fun a r => a ||| (r.2 &&& fIV)) 0 ||| xs.foldl (fun a r => a ||| r.2) 0
  let f1 := if low then 0 else dm.2 ||| dx.foldl (fun a r => a ||| r.2) 0
  { m := mn, l := l'.1, o := os.map (·.1), fl := f0 ||| f1 ||| l'.2 ||| os.foldl (fun a r => a ||| r.2) 0 }

/-- R198: O(i, d) in the tiles. -/
def Core.attnO (k : Core) (i : Nat) : List Nat := (List.range 128).map (fun d => (k.acc (d / 16) i (d % 16)).toNat)

/-- R198: the attention state from 16 rows. -/
def Core.setAttn (k : Core) (rows : List AttnRow) : Core :=
  let k := (List.range 8).foldl (fun (k : Core) t => k.setAcc t (fun i j =>
    match rows[i]? with | some r => BitVec.ofNat 32 (r.o.getD (16 * t + j) 0) | none => 0)) k
  rows.zipIdx.foldl (fun (k : Core) r => { k with
    mxm := smSet (fun _ => 0xFF800000) k.mxm r.2 (BitVec.ofNat 32 r.1.m)
    mxl := smSet (fun _ => 0) k.mxl r.2 (BitVec.ofNat 32 r.1.l) }) k

/-- R198: MXATTN executed; its local regions are accesses as of MXMMA's operands (mxOperand). -/
def State.runMxattn (s : State) (c : Nat) (h : EngCmd) (q n : Nat) : EngOut :=
  let a := h.ops.getD 0 0
  let b := h.ops.getD 1 0
  let k := s.coreOf c
  if !by64 a || !by64 b then mxEnd s 8 0
  else
    match s.readL c (localOff a) (256 * n), s.readL c (localOff b) (256 * n) with
    | .error f, _ | .ok _, .error f => mxLocal s f
    | .ok kb, .ok vb =>
      let cut := fun (bs : List Byte) => (List.range n).map (fun j => rowVals bf16 ((bs.drop (256 * j)).take 256))
      let rows := (List.range 16).map (fun i =>
        attnRow (rowVals bf16 (k.slotBytes q (256 * i) 256)) (cut kb) (cut vb) k.ascale.toNat
          (k.attnM i).toNat (k.attnL i).toNat (k.attnO i))
      .done (s.modCore c (fun k => k.setAttn rows)) 0 (rows.foldl (fun f r => f ||| r.fl) 0) [] 0

/-- R199: row i of the outputs and its log-sum-exp, with the flags. -/
def afinRow (k : Core) (i : Nat) : List Byte × List Byte × Flags :=
  let l := fp32.val (k.attnL i).toNat
  let os := (k.attnO i).map (fun o => let (v, f) := fdiv (fp32.val o) l; ((roundTo bf16 0 0 false v).1, f))
  let (g, f1) := fLog2 l
  let (v, f2) := fsum false 0 [fp32.val (k.attnM i).toNat, g]
  (os.flatMap (fun o => bytesOf 2 o.1), bytesOf 4 (roundTo fp32 0 0 false v).1,
    os.foldl (fun a o => a ||| o.2) (f1 ||| f2))

/-- R199: MXAFIN executed; its local regions are accesses as of MXMMA's operands (mxOperand). -/
def State.runMxafin (s : State) (c : Nat) (h : EngCmd) : EngOut :=
  let a := h.ops.getD 0 0
  let b := h.ops.getD 1 0
  let k := s.coreOf c
  let rows := (List.range 16).map (afinRow k)
  let put := fun (s : State) (x : Nat × List Byte) => match s.writeL c x.1 x.2 with | .ok t => t | .error _ => s
  if !by64 a || !by64 b then mxEnd s 8 0
  else if k.locBad (localOff a) 4096 then mxEnd s 2 (BitVec.ofNat 64 (localOff a))
  else if k.locBad (localOff b) 64 then mxEnd s 2 (BitVec.ofNat 64 (localOff b))
  else
    let s := rows.zipIdx.foldl (fun s r =>
      put (put s (localOff a + 256 * r.2, r.1.1)) (localOff b + 4 * r.2, r.1.2.1)) s
    .done (s.modCore c Core.attnReset) 0 (rows.foldl (fun f r => f ||| r.2.2) 0) [] 0

/-- The effect of a matrix command (R180). -/
def State.runMatrixCmd (s : State) (c : Nat) (h : EngCmd) : EngOut :=
  let core := fun (f : Core → Core) => EngOut.done (s.modCore c f) 0 0 [] 0
  if (mxReads h.instr).any (s.coreOf c).badArrays.contains then mxEnd s 4 0
  else match h.instr with
  | .mxcfgAscale _ _ _ => core (fun k => { k with ascale := (h.ops.getD 0 0).setWidth 32 })
  | .mxcfgAreset _ _ => core Core.attnReset
  | .mxld _ _ f _ _ _ => s.runMxld c h f
  | .mxldv _ _ r64 o _ _ _ => s.runMxldv c h r64 o.val
  | .mxmma _ _ ta tb h16 d x y _ => s.runMxmma c h ta tb h16 d.val x y
  | .mxzero _ _ mask => core (fun k => (List.range 8).foldl (fun (k : Core) t => if mask.getLsbD t then k.setAcc t (fun _ _ => 0) else k) k)
  | .mxsca _ _ ts ta d t _ _ => s.runMxsca c h ts ta d.val t.val
  | .mxrd _ _ _ t row lg => .done s 0 0 ((List.range (2 ^ lg.val)).map (fun n => (s.coreOf c).accRow t.val (row.val + n))) 0
  | .mxst _ _ t sat _ ti _ _ sp _ => s.runMxst c h t sat ti.val sp
  | .mxattn _ _ q _ _ nm1 _ => s.runMxattn c h q.val (nm1.val + 1)
  | .mxafin _ _ _ _ _ => s.runMxafin c h
  | .mxprg _ _ => core (fun k => { k.attnReset with oslots := [], badArrays := [] })
  | _ => core id

/-- R46, R193: the sources of a late MXSCA: the registers captured at issue, and the entries its channels give. -/
def fillSrcs : List VSrc → List Vec → List Vec → List Vec
  | [], _, _ => []
  | .reg _ :: t, v :: regs, ents => v :: fillSrcs t regs ents
  | .chan _ :: t, regs, e :: ents => e :: fillSrcs t regs ents
  | _ :: t, regs, ents => 0 :: fillSrcs t regs ents

/-- R46: what a matrix command whose guard has acted gets from its slot: an MXSCA the entries of its channels, for which it waits, an
MXST the draw of its rounding. -/
def State.lateMatrix (c : Nat) (s : State) (h : EngCmd) : State × EngCmd :=
  let x := s.slotOf c h.slot
  match h.instr with
  | .mxsca _ _ _ _ _ _ a b =>
    (match h.lateFault with
     | some f => s.takeLate c h f
     | none =>
       if !x.chansReady (chansOf [a, b]) then (s, h)
       else
         let r := { s with cur := (c, h.slot) }.readSrcs [a, b] []
         let vs := if h.vecs.length = 2 then h.vecs else fillSrcs [a, b] h.vecs r.2.1
         ({ r.2.2 with cur := s.cur }, { h with vecs := vs, late := false }))
  | .mxst _ _ _ _ _ _ _ _ _ _ =>
    let seed := srAdvance x.srseed
    (s.modSlot c h.slot (fun x => { x with srseed := seed }), { h with seed := seed, late := false })
  | _ => (s, { h with late := false })

/-- R180, R182: MATRIX_COMMAND_START. -/
def execMatrixCommandStart (core : Nat) (s : State) : Out :=
  .next ((s.lateHead core .matrix (State.lateMatrix core)).startHead core .matrix (fun s h => (s.cmdAcq core h).runMatrixCmd core h))

/-! Completion. -/

/-- R182, R94: the head command of an engine completes once its release is done and its block acknowledged. -/
def State.completeHead (s : State) (c : Nat) (e : Engine) : State :=
  let q := (s.coreOf c).eng e
  match q.q, q.running with
  | h :: t, some r =>
    if r.waitHeld && s.relWaits c h then s
    else
      let fin := fun (s : State) (r : EngRun) =>
        let s := if r.status ≠ 0 && e == .matrix then s.spoilCmd c h else s
        let s := (s.modEng c e (fun q => { q with q := t, running := none })).endForward h
        let s := if s.cmdLive c h then s.giveCmd c h r else s.dropCmd c h r
        (match h.instr with
         | .mxwait _ => if s.cmdLive c h then s.endMxwait c h else s
         | _ => s)
      match r.waitAck with
      | none => fin s r
      | some (ring, blk) =>
        match s.ackStatus ring blk with
        | none => s
        | some st => fin (s.dropAck ring blk) { r with status := if r.status = 0 then st else r.status }
  | _, _ => s

/-- R182: COMMAND_COMPLETION. -/
def execCommandCompletion (core : Nat) (e : Engine) (s : State) : Out := .next (s.completeHead core e)


/-- R190: MXLDV_ROW_FAULT: the issuer stops before its next issue unit; one that is in fault service stops afterwards; with the
issuer gone, fault service serves the engine. -/
def State.raiseRowFault (s : State) (c : Nat) : State :=
  let q := (s.coreOf c).matrix
  match q.q, q.fault with
  | h :: _, some f =>
    let x := s.slotOf c h.slot
    let raise := fun (n : Nat) (w : WorkItem) (s : State) =>
      (s.modEng c .matrix (fun q => { q with fault := some { f with raised := n } })).modCore c (fun k => { k with work := k.work ++ [w] })
    if f.raised = 2 then s
    else if !s.cmdLive c h then raise 2 (.engService .matrix) s
    else if f.raised = 1 ∨ x.mode ≠ .running then s
    else
      let s := s.modSlot c h.slot (fun x => { x with
        mode := .faultService, sb := [], sbWait := none
        frec := { mkRec x h.slot true ⟨0x11, f.addr, 0, 0⟩ h.pc x.pc with cycle := f.cycle, since := f.since } })
      raise 1 (.service h.slot) s
  | _, _ => s

/-- R190: MXLDV_ROW_FAULT. -/
def execMxldvRowFault (core : Nat) (s : State) : Out := .next (s.raiseRowFault core)

end Sys2Proof.Machine
end

