-- ==== Sys2Proof/Machine/Ring.lean ====
section
/-! DEFINITION. Meanings: rings (R326 to R334) and the start of the copy engine's head command (R172). -/
namespace Sys2Proof.Machine

/-- A ring of this package. -/
def State.ringOf (s : State) (r : Nat) : Option Ring := smGet (fun _ => none) s.rings r

/-- A ring set up or torn down. -/
def State.setRing (s : State) (r : Nat) (g : Option Ring) : State := { s with rings := smSet (fun _ => none) s.rings r g }

/-! Set-up (R328). -/

/-- R328: a ring descriptor. -/
structure RingDesc where
  rid : Nat
  ring : Ring
  /-- every field in range and every reserved bit zero -/
  ok : Bool

/-- R328: the descriptor of 1,088 bytes. -/
def parseRing (bs : List Byte) : RingDesc :=
  let n := fun (at' k : Nat) => wordOfBytes ((bs.drop at').take k)
  let nland := n 2 2
  let ents := (List.range 256).map (fun j => n (64 + 4 * j) 4)
  let lands := (ents.take nland).map (fun e => (bits e 11 0, bits e 23 16))
  let r : Ring := {
    s := n 1 1, hid := n 4 1, queue := n 5 1, prio := n 6 1, pred := n 8 2, succ := n 10 2, csize := n 12 4,
    pports := n 16 4, sports := n 20 4, lands := lands }
  { rid := n 0 1
    ring := r
    ok := decide (n 0 1 ≤ 15) && decide (2 ≤ r.s ∧ r.s ≤ 16) && decide (1 ≤ nland ∧ nland ≤ 256) && decide (16 ≤ r.hid) &&
      decide (1 ≤ r.queue ∧ r.queue ≤ 7) && decide (r.prio < 32) && n 7 1 == 0 && decide (r.pred < 1024) && decide (r.succ < 1024) &&
      r.csize % 1024 == 0 && decide (1024 ≤ r.csize ∧ r.csize ≤ 65536) && decide (r.pports < 2 ^ 18) && decide (r.sports < 2 ^ 18) &&
      ((bs.drop 24).take 40).all (· == 0) && ents.all (fun e => bits e 15 12 == 0 && bits e 31 24 == 0) &&
      (ents.drop nland).all (· == 0) }

/-- R325, R328: a mask names at least one port and only ports that are up. -/
def State.portsUp (s : State) (mask : Nat) : Bool :=
  mask != 0 && (List.range 18).all (fun p => mask / 2 ^ p % 2 == 0 || (let x := smGet (fun _ => {}) s.ports p; x.lo || x.hi))

/-- R323: a package of the pod in service. -/
def State.inPod (s : State) (p : Nat) : Bool := p == Config.pkg || !s.pkgDown p

/-- R328: the range of crate c of a landing core. -/
def crateRange (r : Ring) (basek c : Nat) : Nat × Nat := (basek * 1024 + c * r.csize, r.csize)

/-- R164: bank b has the operand role and keeps it: it is not being retired, and no change of roles that waits takes it. -/
def Core.operandBank (k : Core) (b : Nat) : Bool :=
  k.role b == 2 && !k.retiring.contains b &&
  (match k.rolePend with | some p => bits p.1.toNat (2 * b + 1) (2 * b) == 2 | none => true)

/-- R165, R328: n bytes from an offset lie in operand-role banks and in no reservation. -/
def Core.operandFree (k : Core) (g : Nat × Nat) : Bool :=
  decide (g.1 + g.2 ≤ 262144) &&
  (List.range ((g.1 + g.2 - 1) / 8192 + 1 - g.1 / 8192)).all (fun i => k.operandBank (g.1 / 8192 + i)) &&
  !k.res.any (fun r => r.ranges.any (fun h => decide (g.1 < h.1 + h.2 ∧ h.1 < g.1 + g.2)))

/-- R328: the answer to a set-up notice by a ring that is set up here: a match, or a refusal and the ring in error. -/
def State.answerNotice (s : State) (w : RingNotice) : State :=
  match s.ringOf w.ring with
  | none => { s with ringPend := s.ringPend ++ [w] }
  | some r =>
    let ok := (if w.fromPred then r.pred == w.peer else r.succ == w.peer) && r.s == w.s && r.csize == w.csize
    let s := s.out (.ringAnswer w.ring (!w.fromPred) ok)
    if ok then s else s.setRing w.ring (some { r with err := true })

/-- R328: a ring set up from a descriptor: the new state and the status. -/
def State.ringSetup (s : State) (bs : List Byte) : State × Nat :=
  let d := parseRing bs
  let r := d.ring
  let cores : List Nat := r.lands.map (·.1)
  if !d.ok || r.pred == Config.pkg || r.succ == Config.pkg || !s.portsUp r.pports || !s.portsUp r.sports || !decide cores.Nodup then (s, 8)
  else
    let crates := fun (b : Nat) => (List.range r.s).map (fun c => crateRange r b c)
    let bad := fun (l : Nat × Nat) =>
      let k := s.coreOf l.1
      !k.svc.mapped || decide (128 < k.res.length + r.s) || !(crates l.2).all k.operandFree
    if (s.ringOf d.rid).isSome || !s.inPod r.pred || !s.inPod r.succ || r.lands.any bad then (s, 7)
    else
      let s := r.lands.foldl (fun s l => s.modCore l.1 (fun k => { k with
        res := k.res ++ (crates l.2).zipIdx.map (fun g =>
          { owner := .crate d.rid g.2, ranges := [g.1], state := .filling : Reservation }) })) s
      let s := s.setRing d.rid (some r)
      let s := (s.out (.ringNotice d.rid true r.s r.csize)).out (.ringNotice d.rid false r.s r.csize)
      let mine := s.ringPend.filter (fun w => w.ring == d.rid)
      let s := { s with ringPend := s.ringPend.filter (fun w => w.ring != d.rid) }
      (mine.foldl (fun s w => s.answerNotice w) s, 0)

/-- R329: a ring torn down if it is quiescent here: the new state and the status. -/
def State.ringTeardown (s : State) (rid : Nat) : State × Nat :=
  match s.ringOf rid with
  | none => (s, 7)
  | some r =>
    if !r.awaitRel.isEmpty || decide (r.inNext < r.arrived) then (s, 7)
    else
      let s := r.lands.foldl (fun s l => s.modCore l.1 (fun k => { k with
        res := k.res.filter (fun x => match x.owner with | .crate q _ => q != rid | .txn _ => true) })) s
      (((s.setRing rid none).out (.ringTeardown rid true)).out (.ringTeardown rid false), 0)

/-! Issue (R331, R332). -/

/-- R331: a command of a system activation. Under a pending guard another activation takes no fault (R46): the command ends with status
0x01 if the guard acts. -/
def State.systemCmd (s : State) (g : Guard) (tok : Tok) (cmd : EngCmd) (f : State → State) : State :=
  if s.isSystem then f s
  else if s.guardPends g then (s.enqueue .copy g tok [] { cmd with pre := some 1 }).complete
  else s.abortMe ⟨0x07, 0, 0, 0⟩

/-- R331: RINGCFG; its descriptor is read at issue. -/
def execRingcfg (g : Guard) (tok : Tok) (a : Sreg) (imm : BitVec 32) (sp : Space) (s : State) : Out :=
  engineOp g tok (fun s =>
    let at' := s.me.s a + sext32 imm
    let cmd := mkCmd (.ringcfg g tok a imm sp) [at']
    s.systemCmd g tok cmd (fun s =>
      s.withDesc g sp at' 1088 (fun s bs l =>
        (s.enqueue .copy g tok [] { cmd with data := bs, late := l.isSome, lateFault := l }).complete))) s

/-- R329, R331: RINGCFG .off. -/
def execRingcfgOff (g : Guard) (tok : Tok) (ring : Fin 16) (s : State) : Out :=
  engineOp g tok (fun s =>
    let cmd := mkCmd (.ringcfgOff g tok ring) []
    s.systemCmd g tok cmd (fun s => (s.enqueue .copy g tok [] cmd).complete)) s

/-- R329, R332: the status of a command on a ring that is not set up or in error. -/
def ringStatus : Option Ring → Nat
  | none => 7
  | some r => if r.lost then 5 else if r.err then 7 else 0

/-- R166, R327: crate c of a ring is held on a core. -/
def Core.crateHeld (k : Core) (ring c : Nat) : Option Reservation :=
  k.res.find? (fun x => decide (x.owner = .crate ring c) && decide (x.state = .held))

/-- R332: the block number of a command on a ring, taken now or before (mine), and whether its credit has come. inblk: the block an
RFWD forwards. -/
def State.ringTake (s : State) (ring : Nat) (mine inblk : Option Nat) : State × Nat × Bool :=
  match s.ringOf ring with
  | none => (s, 0, false)
  | some r =>
    let n := mine.getD r.outn
    let s := if mine.isSome then s else s.setRing ring (some { r with outn := n + 1 })
    let ok := decide (n < r.credit)
    (match inblk with
     | some b => if ok then s.modRing ring (fun r => { r with forwarding := r.forwarding ++ [b] }) else s
     | none => s, n, ok)

/-- R332: the block number that the activation of a slot has taken on a ring. -/
def Slot.ringMine (x : Slot) (ring : Nat) : Option Nat :=
  match x.act.bind (·.ringNum) with
  | some (r, n) => if r = ring then some n else none
  | none => none

/-- R332: an RSEND or RFWD at issue. st: the status that refuses it; else it takes a block number, waits for its credit and
enters the queue. Under a pending guard it enters the queue at once and does so when the guard acts (R46). -/
def State.ringIssue (s : State) (g : Guard) (tok : Tok) (d : Sreg) (ring : Nat) (st : Nat) (inblk : Option Nat) (cmd : EngCmd) : State :=
  let done := fun (s : State) => s.modMyAct (fun a => { a with ringNum := none })
  if s.guardPends g then
    let (x, id) := s.me.track .arith .scalar d.val 0 false none
    ((s.modMe (fun _ => x)).enqueue .copy g tok [] { cmd with late := true, num := some id }).complete
  else if st ≠ 0 then
    (((done s).enqueue .copy g tok [] { cmd with pre := some st }).modMe (fun x => x.setS d 0)).complete
  else
    let (s, n, ok) := s.ringTake ring (s.me.ringMine ring) inblk
    if ok then
      (((done s).enqueue .copy g tok [] { cmd with blk := n }).modMe (fun x => x.setS d (BitVec.ofNat 64 (n % 2 ^ 32)))).complete
    else { s.modMyAct (fun a => { a with ringNum := some (ring, n) }) with pairNext := none }

/-- R332: what refuses an RSEND of n bytes. -/
def State.rsendStatus (s : State) (ring n : Nat) : Nat :=
  let r := s.ringOf ring
  if ringStatus r ≠ 0 then ringStatus r
  else if n == 0 || (match r with | some r => decide (r.csize < n) | none => false : Bool) then 8 else 0

/-- R332: what refuses an RFWD of a crate by a core; the crate is looked at before the number is taken. -/
def State.rfwdStatus (s : State) (core ring crate : Nat) (taken : Bool) : Nat :=
  let r := s.ringOf ring
  let bad : Bool := match r with
    | some r => (r.lands.head?.map (·.1)) != some core || decide (r.s ≤ crate) || ((s.coreOf core).crateHeld ring crate).isNone
    | none => true
  if ringStatus r ≠ 0 then ringStatus r else if bad && !taken then 7 else 0

/-- R332: RSEND. -/
def execRsend (g : Guard) (tok : Tok) (glob : Bool) (d : Sreg) (ring : Fin 16) (a b : Sreg) (o : Order) (s : State) : Out :=
  engineOp g tok (fun s =>
    s.ringIssue g tok d ring.val (s.rsendStatus ring.val (s.me.s b).toNat) none
      (mkCmd (.rsend g tok glob d ring a b o) [s.me.s a, s.me.s b])) s

/-- R332: RFWD. -/
def execRfwd (g : Guard) (tok : Tok) (d : Sreg) (ring : Fin 16) (a : Sreg) (s : State) : Out :=
  engineOp g tok (fun s =>
    let c := (s.me.s a).toNat
    let b := ((s.myCore.crateHeld ring.val c).map (·.blk)).getD 0
    s.ringIssue g tok d ring.val (s.rfwdStatus s.cur.1 ring.val c (s.me.ringMine ring.val).isSome) (some b)
      (mkCmd (.rfwd g tok d ring a) [s.me.s a, BitVec.ofNat 64 b])) s

/-- R332, R46: an RSEND or RFWD whose guard has acted is refused, or takes its number and waits for its credit; its sD lands. -/
def State.lateRing (s : State) (c : Nat) (h : EngCmd) (ring st : Nat) (inblk : Option Nat) : State × EngCmd :=
  let give := fun (s : State) (n : Nat) =>
    match h.num with
    | some id => (s.modSlot c h.slot (fun x => x.giveValue id (vecOf (n % 2 ^ 32)))).landIds c h.slot [id]
    | none => s
  if st ≠ 0 then (give s 0, { h with pre := some st, late := false })
  else
    let (s, n, ok) := s.ringTake ring h.lateBlk inblk
    if ok then (give s n, { h with blk := n, late := false }) else (s, { h with lateBlk := some n })

/-- R46: what a command of the copy engine's queue whose guard has acted gets from its slot. -/
def State.lateCopy (c : Nat) (s : State) (h : EngCmd) : State × EngCmd :=
  match h.instr with
  | .rsend _ _ _ _ ring _ _ _ => s.lateRing c h ring.val (s.rsendStatus ring.val (h.ops.getD 1 0).toNat) none
  | .rfwd _ _ _ ring _ =>
    let i := (h.ops.getD 0 0).toNat
    let b := (((s.coreOf c).crateHeld ring.val i).map (·.blk)).getD 0
    s.lateRing c { h with ops := [h.ops.getD 0 0, BitVec.ofNat 64 b] } ring.val (s.rfwdStatus c ring.val i h.lateBlk.isSome) (some b)
  | .cpy2d _ _ _ _ sp _ => s.lateRead c h sp 64
  | .ringcfg _ _ _ _ sp => s.lateRead c h sp 1088
  | _ => (s, { h with late := false })

/-- R333: RFREE. -/
def execRfree (g : Guard) (tok : Tok) (ring : Fin 16) (a : Sreg) (s : State) : Out :=
  engineOp g tok (fun s => (s.enqueue .copy g tok [] (mkCmd (.rfree g tok ring a) [s.me.s a])).complete) s

/-! Execution. -/

/-- R332: a block is sent; the command waits for its acknowledgement. -/
def State.sendBlock (s : State) (c ring : Nat) (h : EngCmd) (count origin : Nat) (data : List Byte) : EngOut :=
  let s := s.modRing ring (fun r => { r with awaitRel := r.awaitRel ++ [h.blk] })
  let s := s.out (.ringBlock ring h.blk count origin data)
  .done (s.modEng c .copy (fun q => { q with running := q.running.map (fun r => { r with waitAck := some (ring, h.blk) }) })) 0 0 [] 0

/-- R332: RSEND executed. -/
def State.runRsend (s : State) (c : Nat) (h : EngCmd) (glob : Bool) (ring : Nat) : EngOut :=
  let n := (h.ops.getD 1 0).toNat
  let st := ringStatus (s.ringOf ring)
  if st ≠ 0 then .early s st 0
  else
    let s := s.cmdAcq c h
    match s.readEng c h.asid.toNat glob (h.ops.getD 0 0) n with
    | .error (.trans va) => .fault s va 0 false
    | .error (.line l inv) => .line l inv
    | .error .busy => .wait
    | .error (.abort cause a) => .early (s.skipTaken ring h.blk) (abortCode cause) a
    | .ok bs => (s.acqSpan c h glob (h.ops.getD 0 0) n).sendBlock c ring h n Config.pkg bs

/-- R332: RFWD executed. -/
def State.runRfwd (s : State) (c : Nat) (h : EngCmd) (ring : Nat) : EngOut :=
  let k := s.coreOf c
  let st := ringStatus (s.ringOf ring)
  if st ≠ 0 then .early s st 0
  else
    match k.crateHeld ring (h.ops.getD 0 0).toNat with
    | none => .early s 7 0
    | some x =>
      if x.blk ≠ (h.ops.getD 1 0).toNat then .early s 7 0
      else match s.readL c ((x.ranges.headD (0, 0)).1) x.count with
        | .ok bs => s.sendBlock c ring h x.count x.origin bs
        | .error f => .early (s.skipTaken ring h.blk) (match f with | .abort cause _ => abortCode cause | .trans _ | .line _ _ | .busy => 2) f.addr

/-- R333: RFREE executed: it takes effect once every matrix command issued before it has completed. -/
def State.runRfree (s : State) (c : Nat) (h : EngCmd) (ring : Nat) : EngOut :=
  let i := (h.ops.getD 0 0).toNat
  let k := s.coreOf c
  let bad : Bool := match s.ringOf ring with
    | none => true
    | some r => !(r.lands.map (·.1)).contains c || decide (r.s ≤ i) || (k.crateHeld ring i).isNone
  if bad then .early s 7 0
  else if k.matrix.q.any (fun m => decide (m.ord < h.ord)) then .wait
  else .early (s.due (.crateRelease ring c i)) 0 0

/-- The effect of a command of the copy engine's queue (R172, R331). -/
def State.runCopyQueue (s : State) (c : Nat) (h : EngCmd) : EngOut :=
  match h.pre with
  | some st => .early s st 0
  | none =>
    match h.instr with
    | .ringcfg _ _ _ _ _ => let (t, st) := s.ringSetup h.data; .early t st 0
    | .ringcfgOff _ _ ring => let (t, st) := s.ringTeardown ring.val; .early t st 0
    | .rsend _ _ glob _ ring _ _ _ => s.runRsend c h glob ring.val
    | .rfwd _ _ _ ring _ => s.runRfwd c h ring.val
    | .rfree _ _ ring _ => s.runRfree c h ring.val
    | _ => s.runCopyCmd c h

/-- R172: COPY_COMMAND_START. -/
def execCopyCommandStart (core : Nat) (s : State) : Out :=
  .next ((s.lateHead core .copy (State.lateCopy core)).startHead core .copy (fun s h => s.runCopyQueue core h))

/-! What reaches the ring unit (R326 to R329, R332, R333). -/

/-- R327: the arrival message of a block for a landing core. -/
def arrivalMessage (ring : Nat) (r : Ring) (core blk count origin : Nat) : Message where
  dest := globalCore core
  queue := r.queue
  hid := r.hid
  len := 1
  kind := .crate
  prio := r.prio
  clines := 0
  src := r.pred % 1024 * 4096
  agent := true
  msgid := blk % 2 ^ 32
  payload := bytesOf 1 ring ++ bytesOf 1 (blk % r.s) ++ bytesOf 2 0 ++ bytesOf 4 blk ++ bytesOf 4 count ++ bytesOf 2 origin ++ bytesOf 2 0

/-- R327: the arrival message of block n is placed on a landing core where it lies in its crate. -/
def State.placeArrival (s : State) (ring : Nat) (r : Ring) (n : Nat) (l : Nat × Nat) : State :=
  match (s.coreOf l.1).res.find? (fun x => decide (x.owner = .crate ring (n % r.s)) && x.landed && x.blk == n) with
  | none => s
  | some x => s.due (.messageArrival l.1 (arrivalMessage ring r l.1 n x.count x.origin))

/-- R327, R332: the arrivals of a ring are placed in block order, as far as blocks have landed, or been skipped or released. -/
def State.tellArrivals (s : State) (ring : Nat) : Nat → State
  | 0 => s
  | fuel + 1 =>
    match s.ringOf ring with
    | none => s
    | some r =>
      let n := r.told
      let s' := s.setRing ring (some { r with told := n + 1, waiting := r.waiting.filter (· != n) })
      if r.waiting.contains n then (r.lands.foldl (fun s l => s.placeArrival ring r n l) s').tellArrivals ring fuel
      else if r.skipped.contains n || decide (n < r.inNext) then s'.tellArrivals ring fuel
      else s

/-- R326: block n may come now: its crate has been released, and it has neither come nor been skipped. -/
def Ring.awaits (r : Ring) (n : Nat) : Bool :=
  decide (r.told ≤ n) && decide (r.inNext ≤ n) && decide (n < r.inNext + r.s) && !r.waiting.contains n && !r.skipped.contains n

/-- R333, R326: the crate of a core, in the states named, goes back to filling and is reported to the ring unit. -/
def State.freeCrate (s : State) (ring c i : Nat) (p : Reservation → Bool) : State :=
  match (s.coreOf c).res.find? (fun x => decide (x.owner = .crate ring i) && p x) with
  | none => s
  | some x =>
    let s := s.modCore c (fun k => { k with
      res := k.res.map (fun y => if y.owner = .crate ring i then { y with state := .filling, landed := false } else y) })
    (s.modRing ring (fun r => { r with freed := r.freed ++ [(x.blk, c)] })).tellArrivals ring 64

/-- R333: CRATE_RELEASE. -/
def execCrateRelease (ring core crate : Nat) (s : State) : Out :=
  .next (s.freeCrate ring core crate (fun x => x.state == .held))

/-- R328: RING_SETUP_NOTICE. -/
def execRingSetupNotice (ring : Nat) (fromPred : Bool) (peer n csize : Nat) (s : State) : Out :=
  .next (s.answerNotice ⟨ring, fromPred, peer, n, csize⟩)

/-- R328: RING_SETUP_ANSWER: a match of the successor carries the S initial releases; a refusal puts the ring in error. -/
def execRingSetupAnswer (ring : Nat) (fromSucc ok : Bool) (s : State) : Out :=
  .next (match s.ringOf ring with
    | none => s
    | some r =>
      let r := if !ok then { r with err := true }
        else if fromSucc then (if r.succMatch then r else { r with succMatch := true, credit := r.s })
        else { r with predMatch := true }
      s.setRing ring (some r))

/-- R327: a block lands in its crate on one core: its bytes, and zeros behind them. -/
def State.landBlock (s : State) (ring : Nat) (r : Ring) (blk origin : Nat) (data : List Byte) (l : Nat × Nat) : State :=
  let i := blk % r.s
  let g := crateRange r l.2 i
  let s := s.modCore l.1 (fun k => { (k.wrLoc (placed g.1 (padTo r.csize data))) with
    res := k.res.map (fun y => if y.owner = .crate ring i
      then { y with blk := blk, count := data.length, origin := origin, landed := true } else y) })
  s.fire (fun w => w.loc && w.core == l.1 && decide (w.atom * 32 < g.1 + r.csize ∧ g.1 < w.atom * 32 + 32))

/-- R326, R327, R329: RING_BLOCK_ARRIVAL; a block for a ring that is not set up is discarded; one whose crate has not been released, or
that has come before, is none that a ring unit sends (log 58). -/
def execRingBlockArrival (ring blk origin : Nat) (data : List Byte) (s : State) : Out :=
  .next (match s.ringOf ring with
    | none => s.out (.ringAck ring blk false)
    | some r =>
      if !r.awaits blk then s
      else
        let s := s.setRing ring (some { r with arrived := Nat.max r.arrived (blk + 1), waiting := r.waiting ++ [blk] })
        ((r.lands.foldl (fun s l => s.landBlock ring r blk origin (data.take r.csize) l) s).tellArrivals ring 64).out (.ringAck ring blk true))

/-- R332: RING_BLOCK_ACK. -/
def execRingBlockAck (ring blk : Nat) (ok : Bool) (s : State) : Out :=
  .next (s.modRing ring (fun r => { r with acks := r.acks ++ [(blk, ok)] }))

/-- R326: RING_RELEASE_ARRIVAL. -/
def execRingReleaseArrival (ring : Nat) (s : State) : Out :=
  .next (s.modRing ring (fun r => { r with credit := r.credit + 1, awaitRel := r.awaitRel.drop 1 }))

/-- R332: RING_SKIP_NOTICE: the block is released at once, in its place, and has no arrival. -/
def execRingSkipNotice (ring blk : Nat) (s : State) : Out :=
  .next (match s.ringOf ring with
    | none => s
    | some r =>
      if !r.awaits blk then s
      else (s.modRing ring (fun r => { r with skipped := r.skipped ++ [blk], arrived := Nat.max r.arrived (blk + 1) })).tellArrivals ring 64)

/-- R329: RING_TEARDOWN_NOTICE. -/
def execRingTeardownNotice (ring : Nat) (s : State) : Out :=
  .next (s.modRing ring (fun r => { r with credit := 0, err := true }))

end Sys2Proof.Machine
end

