-- ==== Sys2Proof/Machine/Message.lean ====
section
/-! DEFINITION. Meanings: messages (R208, R213, R217, R218), channels (R221 to R223), BAR (R88) and SPAWN (R355). -/
namespace Sys2Proof.Machine

/-! The handler table (R207, R208). -/

/-- R207: what an entry that no HTSET has written holds: firmware's entries 0 to 2, else empty. -/
def handlerDefault (id : Nat) : Handler := if id < 3 then { code := Config.firmwarePc id, attr := 1 } else {}

/-- R207: an entry of a core's table. -/
def Core.handlerOf (k : Core) (id : Nat) : Handler := smGet handlerDefault k.handlers id

/-- R207: V and CLASS. -/
def Handler.valid (h : Handler) : Bool := h.attr.getLsbD 0
def Handler.cls (h : Handler) : Nat := bits h.attr.toNat 2 1

/-- R208: HTSET. -/
def execHtset (g : Guard) (d a b c : Sreg) (id : Fin 256) (s : State) : Out :=
  guarded g (fun s =>
    let x := s.me
    if (decide (id.val < 16) && !s.isSystem) || bits (x.s c).toNat 63 3 != 0 then s.abortMe ⟨0x07, 0, 0, 0⟩
    else
      let old := (s.myCore.handlerOf id.val).attr
      let h : Handler := ⟨x.s a, x.s b, x.s c⟩
      let s := s.modMyCore (fun k => { k with handlers := smSet handlerDefault k.handlers id.val h })
      (s.modMe (fun x => x.setS d old)).complete) s

/-! The send family (R213). -/

/-- R203, R213: the message a slot sends. -/
def State.newMessage (s : State) (kind : MsgKind) (dest id hid q len lines : Nat) (pl : List Byte) : Message where
  dest := dest
  queue := q
  hid := hid
  len := len
  kind := kind
  prio := s.me.level
  clines := lines
  src := globalCore s.cur.1
  agent := s.isSystem
  msgid := id
  payload := pl

/-- R213: a message enters the send buffer and the instruction completes; d: the register that gets the id. -/
def State.buffer (s : State) (m : Message) (d : Option Sreg) : State :=
  let e : SendEntry := ⟨m, s.cur.2, (s.myAct.map (·.serial)).getD 0, false⟩
  let s := s.modMyCore (fun k => { k with sendBuf := k.sendBuf ++ [e] })
  (match d with | some r => s.modMe (fun x => x.setS r (BitVec.ofNat 64 m.msgid)) | none => s).complete

/-- R213: the mould: the checks, the id, the buffer. pl: what the checks of the instruction come to. -/
def State.sendMould (s : State) (kind : MsgKind) (d a : Sreg) (hid q len lines : Nat) (pl : Except FaultInfo (List Byte)) : State :=
  match pl with
  | .error f => s.abortMe f
  | .ok bs =>
    let dest := (s.me.s a).toNat
    let id := s.myCore.nextId
    let s := s.modMyCore (fun k => { k with nextId := k.nextId + 1 })
    s.buffer (s.newMessage kind dest id.toNat hid q len lines bs) (some d)

/-- R213: the local payload of the issuing slot's message, with the checks that come before it. -/
def State.sendLocal (s : State) (a b : Sreg) (len : Nat) : Except FaultInfo (List Byte) :=
  s.sendCheck s.cur.1 s.cur.2 a (s.localPayload s.cur.1 s.cur.2 b len)

/-- R213: SEND. -/
def execSend (g : Guard) (d a b : Sreg) (hid : Fin 256) (q : Fin 8) (len : Fin 16) (s : State) : Out :=
  guarded g (fun s => s.sendMould .plain d a hid.val q.val len.val 0 (s.sendLocal a b len.val)) s

/-- R213: SENDV. -/
def execSendv (g : Guard) (d a : Sreg) (b : Vreg) (hid : Fin 256) (q : Fin 8) (len : Fin 16) (s : State) : Out :=
  guarded g (fun s =>
    s.sendMould .plain d a hid.val q.val len.val 0 (s.sendCheck s.cur.1 s.cur.2 a (s.me.vectorPayload b len.val))) s

/-- R213, R217: SENDC. -/
def execSendc (g : Guard) (d a b : Sreg) (hid : Fin 256) (q : Fin 8) (len : Fin 16) (lines : Fin 4) (s : State) : Out :=
  guarded g (fun s => s.sendMould .code d a hid.val q.val len.val lines.val (s.sendLocal a b len.val)) s

/-- R213: REPLY. -/
def execReply (g : Guard) (b : Sreg) (hid : Fin 256) (q : Fin 8) (len : Fin 16) (s : State) : Out :=
  guarded g (fun s =>
    let x := s.me
    match s.replyCheck s.cur.1 s.cur.2 (s.localPayload s.cur.1 s.cur.2 b len.val) with
    | .error f => s.abortMe f
    | .ok bs => s.buffer (s.newMessage .reply (x.msgSrc.toNat % 2 ^ 22) x.msgId.toNat hid.val q.val len.val 0 bs) none) s

/-! QCFG (R218). -/

/-- R218: SIZE of every queue of a core but one. -/
def Core.otherSizes (k : Core) (q : Nat) : Nat :=
  ((List.range 8).filter (· != q)).foldl (fun a i => a + (k.queueOf i).size) 0

/-- R218: an allowed number of heap records. -/
def heapOk (n : Nat) : Bool := n == 0 || (List.range 17).any (fun b => n == 2 ^ b)

/-- R218: the record's fields are in range. -/
def qcfgOk (bs : List Byte) : Bool :=
  let n := fun (o l : Nat) => wordOfBytes ((bs.drop o).take l)
  n 3 5 == 0 && n 28 4 == 0 && decide (n 0 2 ≤ 128) && decide (n 2 1 < 4) &&
  (n 8 8 == 0 || (decide (2 ^ 16 ≤ n 8 8) && decide (n 8 8 ≤ 2 ^ 32))) && n 16 8 % 256 == 0 && heapOk (n 24 4) &&
  !(n 2 1 % 2 == 1 && n 24 4 == 0)

/-- R218: the record applied. -/
def Queue.configure (q : Queue) (bs : List Byte) : Queue :=
  let n := fun (o l : Nat) => wordOfBytes ((bs.drop o).take l)
  { q with
    size := n 0 2, spill := n 2 1 % 2 == 1, code := n 2 1 / 2 % 2 == 1
    budget := if n 8 8 = 0 then 2 ^ 24 else n 8 8
    heapBase := BitVec.ofNat 64 (n 16 8), heapCap := n 24 4, heapHead := 0 }

/-- R218: QCFG. The queue holds the messages of its inbox and its heap, not one that waits in the porter's work list for its heap write or
in the agent port (DESIGN CHOICE, log 61: the rule does not say). -/
def execQcfg (g : Guard) (d a : Sreg) (q : Fin 8) (s : State) : Out :=
  guarded g (fun s =>
    let off := localOff (s.me.s a)
    if q = 0 ∧ !s.isSystem then s.abortMe ⟨0x07, 0, 0, 0⟩
    else if off % 32 ≠ 0 then s.abortMe ⟨0x06, BitVec.ofNat 64 off, 0, 0⟩
    else
      match s.readL s.cur.1 off 32 with
      | .error f => s.takeAcc f
      | .ok bs =>
        let k := s.myCore
        let x := k.queueOf q.val
        let st := if !qcfgOk bs then 3
          else if !x.msgs.isEmpty || decide (0 < x.heapCount) || x.run || x.held then 1
          else if 128 < k.otherSizes q.val + wordOfBytes (bs.take 2) then 2 else 0
        let s := if st = 0 then s.modMyCore (fun k => k.modQueue q.val (fun x => x.configure bs)) else s
        s.putS .arith d (BitVec.ofNat 64 st) 0) s

/-! Pipes (R220 to R223). -/

/-- R220: the fields of a route tag. -/
def tagGid (t : Word) : Nat := bits t.toNat 63 32
def tagCore (t : Word) : Nat := bits t.toNat 31 10
def tagSlot (t : Word) : Nat := bits t.toNat 9 7
def tagChan (t : Word) : Nat := t.toNat % 8

/-- R68: the gang id of the running activation, 0 outside a gang. -/
def Slot.gid (x : Slot) : Nat := if x.gangInfo.getLsbD 31 then bits x.gangInfo.toNat 63 32 else 0

/-- R221: the checks that both forms of BIND make on a tag. -/
def Slot.tagRefused (x : Slot) (t : Word) : Bool := x.gid == 0 || bits t.toNat 6 3 != 0 || tagGid t != x.gid

/-- R221: a port or channel that was bound before to another tag. -/
def rebindRefused (now seen t : Word) : Bool := (now != 0 && now != t) || (seen != 0 && seen != t)

/-- R221: BIND.in. -/
def execBindIn (g : Guard) (n : Fin 8) (a : Sreg) (s : State) : Out :=
  guarded g (fun s =>
    let x := s.me
    let t := x.s a
    if x.tagRefused t || tagCore t != globalCore s.cur.1 || tagSlot t != s.cur.2 || tagChan t != n.val ||
       rebindRefused (x.chanTagOf n) (smGet (fun _ => 0) x.chanSeen n.val) t then s.abortMe ⟨0x07, 0, 0, 0⟩
    else (s.modMe (fun x => { x with
      chanTag := smSet (fun _ => 0) x.chanTag n.val t, chanSeen := smSet (fun _ => 0) x.chanSeen n.val t })).complete) s

/-- R221: BIND.out. -/
def execBindOut (g : Guard) (n : Fin 8) (a : Sreg) (s : State) : Out :=
  guarded g (fun s =>
    let x := s.me
    let t := x.s a
    if x.tagRefused t || rebindRefused (smGet (fun _ => 0) x.portTag n.val) (smGet (fun _ => 0) x.portSeen n.val) t then
      s.abortMe ⟨0x07, 0, 0, 0⟩
    else (s.modMe (fun x => { x with
      portTag := smSet (fun _ => 0) x.portTag n.val t, portSeen := smSet (fun _ => 0) x.portSeen n.val t })).complete) s

/-- R221: UNBIND.in keeps the entries. -/
def execUnbindIn (g : Guard) (n : Fin 8) (s : State) : Out :=
  guarded g (fun s => (s.modMe (fun x => { x with chanTag := smSet (fun _ => 0) x.chanTag n.val 0 })).complete) s

/-- R221: UNBIND.out keeps the credits. -/
def execUnbindOut (g : Guard) (n : Fin 8) (s : State) : Out :=
  guarded g (fun s => (s.modMe (fun x => { x with portTag := smSet (fun _ => 0) x.portTag n.val 0 })).complete) s

/-- R222: CHSEND. -/
def execChsend (g : Guard) (n : Fin 8) (a : VSrc) (o : Order) (s : State) : Out :=
  guarded g (fun s =>
    let tag := smGet (fun _ => 0) s.me.portTag n.val
    if tag = 0 then s.abortMe ⟨0x07, 0, 0, 0⟩
    else s.withRelease (relScope o) false (fun s => s.withVecs [] [a] (fun s vs _ =>
      let s := s.modMe (fun x => { x with credits := smSet (fun _ => 0) x.credits n.val (smGet (fun _ => 0) x.credits n.val - 1) })
      let data := vs.getD 0 0
      let w := globalCore s.cur.1 * 8 + s.cur.2
      (if tagCore tag / 4096 = Config.pkg then s.due (.channelEntryArrival tag data (relScope o) w n.val)
       else s.out (.channel tag data (relScope o) w n.val)).complete))) s

/-- R222, R223: an entry at the tail of a channel ends the CHTSTs of the channel. -/
def Slot.chanArrive (x : Slot) (n : Nat) (e : ChanEntry) : Slot :=
  let y := { x with chans := smSet (fun _ => []) x.chans n (x.chan n ++ [e]) }
  let z := (x.tests.filter (fun t => t.chan == n)).foldl (fun (y : Slot) (t : ChTest) => y.giveValue t.id 1) y
  { z with tests := x.tests.filter (fun t => t.chan != n) }

/-- R222: CHANNEL_ENTRY_ARRIVAL: a packet for a slot that runs no member of the gang is dropped. -/
def execChannelEntryArrival (tag : Word) (data : Vec) (rel : Scope) (writer port : Nat) (s : State) : Out :=
  .next (
    let c := tagCore tag % 4096
    let i := tagSlot tag
    let n := tagChan tag
    match (s.slotOf c i).act with
    | none => s
    | some a =>
      if tagCore tag / 4096 ≠ Config.pkg ∨ a.gang ≠ some (tagGid tag) ∨ (s.slotOf c i).mode = .draining then s
      else s.modSlot c i (fun x => x.chanArrive n ⟨data, rel, writer, port⟩))

/-- R222: CREDIT_RETURN; a credit of a gang that has ended is dropped. -/
def execCreditReturn (core slot : Nat) (port : GangPort) (s : State) : Out :=
  .next (if (s.slotOf core slot).act.bind (·.gang) = some port.gid then
      s.modSlot core slot (fun x => { x with
        credits := smSet (fun _ => 0) x.credits port.port (Nat.min 4 (smGet (fun _ => 0) x.credits port.port + 1)) })
    else s)

/-- R223: CHTST. -/
def execChtst (g : Guard) (p n : Fin 8) (b : Src) (s : State) : Out :=
  guarded g (fun s =>
    let x := s.me
    let lim := x.srcZ b
    if x.chanTagOf n = 0 then s.abortMe ⟨0x07, 0, 0, 0⟩
    else
      let v : Option Vec := if !(x.chan n.val).isEmpty then some 1 else if lim = 0 then some 0 else none
      let (y, id) := x.track .pred .pred p.val 0 false v
      let y := if v.isSome then y else { y with tests := y.tests ++ [⟨id, n.val, s.cycle, lim⟩] }
      (s.modMe (fun _ => y)).complete) s

/-- R223: CHTST_TIMEOUT. -/
def execChtstTimeout (core slot id : Nat) (s : State) : Out :=
  .next (s.modSlot core slot (fun x =>
    match x.tests.find? (fun t => t.id == id && t.lim.ule (s.cycle - t.t0)) with
    | none => x
    | some _ => { x.giveValue id 0 with tests := x.tests.filter (fun t => t.id != id) }))

/-! BAR (R88). -/

/-- R357: a gang. -/
def State.gangOf (s : State) (gid : Nat) : Option Gang := smGet (fun _ => none) s.gangs gid

/-- A gang changed. -/
def State.modGang (s : State) (gid : Nat) (f : Gang → Gang) : State :=
  { s with gangs := smSet (fun _ => none) s.gangs gid ((s.gangOf gid).map f) }

/-- R88 step 3: one round of inheritance: the level each member inherits from the waiters, by the levels of the last round. -/
def inheritRound (g : Gang) (own eff : List Nat) : List Nat :=
  let bars := g.bars.filterMap (·.2)
  own.zipIdx.map (fun e =>
    let k := e.2
    let cls := (bars.filter (fun b => b.mask.testBit k && !b.arrived.contains k)).foldl
      (fun a b => b.arrived.foldl (fun a j => Nat.max a (eff.getD j 0 / 8)) a) 0
    if e.1 / 8 < cls then cls * 8 + e.1 % 8 else 0)

/-- R88 step 3: the inherited levels of the members of a gang, raised until no member rises. -/
def inherited (g : Gang) (own : List Nat) : Nat → List Nat
  | 0 => own.map (fun _ => 0)
  | n + 1 =>
    let inh := inherited g own n
    inheritRound g own ((own.zip inh).map (fun e => Nat.max e.1 e.2))

/-- R88 step 3: the inherited levels of a gang stand as its barriers have them. -/
def State.inherit (s : State) (gid : Nat) : State :=
  match s.gangOf gid with
  | none => s
  | some g =>
    let own := g.members.map (fun m => match m.slot with | some i => (s.slotOf m.core i).level | none => 0)
    let inh := inherited g own (g.members.length + 1)
    (g.members.zip inh).foldl (fun s e =>
      match e.1.slot with
      | some i =>
        if e.1.started && !e.1.returned then s.modSlot e.1.core i (fun x => { x with inherited := e.2 }) else s
      | none => s) s

/-- R88: BARRIER_INHERITANCE. -/
def execBarrierInheritance (gid : Nat) (s : State) : Out := .next (s.inherit gid)

/-- R88 step 4: every participant of barrier id leaves BAR; what it loads from now on is not older than the barrier. -/
def State.barrierDone (s : State) (gid id : Nat) (g : Gang) (b : Barrier) : State :=
  let s := s.modGang gid (fun g => { g with bars := smSet (fun _ => none) g.bars id none })
  let s := g.members.zipIdx.foldl (fun s e =>
    match e.1.slot with
    | some i =>
      if b.mask.testBit e.2 then
        (s.modSlot e.1.core i (fun x => { x with wait := if x.wait = .bar gid id then .none else x.wait })).acquire e.1.core b.scope
      else s
    | none => s) s
  s.inherit gid

/-- R88 step 1: the checks of the issuer. -/
def barRefused (x : Slot) (g : Gang) (core : Nat) (scope : Scope) (mask : Nat) : Bool :=
  let idx := x.gangInfo.toNat % 64
  let last := bits x.gangInfo.toNat 13 8
  !mask.testBit idx || decide (2 ^ (last + 1) ≤ mask) ||
  g.members.zipIdx.any (fun e => mask.testBit e.2 && !inGroup scope core e.1.core)

/-- R88 step 4: the stores that the issuing slot has made are on their way to SCOPE; whether one of them is held at its home. -/
def State.barPrep (s : State) (scope : Scope) : State × Bool :=
  let r := s.releasePrep scope true
  (r.1, r.2 || r.1.heldOf s.cur.1 s.cur.2 ((s.myAct.map (·.serial)).getD 0) true)

/-- R88: BAR. Its stores performed, its PC moves on; the slot waits until the barrier completes. It has arrived once its stores have been
performed, those held at their homes among them (DESIGN CHOICE, log 61: the rule does not say whether it has arrived before). -/
def execBar (g : Guard) (scope : Scope) (id : Fin 16) (b : Src) (s : State) : Out :=
  guarded g (fun s =>
    let x := s.me
    let mask := (x.srcZ b).toNat
    let gid := x.gid
    match s.gangOf gid with
    | none => s.abortMe ⟨0x07, 0, 0, 0⟩
    | some gg =>
      let idx := x.gangInfo.toNat % 64
      let cur := smGet (fun _ => none) gg.bars id.val
      let clash : Bool := match cur with | some o => o.mask != mask || o.scope != scope | none => false
      if gid = 0 || barRefused x gg s.cur.1 scope mask || clash then s.abortMe ⟨0x07, 0, 0, 0⟩
      else
        let (s, busy) := s.barPrep scope
        if busy then s.waitHome else
        let s := s.complete
        let old := match cur with | some o => o.arrived | none => []
        let bar : Barrier := ⟨mask, scope, old ++ [idx]⟩
        let full := (List.range gg.members.length).all (fun k => !mask.testBit k || bar.arrived.contains k)
        let s := s.modMe (fun x => { x with wait := .bar gid id.val })
        if full then s.barrierDone gid id.val gg bar
        else
          let s := s.modGang gid (fun g => { g with bars := smSet (fun _ => none) g.bars id.val (some bar) })
          ({ s with pairNext := none }).due (.barrierInheritance gid)) s

/-! SPAWN (R355). -/

/-- R352: a legal task descriptor. -/
def taskOk (bs : List Byte) : Bool :=
  decide (16 ≤ (bs.getD 0 0).toNat) && decide (1 ≤ (bs.getD 1 0).toNat) && decide ((bs.getD 1 0).toNat ≤ 7) &&
  ((bs.drop 3).take 5).all (· == 0)

/-- R352: the priority of a task under a ceiling. -/
def taskPrio (bs : List Byte) (ceil : Nat) : Nat := Nat.min ((bs.getD 2 0).toNat % 32) ceil

/-- R353, R356: the entries a deque has room for. -/
def Core.dequeRoom (k : Core) : Nat := 64 + (if k.dqLog2 = 0 then 0 else 2 ^ k.dqLog2.toNat)

/-- R353: an entry placed at the bottom of a deque. -/
def Core.pushTask (k : Core) (e : DequeEntry) : Core := k.setDeque (k.tasks ++ [{ e with pos := none }])

/-- R355: SPAWN. -/
def execSpawn (g : Guard) (d : Sreg) (m : AMode) (sp : Space) (s : State) : Out :=
  guarded g (fun s =>
    let x := s.me
    if !x.launchInfo.getLsbD 63 then s.abortMe ⟨0x07, 0, 0, 0⟩
    else
      match s.readDesc sp (x.addr 1 m) 64 with
      | .error f => s.takeAcc f
      | .ok bs =>
        let lid := x.launchInfo.toNat % 2 ^ 32
        let k := s.myCore
        let st := if !taskOk bs then 2 else if k.dequeRoom ≤ k.deque.length + k.spillDeque.length then 1 else 0
        let s := if st = 0 then
            (s.launchCount lid (sgOf s.cur.1) 1).modMyCore (fun k =>
              k.pushTask { desc := bs, prio := taskPrio bs x.ceil, launch := lid, held := some s.cur.2 })
          else s
        (s.modMe (fun x => x.setS d (BitVec.ofNat 64 st))).complete) s

end Sys2Proof.Machine
end

