-- ==== Sys2Proof/Machine/Tile.lean ====
section
/-! DEFINITION. Meanings: the tile instructions (R288 to R295) and what their home lock manager does with them (R276 to R281). -/
namespace Sys2Proof.Machine

/-! The lock manager's records. -/

/-- R282, R283: a request pending on an entry, here or on its way back from a return. -/
def State.pendingOn (s : State) (key : Nat) : Bool :=
  (s.pend ++ s.lmBack).any (fun p => tileKey p.req.handle == key && handleGen p.req.handle == (s.tileAt key).gen)

/-- R280: a retiring tile with no tenure and no pending request is freed. -/
def State.retire? (s : State) (key : Nat) : State :=
  let t := s.tileAt key
  if t.state = .retiring && t.tenures.isEmpty && !s.pendingOn key then s.freeTile key else s

/-- R290, R291: n free entries from an entry on. -/
def State.freeRun (s : State) (lmi e n : Nat) : Bool :=
  (List.range n).all (fun c => (s.tileAt (lmi * 16384 + e + c)).state == .free)

/-- R290, R291: the lowest entry that starts a run of n free entries. -/
def State.findRun (s : State) (lmi n : Nat) : Nat → Nat → Option Nat
  | 0, _ => none
  | fuel + 1, e =>
    if 16384 < e + n then none
    else if s.freeRun lmi e n then some e else s.findRun lmi n fuel (e + 1)

/-- R290: THNEW at the lock manager. -/
def State.tileCreate (s : State) (d : TileDesc) (valid : Bool) (asid : Nat) : State × Nat :=
  let lmi := bits d.base 37 29
  if !valid then (s, 3)
  else if s.overlaps d asid (d.state == 1) (fun _ => false) then (s, 1)
  else
    match s.findRun lmi 1 16384 0 with
    | none => (s, 2)
    | some e =>
      let key := lmi * 16384 + e
      let t : Tile := { gen := (s.tileAt key).gen, state := if d.state = 1 then .frozen else .live, desc := d, asid := asid, domain := d.domain }
      (s.setTile key t, mkHandle t.gen key)

/-- R291: the descriptor of child c of n along a dimension. -/
def childDesc (d : TileDesc) (dim n c : Nat) : TileDesc :=
  let w := d.dims.getD dim 0 / n
  { d with dims := d.dims.set dim w, base := d.base + c * w * d.strides.getD dim 0 }

/-- R291: THSPLIT at the lock manager. -/
def State.tileSplit (s : State) (key dim n : Nat) : State × Nat :=
  let t := s.tileAt key
  if t.state ≠ .live then (s, 4)
  else if t.depth = 3 then (s, 6)
  else if t.desc.rank ≤ dim ∨ n < 2 ∨ 64 < n ∨ t.desc.dims.getD dim 0 % n ≠ 0 then (s, 3)
  else
    let lmi := key / 16384
    match s.findRun lmi n 16384 0 with
    | none => (s, 2)
    | some e =>
      let first := lmi * 16384 + e
      let parent := BitVec.ofNat 64 (mkHandle t.gen key)
      let s := (List.range n).foldl (fun (s : State) c =>
        s.setTile (first + c) { gen := (s.tileAt (first + c)).gen, state := .live, depth := t.depth + 1, parent := parent,
                                desc := childDesc t.desc dim n c, asid := t.asid, domain := t.domain }) s
      (s.setTile key { t with state := .split, nchild := n, first := first }, mkHandle (s.tileAt first).gen first)

/-- R292: THJOIN at the lock manager. -/
def State.tileJoin (s : State) (key : Nat) : State × Nat :=
  let t := s.tileAt key
  let kids := (List.range t.nchild).map (fun c => t.first + c)
  if t.state ≠ .split ∨ kids.any (fun k => (s.tileAt k).state == .split) then (s, 4)
  else if kids.any (fun k => !(s.tileAt k).tenures.isEmpty || s.pendingOn k) then (s, 5)
  else
    let s := kids.foldl (fun s k => s.freeTile k) s
    (s.setTile key { t with state := .live, nchild := 0, first := 0 }, 0)

/-- R293: THFRZ at the lock manager. -/
def State.tileFreeze (s : State) (key : Nat) : State × Nat :=
  let t := s.tileAt key
  if t.state ≠ .live ∨ t.parent ≠ 0 then (s, 4)
  else if !t.tenures.isEmpty ∨ s.pendingOn key then (s, 5)
  else (s.setTile key { t with state := .frozen }, 0)

/-- R293: THFRZ.thaw at the lock manager. -/
def State.tileThaw (s : State) (key : Nat) : State × Nat :=
  let t := s.tileAt key
  if t.state ≠ .frozen then (s, 4)
  else if s.overlaps t.desc t.asid false (fun k => k == key) then (s, 1)
  else (s.setTile key { t with state := .live }, 0)

/-- R294: THFREE at the lock manager. -/
def State.tileFree (s : State) (key : Nat) : State × Nat :=
  let t := s.tileAt key
  if t.state = .split ∨ t.state = .retiring ∨ t.parent ≠ 0 then (s, 4)
  else ((s.setTile key { t with state := .retiring }).retire? key, 0)

/-- R295: STATE's code. -/
def tileStateCode : TileState → Nat
  | .live => 0 | .frozen => 1 | .split => 2 | .retiring => 3 | .free => 15

/-- R295: THINFO at the lock manager. -/
def State.tileInfo (s : State) (key : Nat) (sel : ThSel) : Word :=
  let t := s.tileAt key
  let d := t.desc
  let dim := fun k => d.dims.getD k 0
  BitVec.ofNat 64 (match sel with
    | .state => (if t.state = .split then t.nchild - 1 else 0) % 64 * 2 ^ 42 + t.depth % 8 * 2 ^ 39 + (s.pendingOn key).toNat * 2 ^ 38 +
        (!t.tenures.isEmpty).toNat * 2 ^ 37 + t.domain % 2 * 2 ^ 36 + tileStateCode t.state * 2 ^ 32 + t.version.toNat
    | .base => d.base
    | .bytes => tileBytes d
    | .extent => extentLast d - d.base + 1
    | .parent => t.parent.toNat
    | .dims => dim 0 + dim 1 * 2 ^ 16 + dim 2 * 2 ^ 32 + dim 3 * 2 ^ 48
    | .home => Config.pkg * 2 ^ 16 + (s.lmOf (key / 16384)).phys)

/-- R288: the handle an operation names, none for THNEW. -/
def opHandle : TileOp → Option Nat
  | .create _ _ => none
  | .split h _ _ | .join h | .freeze h | .thaw h | .free h | .info h _ => some h

/-- R288: checks 2 to 4 at the home lock manager; none when they pass. -/
def State.tileCheck (s : State) (src asid h : Nat) (isState : Bool) : Option TileAns :=
  if s.stale h then some (if isState then .value 0x0000000F00000000#64 else .tileFault)
  else if (s.tileAt (tileKey h)).asid ≠ asid then some .protFault
  else if (s.tileAt (tileKey h)).domain = 0 ∧ src / 4096 ≠ Config.pkg then some .protFault
  else none

/-- R288 to R295: an operation applied at its home lock manager, and its answer. -/
def State.tileApply (s : State) (src asid : Nat) (op : TileOp) : State × TileAns :=
  let isState := match op with | .info _ .state => true | _ => false
  let val := fun (r : State × Nat) => (r.1, TileAns.value (BitVec.ofNat 64 r.2))
  match (opHandle op).bind (fun h => s.tileCheck src asid h isState) with
  | some a => (s, a)
  | none =>
    match op with
    | .create d valid => val (s.tileCreate d valid asid)
    | .split h dim n => val (s.tileSplit (tileKey h) dim n)
    | .join h => val (s.tileJoin (tileKey h))
    | .freeze h => val (s.tileFreeze (tileKey h))
    | .thaw h => val (s.tileThaw (tileKey h))
    | .free h => val (s.tileFree (tileKey h))
    | .info h sel => (s, .value (s.tileInfo (tileKey h) sel))

/-- R281: the logical index an operation goes to. -/
def opIndex : TileOp → Nat
  | .create d _ => bits d.base 37 29
  | .split h _ _ | .join h | .freeze h | .thaw h | .free h | .info h _ => handleLmi h

/-- R281: a structural operation, which waits while its index moves. -/
def structural : TileOp → Bool
  | .info _ _ => false
  | .create _ _ | .split _ _ _ | .join _ | .freeze _ | .thaw _ | .free _ => true

/-- R288: TILE_OPERATION_ARRIVAL. -/
def execTileOperationArrival (src slot asid : Nat) (op : TileOp) (s : State) : Out :=
  .next (if (s.lmOf (opIndex op)).moving && structural op then
      { s with lmHeld := s.lmHeld ++ [.tileOperationArrival src slot asid op] }
    else
      let (s, a) := s.tileApply src asid op
      if src / 4096 = Config.pkg then s.due (.tileAnswer (src % 4096) slot a) else s.out (.tileReply src slot a))

/-! The slot (R288). -/

/-- R288: an operation sent to its home package; the slot waits for the answer. -/
def State.sendTileOp (s : State) (d : Sreg) (handle : Word) (pkg : Nat) (op : TileOp) : State :=
  if pkg ≠ Config.pkg ∧ s.pkgDown pkg then (s.modMe (fun x => x.setS d 7)).complete
  else
    let s := s.modMe (fun x => { x with wait := .tile d handle pkg })
    let asid := s.me.asid.toNat
    if pkg = Config.pkg then s.due (.tileOperationArrival (globalCore s.cur.1) s.cur.2 asid op)
    else s.out (.tileOp pkg s.cur.1 s.cur.2 asid op)

/-- R288: the mould of the instructions that name a handle: check 1, then the operation is sent. -/
def tileInstr (g : Guard) (d a : Sreg) (op : State → Nat → TileOp) (s : State) : Out :=
  guarded g (fun s =>
    let h := s.me.s a
    if h.toNat % 2 ^ 19 ≠ 0 then s.abortMe ⟨0x08, h, 0, 0⟩
    else s.sendTileOp d h (handlePkg h.toNat) (op s h.toNat)) s

/-- R290: THNEW. -/
def execThnew (g : Guard) (d : Sreg) (m : AMode) (sp : Space) (s : State) : Out :=
  guarded g (fun s =>
    match s.readDesc sp (s.me.addr 1 m) 64 with
    | .error f => s.takeAcc f
    | .ok bs =>
      let t := parseTile bs
      match s.translate s.cur.1 s.me.asid.toNat (BitVec.ofNat 64 t.base) .atomic with
      | .error f => s.takeAcc f
      | .ok p => s.sendTileOp d 0 (paPkg p.pa) (.create t (tileOk bs))) s

/-- R291: THSPLIT. -/
def execThsplit (g : Guard) (dim : Fin 4) (d a : Sreg) (b : Src) (s : State) : Out :=
  tileInstr g d a (fun s h => .split h dim.val (s.me.srcZ b).toNat) s

/-- R292: THJOIN. -/
def execThjoin (g : Guard) (d a : Sreg) (s : State) : Out := tileInstr g d a (fun _ h => .join h) s

/-- R293: THFRZ. -/
def execThfrz (g : Guard) (d a : Sreg) (s : State) : Out := tileInstr g d a (fun _ h => .freeze h) s

/-- R293: THFRZ.thaw. -/
def execThfrzThaw (g : Guard) (d a : Sreg) (s : State) : Out := tileInstr g d a (fun _ h => .thaw h) s

/-- R294: THFREE. -/
def execThfree (g : Guard) (d a : Sreg) (s : State) : Out := tileInstr g d a (fun _ h => .free h) s

/-- R295: THINFO. -/
def execThinfo (g : Guard) (sel : ThSel) (d a : Sreg) (s : State) : Out := tileInstr g d a (fun _ h => .info h sel) s

/-- R288: the answer of a tile operation taken by the issuing slot. -/
def State.takeTileAns (s : State) (d : Sreg) (handle : Word) (a : TileAns) : State :=
  let s := s.modMe (fun x => { x with wait := .none })
  match a with
  | .value v => (s.modMe (fun x => x.setS d v)).complete
  | .tileFault => s.abortMe ⟨0x08, handle, 0, 0⟩
  | .protFault => s.abortMe ⟨0x07, 0, 0, 0⟩

/-- R288, R364: TILE_ANSWER; a stopped slot keeps the answer until it runs again. -/
def execTileAnswer (core slot : Nat) (a : TileAns) (s : State) : Out :=
  .next (
    let x := s.slotOf core slot
    match x.wait, x.mode with
    | .tile d h _, .running => { s with cur := (core, slot) }.takeTileAns d h a
    | .tileGot d h b, .running => { s with cur := (core, slot) }.takeTileAns d h b
    | .tile d h _, .faultService => s.modSlot core slot (fun x => { x with wait := .tileGot d h a })
    | _, _ => s)

/-- R281: the logical index of a held operation. -/
def heldIndex : Instr → Option Nat
  | .tileOperationArrival _ _ _ op => some (opIndex op)
  | .tenureRequestArrival r (.request _) => some (handleLmi r.handle)
  | _ => none

/-- R281: the lock managers that an index may move to. -/
def State.moveTargets (s : State) (old : Nat) : List Nat := (List.range 512).filter (fun p => p != old && !s.fe.chRet.contains p)

/-- R281: LMMAP_MOVE_COMPLETE: PHYS is written and MOVING clears as one action, and the held operations are released in order.
Which lock manager the firmware takes is open (log 6). -/
def execLmmapMoveComplete (idx : Nat) (s : State) : Out :=
  .next (
    let m := s.lmOf idx
    if !m.moving then s
    else
      let (s, n) := s.fresh
      let l := s.moveTargets m.phys
      let phys := l.getD ((Config.freeVec n).toNat % l.length) m.phys
      { s with
        lmmap := smSet (fun i => ⟨i, false⟩) s.lmmap idx ⟨phys, false⟩
        agenda := s.agenda ++ s.lmHeld.filter (fun i => heldIndex i == some idx)
        lmHeld := s.lmHeld.filter (fun i => heldIndex i != some idx) })

end Sys2Proof.Machine
end

