-- ==== Sys2Proof/Machine/Signal.lean ====
section
/-! DEFINITION. What the front end's and the sequencer's agents share: signals (R311, R349, R404), queue errors (R350), and the
parts of a started packet. -/
namespace Sys2Proof.Machine

/-- R404, R370: the agent that acts for a core's transaction, or the front end. -/
def agentOf : Option Nat → Nat
  | none => agentCore
  | some c => 8192 + c

/-- R227: an interrupt of an MSI-X vector. -/
def State.msix (s : State) (vec : Nat) : State := s.out (.msix vec)

/-- R404: the cause of a dropped update. -/
def sigCause : AccFault → Nat × Word
  | .trans va => (0x0F, va)
  | .abort cause va => (cause, va)
  | .line _ _ | .busy => (0, 0)

/-- R404: an update that cannot be made is dropped and logged; core: the core a transaction's handler ran on. -/
def State.dropSignal (s : State) (core : Option Nat) (va : Word) (cause : Nat) : State :=
  match core with
  | some c => s.lateReport c ⟨cause, va, 0, 0⟩ 0
  | none => s.flogFe 3 cause va

/-- R311, R349, R350, R404, R337: an amount subtracted from a signal as one action at its home; the vector is raised after it when the
value is then at or below zero. One that meets a line the host holds waits for it. -/
def State.subtract (s : State) (p : PendSig) : State :=
  if p.va = 0 then s
  else
    let w : Who := { core := agentOf p.core, slot := 8, serial := 0, va := p.va, asid := p.asid, rel := p.rel }
    let r := match p.irq with | some vec => Reply.irq vec | none => .none
    match s.agentRmw w 8 (.amo .add .n64 ((2 ^ 64 - p.amount.toNat) % 2 ^ 64)) r with
    | .ok s => s
    | .error (.line n _) => { s.askHost n true with sigPend := s.sigPend ++ [p] }
    | .error e => s.dropSignal p.core p.va (sigCause e).1

/-- R350: a queue enters error: ERRSIG receives its subtraction and the vector is raised. A queue already in error or disabled
stays as it is. -/
def State.queueError (s : State) (q code idx : Nat) (started : Bool) : State :=
  let h := s.hq q
  if h.state = .error ∨ h.state = .disabled then s
  else
    let s := s.modHq q (fun h => { h with state := .error, err := code, errIdx := idx, errStarted := started })
    let s := s.subtract ⟨none, h.asid, h.errSig, 0x100000000, none, .none⟩
    if h.msixEn then s.msix h.msix else s

end Sys2Proof.Machine
end

