-- ==== Sys2Proof/Machine/Txn.lean ====
section
/-! DEFINITION. Meanings: submission (R306, R312, R316), TXNUM, TXVER, TXABORT (R317 to R319), RETH (R215), and how a
transaction ends (R285, R311). -/
namespace Sys2Proof.Machine

/-! Submission (R306). -/

/-- R382: a core that new reservations may go to. -/
def State.placeable (s : State) (c : Nat) : Bool := (s.coreOf c).svc == .inService

/-- R297: the cores of a placement that are in service. -/
def State.placement (s : State) (d : TxnDesc) : List Nat :=
  let (lo, n) := match d.place with
    | 0 => (d.core, 1)
    | 1 => (d.core / 16 * 16, 16)
    | 2 => (d.core / 512 * 512, 512)
    | _ => (0, 4096)
  ((List.range n).map (fun i => lo + i)).filter s.placeable

/-- R307: bytes rounded up to a multiple of 256. -/
def up256 (n : Nat) : Nat := (n + 255) / 256 * 256

/-- R307: the landing need. -/
def landingNeed (sizes : List Nat) : Nat := 256 + sizes.foldl (fun a n => a + up256 n) 0

/-- R306: what a lock manager answers of a named handle. -/
structure TileFacts where
  stale : Bool
  pod : Bool
  bytes : Nat
  deriving DecidableEq, Repr

/-- R306: the answer for entry k. What another package's lock manager answers is not known here (log 6): TileBytes and DOMAIN are one
value for a handle, and whether it is stale may change. -/
def State.tileFacts (s : State) (asid k h : Nat) : TileFacts :=
  if handlePkg h = Config.pkg then
    let t := s.tileAt (tileKey h)
    { stale := h % 2 ^ 19 != 0 || s.stale h || t.asid != asid, pod := t.domain == 1, bytes := tileBytes t.desc }
  else
    { stale := h % 2 ^ 19 != 0 || Config.freeBool (s.choice + k), pod := Config.farTilePod h, bytes := Config.farTileBytes h % 262144 + 1 }

/-- R278: two named handles are related. -/
def State.namesRelated (s : State) (a b : Nat) : Bool :=
  a == b ||
  (if handlePkg a = Config.pkg ∧ handlePkg b = Config.pkg then s.related (tileKey a) (tileKey b)
   else handlePkg a == handlePkg b && handleLmi a == handleLmi b && Config.farRelated (Nat.min a b) (Nat.max a b))

/-- R296: the intake entries that a handler slot holds. -/
def State.intakeOf (s : State) (c i : Nat) : Nat :=
  (s.seq.intake.filter (fun b => b.owner == some (c * 8 + i))).length +
  ((s.slotOf c i).act.map (fun a => a.heldSubs.length)).getD 0

/-- R306: the reason a descriptor is refused, 0 when it is accepted, and TileBytes of its tiles. full: no intake entry is free. -/
def State.checkTxn (s : State) (bs : List Byte) (asid : Nat) (full : Bool) : Nat × List Nat :=
  let d := parseTxn bs
  let hs := d.tiles.map (·.handle)
  let up := fun h => handlePkg h == Config.pkg || !s.pkgDown (handlePkg h)
  let facts := hs.zipIdx.map (fun e => s.tileFacts asid e.2 e.1)
  let sizes := facts.map (·.bytes)
  let cores := s.placement d
  let need := landingNeed sizes
  let bad : Nat :=
    if !txnOk bs then 1
    else if (hs.zip facts).any (fun e => up e.1 && e.2.stale) then 2
    else if hs.zipIdx.any (fun a => hs.zipIdx.any (fun b => decide (a.2 < b.2) && s.namesRelated a.1 b.1)) then 3
    else if (hs.zip facts).any (fun e => (!d.pod && handlePkg e.1 != Config.pkg) || (up e.1 && e.2.pod != d.pod)) then 4
    else if (d.place != 3 && !(s.coreOf d.core).svc.mapped) || cores.isEmpty then 5
    else if cores.all (fun c => decide ((s.coreOf c).operandBytes < need)) then 6
    else if full then 7
    else if hs.any (fun h => !up h) then 8 else 0
  (bad, sizes)

/-- R316: the mould of TXSUB and TXRST: the descriptor is read, checked and held by the activation; f marks a TXRST. -/
def txnSubmit (g : Guard) (d : Sreg) (m : AMode) (sp : Space) (rst : Bool) (f : Activation → Activation) (s : State) : Out :=
  guarded g (fun s =>
    if rst && s.me.txnNum == 0 then s.abortMe ⟨0x07, 0, 0, 0⟩
    else
      match s.readDesc sp (s.me.addr 1 m) 384 with
      | .error e => s.takeAcc e
      | .ok bs =>
        let asid := s.me.asid.toNat
        let (r, sizes) := s.checkTxn bs asid (decide (8 ≤ s.intakeOf s.cur.1 s.cur.2))
        let s := { s with choice := s.choice + 512 }
        let sub : Submission := ⟨bs, asid, none, some (s.cur.1 * 8 + s.cur.2), sizes⟩
        let s := if r = 0 then s.modMyAct (fun a => f { a with heldSubs := a.heldSubs ++ [sub] }) else s
        (s.modMe (fun x => x.setS d (BitVec.ofNat 64 r))).complete) s

/-- R316: TXSUB. -/
def execTxsub (g : Guard) (d : Sreg) (m : AMode) (sp : Space) (s : State) : Out := txnSubmit g d m sp false (fun a => a) s

/-- R316: TXRST. -/
def execTxrst (g : Guard) (d : Sreg) (m : AMode) (sp : Space) (s : State) : Out :=
  txnSubmit g d m sp true (fun a => { a with rstMark := true }) s

/-- R317: TXNUM. -/
def execTxnum (g : Guard) (d : Sreg) (s : State) : Out :=
  guarded g (fun s => (s.modMe (fun x => x.setS d x.txnNum)).complete) s

/-- R317: TXNUM.open. -/
def execTxnumOpen (g : Guard) (d : Sreg) (s : State) : Out :=
  guarded g (fun s => s.putS .mfsr d (BitVec.ofNat 64 (s.seq.round % 2 ^ 40)) 0) s

/-- R318, R309: GVER and FL of map entry k of the issuing transaction. -/
def State.mapEntry (s : State) (k : Nat) : Nat × Nat :=
  let o := s.me.tileMap.toNat % 2 ^ 18 + 16 * k
  (wordOfBytes (s.myCore.rdLoc (o + 8) 4), wordOfBytes (s.myCore.rdLoc (o + 12) 1))

/-- R318: TXVER. -/
def execTxver (g : Guard) (new : Bool) (d : Sreg) (k : Fin 16) (s : State) : Out :=
  guarded g (fun s =>
    let x := s.me
    if x.txnNum = 0 ∨ bits x.tileMap.toNat 22 18 ≤ k.val then s.abortMe ⟨0x07, 0, 0, 0⟩
    else
      let e := s.mapEntry k.val
      let v := if new && e.2 % 2 == 1 then (e.1 + 1) % 2 ^ 32 else e.1
      (s.modMe (fun x => x.setS d (BitVec.ofNat 64 v))).complete) s

/-- R319: TXABORT. -/
def execTxabort (g : Guard) (s : State) : Out :=
  guarded g (fun s =>
    if s.me.txnNum = 0 then s.abortMe ⟨0x07, 0, 0, 0⟩
    else (s.modMyAct (fun a => { a with abortMark := true })).complete) s

/-! Rounds that are complete (R302, R303). -/

/-- R302: every round of a domain below this one is closed here, with its requests acknowledged. -/
def State.ownClosed (s : State) (pod : Bool) : Nat :=
  ((s.seq.unacked.filter (fun r => numPod r.num == pod)).map (fun r => numRound r.num)).foldl Nat.min
    (if s.seq.roundOpen then s.seq.round else s.seq.round + 1)

/-- R302, R305, R324: every round below this one is closed at every package of the pod. -/
def State.podComplete (s : State) : Nat :=
  s.members.foldl (fun a e =>
    if e.1 = Config.pkg ∨ !e.2.member then a
    else
      let n := Nat.max e.2.joinRound (smGet (fun _ => 0) s.seq.closures e.1)
      if e.2.out ∧ e.2.outRound ≤ n then a else Nat.min a n) (s.ownClosed true)

/-- R303: the rounds that have become complete are no longer counted. -/
def State.pruneRounds (s : State) : State :=
  let n := s.podComplete
  { s with seq := { s.seq with closedHere := s.seq.closedHere.filter (fun r => decide (n ≤ r)) } }

/-- R302: the closures whose pod-domain requests are all acknowledged leave, in order. -/
def State.sendClosures (s : State) : List (Nat × Nat) → State
  | [] => { s with seq := { s.seq with closing := [] } }
  | (r, next) :: t =>
    if s.seq.unacked.any (fun q => numPod q.num && decide (numRound q.num ≤ r)) then { s with seq := { s.seq with closing := (r, next) :: t } }
    else (s.out (.closure r next)).sendClosures t

/-- R302, R303: the closures that may leave do, and the rounds that are complete are no longer counted. -/
def State.settleRounds (s : State) : State := (s.sendClosures s.seq.closing).pruneRounds

/-! How a transaction ends (R285, R311). -/

/-- R285, R311: a transaction is gone, and its reservation is reclaimed. -/
def State.dropTxn (s : State) (num : Nat) (t : Txn) : State :=
  (s.modCore t.core (fun k => { k with res := k.res.filter (fun r => r.owner ≠ .txn num) })).setTxn num none

/-- R311: a transaction whose tiles have all ended and whose activation is gone: its signal is changed and its packet told, and its
reservation is reclaimed. One whose next holder on another package has not acknowledged its bytes stays for that (R285). -/
def State.endTxn (s : State) (num : Nat) : State :=
  match s.txnOf num with
  | none => s
  | some t =>
    if t.phase = .done then (if t.nextOut.isEmpty then s.dropTxn num t else s)
    else if t.phase ≠ .releasing || !t.openTiles.isEmpty then s
    else
      let amount : Option Word := match t.result with | none => none | some true => some 1 | some false => some 0x100000000
      let s := match amount with
        | none => s
        | some a => s.subtract ⟨if t.ran then some t.core else none, t.sub.asid, (parseTxn t.sub.desc).sig, a, none, .pod⟩
      let s := if t.nextOut.isEmpty then s.dropTxn num t else s.setTxn num (some { t with phase := .done })
      match t.sub.packet with
      | some (q, id) => s.packetPart q id (t.result != some false)
      | none => s

/-- R285: tile k of a transaction is told to end: a commit request, or a release. A home that is out of service has ended it. -/
def State.endTile (s : State) (num : Nat) (t : Txn) (commit : Bool) (k : Nat) : State :=
  let h := (txnEntry t.sub.desc k).handle
  if handlePkg h = Config.pkg then s.due (if commit then .commitGrant num ⟨h, none⟩ else .tenureRelease num h)
  else if s.pkgDown (handlePkg h) then s.due (.tenureRelease num h)
  else s.out (if commit then .commit num h else .release num h)

/-- R311, R305: a transaction ends without writes: every tenure and pending request of it with a release. ok: what SIG gets. -/
def State.quitTxn (s : State) (num : Nat) (ok : Bool) : State :=
  match s.txnOf num with
  | none => s
  | some t =>
    if t.phase = .releasing ∨ t.phase = .done then s
    else
      let all := List.range (parseTxn t.sub.desc).tiles.length
      let s := { s with
        pend := s.pend.filter (fun p => p.req.num != num)
        lmBack := s.lmBack.filter (fun p => p.req.num != num)
        seq := { s.seq with
          returned := s.seq.returned.filter (fun p => p.req.num != num)
          unacked := s.seq.unacked.filter (fun r => r.num != num) } }
      let s := s.setTxn num (some { t with phase := .releasing, result := some ok, openTiles := all, waitGrant := [] })
      (all.foldl (fun s k => s.endTile num t false k) s.settleRounds).endTxn num

/-- R311: a transaction fails. -/
def State.failTxn (s : State) (num : Nat) : State := s.quitTxn num false

/-- R311: an open tile of a transaction has ended. -/
def State.tileClosed (s : State) (num handle : Nat) : State :=
  match s.txnOf num with
  | none => s
  | some t =>
    let open' := t.openTiles.filter (fun k => (txnEntry t.sub.desc k).handle != handle)
    (s.setTxn num (some { t with openTiles := open' })).endTxn num

/-- R285: the next holder of a tile, on another package, has its bytes. -/
def State.nextClosed (s : State) (num handle : Nat) : State :=
  match s.txnOf num with
  | none => s
  | some t =>
    let owed := t.nextOut.filter (fun k => (txnEntry t.sub.desc k).handle != handle)
    (s.setTxn num (some { t with nextOut := owed })).endTxn num

/-! RETH (R215). -/

/-- R305, R323: this package has been declared out of service. -/
def State.ownOut (s : State) : Bool := (smGet (fun _ => {}) s.members Config.pkg).out

/-- R311: the transaction ends without writes at its RETH. -/
def Activation.noWrites (a : Activation) : Bool := a.abortMark || a.rstMark || a.restart

/-- R285, R311: RETH of a transaction: the bytes its tiles hold are captured, each W tile sends a commit request and its
reservation is committing; every other tile a release. One that names a tile of a package out of service, or that this package, out of
service itself, has numbered, fails and writes nothing (R305, R311). -/
def State.txnReth (s : State) (c : Nat) (a : Activation) (num : Nat) : State :=
  match s.txnOf num with
  | none => s
  | some t =>
    let all := List.range t.ranges.length
    let lost := s.ownOut || all.any (fun k => s.pkgDown (handlePkg (txnEntry t.sub.desc k).handle))
    let commit := fun (k : Nat) => (txnEntry t.sub.desc k).w && !a.noWrites && !lost
    let data := t.ranges.map (fun g => (s.coreOf c).rdLoc g.1 g.2)
    let bad := all.filter (fun k => let g := t.ranges.getD k (0, 0); (s.coreOf c).locErr g.1 g.2)
    let result := if lost then some false else if a.abortMark then some true else if a.rstMark then none else some true
    let t := { t with phase := .committing, openTiles := all, data := data, dataBad := bad, result := result, waitGrant := all.filter commit }
    let s := s.setTxn num (some t)
    let s := if all.any commit then s.modCore c (fun k => { k with
        res := k.res.map (fun r => if r.owner = .txn num then { r with state := .committing } else r) })
      else s
    all.foldl (fun s k => s.endTile num t (commit k) k) s

/-- R215, R255: RETH: the cluster's buffer drains, and it waits until its posted stores are acknowledged; a pending error or fault is
taken; a transaction commits; the slot drains. -/
def execReth (g : Guard) (s : State) : Out :=
  guarded g (fun s =>
    match s.cmdError (fun _ => true) with
    | some e => s.abortCmd e
    | none =>
      let s := s.releaseDrain s.cur.1 .pod
      if !((s.myAct.map (·.posted)).getD []).isEmpty then s.waitHome
      else match s.myAct.bind Activation.pendingFault with
      | some f => (s.modMyAct Activation.takeFault).abortMe f
      | none =>
        let s : State := { s.complete with pairNext := none }
        let s := match s.myAct with
          | some a => (match a.txn with | some num => s.txnReth s.cur.1 a num | none => s)
          | none => s
        let s := s.modMyAct (fun a => { a with ending := some .reth })
        s.modMe (fun x => { x with mode := .draining, wait := .none })) s

end Sys2Proof.Machine
end

