-- ==== Sys2Proof/Machine/Seq.lean ====
section
/-! DEFINITION. Meanings: the sequencer (R300 to R309), tenure at the lock managers (R282 to R285), and the other packages of the
pod as the sequencer sees them (R305, R323, R324). -/
namespace Sys2Proof.Machine

/-! Reservation and numbering (R165, R307, R308). -/

/-- R165: the first place for n operand bytes, aligned to 256: the lowest that is free, the map granule first, then the tiles in order
(DESIGN CHOICE, log 61: the spec leaves the addresses of a reservation open). -/
def Core.firstFit (k : Core) (n : Nat) : Nat → Nat → Option Nat
  | 0, _ => none
  | fuel + 1, off =>
    if 262144 < off + n then none
    else if k.operandFree (off, n) then some off else k.firstFit n fuel (off + 256)

/-- R165: separate ranges for the sizes, in order. -/
def Core.allot (k : Core) : List Nat → Option (List (Nat × Nat))
  | [] => some []
  | n :: t =>
    match k.firstFit n 1024 0 with
    | none => none
    | some off =>
      let taken : Reservation := ⟨.txn 0, [(off, n)], .filling, 0, 0, 0, false⟩
      ({ k with res := k.res ++ [taken] }.allot t).map ((off, n) :: ·)

/-- R165, R307: the ranges a core has room for: the map granule, then one for each tile. -/
def Core.roomFor (k : Core) (sizes : List Nat) : Option (List (Nat × Nat)) :=
  if 128 ≤ k.res.length then none else k.allot (256 :: sizes.map up256)

/-- R307: the core with the most free operand bytes among those with room, the lowest number among equals. -/
def State.chooseCore (s : State) (cores : List Nat) (sizes : List Nat) : Option (Nat × List (Nat × Nat)) :=
  (cores.foldl (fun (best : Option (Nat × Nat × List (Nat × Nat))) c =>
    let k := s.coreOf c
    let free := k.operandBytes - k.reservedBytes
    let better := match best with | none => true | some b => decide (b.1 < free)
    if better then
      match k.roomFor sizes with
      | some rs => some (free, c, rs)
      | none => best
    else best) none).map (·.2)

/-- R308, R313: a placed transaction whose requests have been sent asks for the tiles of other packages again; their lock managers push
once more under the tenures it holds. -/
def State.askAgain (s : State) (num : Nat) : State :=
  match s.txnOf num with
  | none => s
  | some t =>
    if t.phase ≠ .requested then s
    else (parseTxn t.sub.desc).tiles.foldl (fun s x =>
      if handlePkg x.handle = Config.pkg then s else s.out (.tenure (handlePkg x.handle) ⟨num, x.handle, x.w⟩ t.sub.asid)) s

/-- R165: a transaction takes its reservation on a core. -/
def State.reserve (s : State) (num : Nat) (t : Txn) (c : Nat) (rs : List (Nat × Nat)) : State :=
  let r : Reservation := ⟨.txn num, rs, .filling, 0, 0, 0, false⟩
  let s := s.modCore c (fun k => { k with res := k.res ++ [r] })
  let tiles := (rs.drop 1).zip t.sub.sizes
  s.setTxn num (some { t with
    core := c, map := (rs.headD (0, 0)).1, ranges := tiles.map (fun e => (e.1.1, e.2))
    granted := t.granted.map (fun _ => false), evicted := false })

/-- R303: the sequencer holds as many incomplete rounds as it may. -/
def State.seqFull (s : State) : Bool := decide (8 ≤ s.seq.closedHere.length)

/-- R307: the head of the intake is reserved and numbered. -/
def State.numberHead (s : State) : State :=
  match s.seq.intake with
  | [] => s
  | b :: rest =>
    let d := parseTxn b.desc
    let idx := if d.pod then s.seq.nextPod else s.seq.nextPk
    if !s.seq.roundOpen || s.seqFull || decide (4096 ≤ idx) then s
    else
      match s.chooseCore (s.placement d) b.sizes with
      | none => s
      | some (c, rs) =>
        let num := txnNumber d.pod s.seq.round idx
        let q := { s.seq with intake := rest }
        let q := if d.pod then { q with nextPod := idx + 1 } else { q with nextPk := idx + 1 }
        let n := d.tiles.length
        let t : Txn := { sub := b, phase := .numbered, core := c, map := 0, ranges := [], granted := List.replicate n false,
                         gver := List.replicate n 0, frozen := List.replicate n false }
        { s with seq := q }.reserve num t c rs

/-- R308, R304: the lowest-numbered transaction of a domain that waits to be placed again. -/
def State.lowestEvicted (s : State) (pod : Bool) : Option (Nat × Txn) :=
  s.txns.foldl (fun (best : Option (Nat × Txn)) e =>
    match e.2 with
    | some t =>
      if t.evicted && numPod e.1 == pod && (match best with | none => true | some b => numBefore e.1 b.1) then some (e.1, t) else best
    | none => best) none

/-- R308: the transactions that may be placed again, of each domain the lowest number. -/
def State.toPlace (s : State) : List (Nat × Txn) := [false, true].filterMap s.lowestEvicted

/-- R308, R304: the reservations of core c that a transaction may evict: of higher numbers of its domain that are not dispatched. -/
def State.evictable (s : State) (num c : Nat) : List Nat :=
  s.txns.filterMap (fun e => match e.2 with
    | some t => if t.core = c && !t.evicted && numBefore num e.1 && (t.phase == .numbered || t.phase == .requested)
        then some e.1 else none
    | none => none)

/-- R308: RESERVATION_EVICTION: the reservation is withdrawn; number and tenures stay, and every tile is pushed again. -/
def State.evict (s : State) (num : Nat) : State :=
  match s.txnOf num with
  | none => s
  | some t =>
    let s := s.modCore t.core (fun k => { k with res := k.res.filter (fun r => r.owner ≠ .txn num) })
    s.setTxn num (some { t with evicted := true, granted := t.granted.map (fun _ => false), pushed := [] })

/-- R308, R313, R314: the cores a numbered transaction may be placed on again: those of its placement, or of its cluster where R313 moves
it; where none of them is in service any more, every core of its cluster, then of the package (DESIGN CHOICE, log 61). -/
def State.placesAgain (s : State) (t : Txn) : List Nat :=
  let near := ((List.range 16).map (fun i => t.core / 16 * 16 + i)).filter s.placeable
  let first := if t.moved then near else s.placement (parseTxn t.sub.desc)
  if !first.isEmpty then first else if !near.isEmpty then near else (List.range numCores).filter s.placeable

/-- R308, R313: a numbered transaction is placed again; one that R313 moves evicts where it must, the highest number first. none: it
finds no place yet. -/
def State.placeAgain (s : State) (num : Nat) (t : Txn) : Option State :=
  let cores := s.placesAgain t
  match s.chooseCore cores t.sub.sizes with
  | some (c, rs) => some ((s.reserve num t c rs).askAgain num)
  | none =>
    if !t.moved then none
    else
      let roomy := fun (c : Nat) =>
        let gone := (s.evictable num c).map ResOwner.txn
        let k := s.coreOf c
        ({ k with res := k.res.filter (fun r => !gone.contains r.owner) }.roomFor t.sub.sizes).isSome
      (cores.find? (fun c => !(s.evictable num c).isEmpty && roomy c)).map (fun c =>
        s.evict ((s.evictable num c).foldl (fun a b => if numBefore a b then b else a) num))

/-- R307, R308: RESERVATION_AND_NUMBERING. -/
def execReservationAndNumbering (s : State) : Out :=
  .next (match s.toPlace with
    | [] => s.numberHead
    | l => (l.findSome? (fun e => s.placeAgain e.1 e.2)).getD s)

/-! Rounds (R300 to R303). -/

/-- R282 condition 1, R302, R309: the round of a number may be granted. -/
def State.roundReady (s : State) (num : Nat) : Bool := decide (numRound num < (if numPod num then s.podComplete else s.ownClosed false))

/-- R302: a request of this package's sequencer is acknowledged: by the lock manager that holds it, or, with its place kept there, as it
is returned (R283, log 61). -/
def State.requestAcked (s : State) (r : TenReq) : State :=
  let s := { s with seq := { s.seq with unacked := s.seq.unacked.filter (· != r) } }
  s.settleRounds

/-- R302: a lock manager of this package acknowledges a request to the sequencer that sent it. -/
def State.acceptReq (s : State) (r : TenReq) : State :=
  if numPkg r.num = Config.pkg then s.requestAcked r else s.out (.tenureAccepted r)

/-- R302: a tenure request leaves for its home lock manager. -/
def State.routeRequest (s : State) (asid : Nat) (r : TenReq) : State :=
  if handlePkg r.handle = Config.pkg then s.due (.tenureRequestArrival r (.request asid)) else s.out (.tenure (handlePkg r.handle) r asid)

/-- R302: a tenure request is sent and waits for its acknowledgement. -/
def State.sendRequest (s : State) (asid : Nat) (r : TenReq) : State :=
  { s with seq := { s.seq with unacked := s.seq.unacked ++ [r] } }.routeRequest asid r

/-- R302: the transactions numbered in a round send their requests. -/
def State.sendRound (s : State) (round : Nat) : State :=
  s.txns.foldl (fun s e =>
    match e.2 with
    | none => s
    | some t =>
      if numRound e.1 = round ∧ t.phase = .numbered then
        let s := s.setTxn e.1 (some { t with phase := .requested })
        (parseTxn t.sub.desc).tiles.foldl (fun s x => s.sendRequest t.sub.asid ⟨e.1, x.handle, x.w⟩) s
      else s) s

/-- R300: the round may close: its deadline has passed or a batch is full, and R303 allows it. -/
def State.closable (s : State) : Bool :=
  s.seq.roundOpen && !s.seqFull &&
  (decide (s.seq.opened + s.seq.period * 3000 ≤ s.wall) || s.seq.nextPk == 4096 || s.seq.nextPod == 4096)

/-- R300: the round opened after round r. -/
def State.openRound (s : State) (r : Nat) : State :=
  { s with seq := { s.seq with round := r, roundOpen := true, nextPk := 0, nextPod := 0, opened := s.wall, period := s.seq.nextPeriod } }

/-- R300, R302, R358: ROUND_CLOSE. -/
def execRoundClose (s : State) : Out :=
  .next (
    if !s.closable then s
    else
      let r := s.seq.round
      let next := Nat.max (r + 1) s.seq.highest
      let s := s.sendRound r
      let s := if s.otherMember then { s with seq := { s.seq with closing := s.seq.closing ++ [(r, next)] } } else s
      let s := if s.seq.joinHold.isEmpty then s.openRound next else { s with seq := { s.seq with roundOpen := false } }
      let s := { s with seq := { s.seq with closedHere := s.seq.closedHere ++ [r] } }
      let s := s.settleRounds
      if s.fe.updating then s.due .liveUpdateHandover else s)

/-- R302: CLOSURE_ARRIVAL. -/
def execClosureArrival (pkg round next : Nat) (s : State) : Out :=
  .next (
    let old := smGet (fun _ => 0) s.seq.closures pkg
    { s with seq := { s.seq with
      closures := smSet (fun _ => 0) s.seq.closures pkg (Nat.max old (Nat.max (round + 1) next))
      highest := Nat.max s.seq.highest (Nat.max round next) } }.pruneRounds)

/-! Requests at the lock managers (R280, R283). -/

/-- R281: the physical lock manager of a handle. -/
def State.physOf (s : State) (h : Nat) : Nat := (s.lmOf (handleLmi h)).phys

/-- R283: the requests pending at a physical lock manager. -/
def State.pendAt (s : State) (phys : Nat) : List PendReq := s.pend.filter (fun p => s.physOf p.req.handle == phys)

/-- R283: a request returned to the sequencer that sent it; the lock manager knows that it will come back. -/
def State.returnReq (s : State) (p : PendReq) : State :=
  let s := { s with lmBack := s.lmBack.filter (fun (b : PendReq) => b.req != p.req) ++ [{ p with told := false }] }
  if numPkg p.req.num = Config.pkg then { s with seq := { s.seq with returned := s.seq.returned ++ [p] } }.requestAcked p.req
  else s.out (.tenureReturned p.req)

/-- R276, R282: a request that fails its transaction. -/
def State.failReq (s : State) (r : TenReq) : State :=
  let s := { s with pend := s.pend.filter (fun p => p.req != r), lmBack := s.lmBack.filter (fun p => p.req != r) }
  if numPkg r.num = Config.pkg then (s.requestAcked r).failTxn r.num else s.out (.grant r ⟨0, false, true, [], none⟩)

/-- R302: a request that this package's sequencer no longer waits for. -/
def State.reqDead (s : State) (r : TenReq) : Bool :=
  numPkg r.num == Config.pkg && (match s.txnOf r.num with | some t => t.phase != .requested | none => true)

/-- R283: the request of the highest number, the later one of equal numbers. -/
def topReq : List PendReq → Option PendReq
  | [] => none
  | p :: t => some (t.foldl (fun a b => if numBefore b.req.num a.req.num then a else b) p)

/-- R283: a request queued; at a full lock manager the highest-numbered held one is returned, or this one, where its number is above all
of them. Numbers are compared within the request's domain (R299, R304); a full lock manager that holds none of that domain returns the
highest of the other, so that the lowest of each domain holds a place (DESIGN CHOICE, log 61). -/
def State.queueReq (s : State) (p : PendReq) : State :=
  let s := { s with lmBack := s.lmBack.filter (fun b => b.req != p.req) }
  let p := { p with told := false }
  let held := s.pendAt (s.physOf p.req.handle)
  let mine := held.filter (fun b => numPod b.req.num == numPod p.req.num)
  if held.length < 4096 then { s with pend := s.pend ++ [p] }.acceptReq p.req
  else if !mine.isEmpty && mine.all (fun b => numBefore b.req.num p.req.num) then s.returnReq p
  else
    match topReq (if mine.isEmpty then held else mine) with
    | none => s.returnReq p
    | some top => ({ s with pend := s.pend.filter (fun b => b != top) ++ [p] }.acceptReq p.req).returnReq top

/-- A request put in its place by number, among those of its domain. -/
def insertReq (p : PendReq) : List PendReq → List PendReq
  | [] => [p]
  | q :: t => if numBefore p.req.num q.req.num then p :: q :: t else q :: insertReq p t

/-- R283: a physical lock manager has room: the other packages whose requests it has returned are told, once. -/
def State.tellRoom (s : State) (phys : Nat) : State :=
  let owed := fun (p : PendReq) => numPkg p.req.num != Config.pkg && s.physOf p.req.handle == phys && !p.told
  let ms := ((s.lmBack.filter owed).map (fun p => (numPkg p.req.num, handleLmi p.req.handle))).dedup
  ms.foldl (fun s x => s.out (.lmRoom x.1 x.2)) { s with lmBack := s.lmBack.map (fun p => if owed p then { p with told := true } else p) }

/-- R283: TENURE_REQUEST_RESEND: a lock manager with room: a physical one of this package, a logical one of another. The requests that it
has returned are sent again in the number order of each domain. -/
def execTenureRequestResend (l : LockMan) (s : State) : Out :=
  .next (
    let own := l.pkg == Config.pkg
    let room := if own then 4096 - (s.pendAt l.lm).length else 4096
    let mine := s.seq.returned.filter (fun p => handlePkg p.req.handle == l.pkg &&
      (if own then s.physOf p.req.handle else handleLmi p.req.handle) == l.lm)
    let sorted := fun (pod : Bool) => (mine.filter (fun p => numPod p.req.num == pod)).foldl (fun a p => insertReq p a) []
    let go := [false, true].flatMap (fun pod => if own then (sorted pod).take room else sorted pod)
    let s := if own && decide (0 < room) then s.tellRoom l.lm else s
    let s := { s with seq := { s.seq with returned := s.seq.returned.filter (fun p => !go.contains p) } }
    go.foldl (fun s p => s.routeRequest p.asid p.req) s)

/-! Grants and pushes (R282, R284). -/

/-- R274: the runs of contiguous bytes of a tile in packed order. -/
def tileRuns (d : TileDesc) : List (Word × Nat) :=
  let e := 2 ^ d.esz
  let used := (d.dims.zip d.strides).take d.rank
  match used with
  | (n, st) :: rest =>
    if st = e then
      (List.range (rest.foldl (fun a x => a * x.1) 1)).map (fun k => (BitVec.ofNat 64 (d.base + elemOff rest k), n * e))
    else (elemAddrs d).map (fun a => (a, e))
  | [] => []

/-- R275: the pages of a tile's extent: mapped to this package's memory with R, A and D set, and with W for a LIVE tile. -/
def State.tilePagesOk (s : State) (t : Tile) : Except AccFault Unit :=
  let first := t.desc.base / 65536
  ((List.range (extentLast t.desc / 65536 + 1 - first)).forM (fun i => do
    let va := BitVec.ofNat 64 ((first + i) * 65536)
    let p ← s.translate agentCore t.asid va (if t.state = .live then .atomic else .read)
    if p.host || p.window || paPkg p.pa != Config.pkg || !pteBit p.leaf 9 then throw (.abort 0x07 va)))

/-- R284: the packed bytes of a tile at home. -/
def State.readTile (s : State) (t : Tile) : Except AccFault (List Byte) := do
  s.tilePagesOk t
  ((tileRuns t.desc).mapM (fun r => s.readEng agentCore t.asid true r.1 r.2)).map (·.flatten)

/-- R286: a held store lies in the footprint of a tile. -/
def State.heldIn (s : State) (t : Tile) : Bool := s.heldStores.any (fun h => decide (h.act.pa < 2 ^ 56) && s.tileHas t h.act.pa)

/-- R274: two tiles of one address space whose extents intersect. -/
def CommitOut.meets (c : CommitOut) (asid : Nat) (d : TileDesc) : Bool := c.asid == asid && extentsMeet c.desc d

/-- R284: the commits on a related handle whose home receipt is out, oldest first; one whose entry a THJOIN has freed is taken by the bytes
it writes. -/
def State.commitsOn (s : State) (key : Nat) : List CommitOut :=
  let t := s.tileAt key
  s.commits.filter (fun c => if s.stale c.handle then c.meets t.asid t.desc else s.related key (tileKey c.handle))

/-- R286: a store is held that has to be applied before the next grant on a handle: in the tile's footprint, in that of a related tile
which holds a tenure, or in that of a commit whose home receipt is out. -/
def State.heldBefore (s : State) (key : Nat) : Bool :=
  s.heldStores.any (fun h => decide (h.act.pa < 2 ^ 56) &&
    (s.tileHas (s.tileAt key) h.act.pa ||
     s.tiles.any (fun e => s.related key e.1 && !e.2.tenures.isEmpty && s.tileHas e.2 h.act.pa) ||
     (s.commitsOn key).any (fun c => s.tileHas { desc := c.desc, asid := c.asid } h.act.pa)))

/-- The place of a handle among the entries of a transaction. -/
def Txn.entryOf (t : Txn) (h : Nat) : Option Nat := (List.range t.granted.length).find? (fun k => (txnEntry t.sub.desc k).handle == h)

/-- R284: the previous holder, when the push of a request comes from its victim buffer, and the packed bytes: bytes with an uncorrectable
error among them fail the push. A holder of another package sends them to the next holder that its grant names. -/
def State.victimOf (s : State) (r : TenReq) : Option (CommitOut × Except AccFault (List Byte)) :=
  match (s.commitsOn (tileKey r.handle)).getLast? with
  | none => none
  | some c =>
    if c.handle ≠ r.handle ∨ s.heldIn (s.tileAt (tileKey r.handle)) then none
    else match s.txnOf c.num with
      | some t => (t.entryOf r.handle).map (fun k => (c, if t.dataBad.contains k then .error (.abort 0x09 0) else .ok (t.data.getD k [])))
      | none =>
        if c.next ≠ some r.num then none
        else if numPkg r.num ≠ Config.pkg then some (c, .ok [])
        else (s.txnOf r.num).bind (fun t => (t.entryOf r.handle).bind (fun k =>
          (t.pushed.find? (fun e => e.1 == k)).map (fun e => (c, .ok e.2))))

/-- R281: a request that a move of its index holds. -/
def heldReq : Instr → Option TenReq
  | .tenureRequestArrival r (.request _) => some r
  | _ => none

/-- R282 condition 2: a pending request of a lower number on a related handle is not granted yet; one that has been returned (R283) or
that a move holds (R281) is pending. -/
def State.lowerPends (s : State) (r : TenReq) : Bool :=
  (((s.pend ++ s.lmBack).map (·.req)) ++ s.lmHeld.filterMap heldReq).any (fun q =>
    s.related (tileKey r.handle) (tileKey q.handle) && numBefore q.num r.num)

/-- R282: the three conditions of a grant. -/
def State.grantFree (s : State) (r : TenReq) : Bool :=
  let key := tileKey r.handle
  s.roundReady r.num &&
  ((s.tileAt key).state == .frozen ||
    (!s.lowerPends r && !s.tiles.any (fun e => s.related key e.1 && e.2.tenures.any (fun n => n.w || r.w))))

/-- R284: the bytes of a push can be read: every earlier commit on a related handle has its home receipt, or a victim buffer has them. -/
def State.pushable (s : State) (r : TenReq) : Bool := (s.commitsOn (tileKey r.handle)).isEmpty || (s.victimOf r).isSome

/-- R282, R284, R286: the request may be granted: no store is held that comes before the grant, and its push can be made. -/
def State.grantReady (s : State) (r : TenReq) : Bool :=
  s.grantFree r && !s.heldBefore (tileKey r.handle) && s.pushable r

/-- R285: the pending request on a handle that a grant names next. -/
def State.nextHolder (s : State) (h : Nat) : Option TenReq :=
  if s.heldBefore (tileKey h) then none else (s.pend.find? (fun p => p.req.handle == h && s.grantFree p.req)).map (·.req)

/-- R285: the bytes of a tile from its previous holder arrive for a transaction of this package that waits for them. -/
def State.pushTo (s : State) (num handle : Nat) (bs : List Byte) : State :=
  match s.txnOf num with
  | none => s
  | some t =>
    match t.entryOf handle with
    | none => s
    | some k =>
      if t.phase ≠ .requested || t.evicted || t.granted.getD k true || bs.length != (t.ranges.getD k (0, 0)).2 then s
      else s.setTxn num (some { t with pushed := t.pushed.filter (fun e => e.1 != k) ++ [(k, bs)] })

/-- R284, R309: the pushed bytes land in the reservation of a transaction of this package; bytes that are not TileBytes are no push of the
tile (log 58). -/
def State.landTile (s : State) (num handle : Nat) (p : TilePush) : State :=
  match s.txnOf num with
  | none => s
  | some t =>
    match t.entryOf handle with
    | none => s
    | some k =>
      if t.phase ≠ .requested then s
      else if p.fail then s.failTxn num
      else
        let t := { t with gver := t.gver.set k p.ver, frozen := t.frozen.set k p.frozen }
        if t.evicted then s.setTxn num (some t)
        else
          let g := t.ranges.getD k (0, 0)
          if p.data.length ≠ g.2 then s
          else (s.modCore t.core (fun c => c.wrLoc (placed g.1 p.data))).setTxn num (some { t with granted := t.granted.set k true })

/-- R285: a next holder on another package owes its receipt to the transaction whose victim buffer serves it. -/
def State.owesNext (s : State) (c : CommitOut) : State :=
  match s.txnOf c.num with
  | none => s
  | some t =>
    match t.entryOf c.handle with
    | none => s
    | some k => s.setTxn c.num (some { t with nextOut := t.nextOut ++ [k] })

/-- R284: the push of a granted tile; a failed one fails the transaction. -/
def State.pushTile (s : State) (r : TenReq) : State :=
  let t := s.tileAt (tileKey r.handle)
  let v := s.victimOf r
  match (v.map (·.2)).getD (s.readTile t) with
  | .error (.line n _) => s.askHost n true
  | .error _ => s.failReq r
  | .ok bs =>
    let s := { s with pend := s.pend.filter (fun p => p.req != r) }
    let has := t.tenures.any (fun n => n.num == r.num)
    let s := if t.state = .frozen || has then s
      else s.setTile (tileKey r.handle) { t with tenures := t.tenures ++ [⟨r.num, r.w⟩] }
    let p : TilePush := ⟨t.version, t.state == .frozen, false, bs, v.map (·.1.num)⟩
    if numPkg r.num = Config.pkg then s.landTile r.num r.handle p
    else (match v with | some c => s.owesNext c.1 | none => s).out (.grant r p)

/-- R280, R281, R283, R308: TENURE_REQUEST_ARRIVAL at a lock manager here. A request under a tenure that stands is pushed again; one that
was queued before THFREE and has been returned is served. -/
def State.requestArrives (s : State) (r : TenReq) (asid : Nat) : State :=
  let t := s.tileAt (tileKey r.handle)
  if (s.lmOf (handleLmi r.handle)).moving then { s with lmHeld := s.lmHeld ++ [.tenureRequestArrival r (.request asid)] }
  else if s.reqDead r then { s with lmBack := s.lmBack.filter (fun p => p.req != r) }.acceptReq r
  else if s.pend.any (fun p => p.req == r) then s
  else if !s.stale r.handle && t.tenures.any (fun n => n.num == r.num) then
    { s with pend := s.pend ++ [PendReq.mk r asid false] }.due (.tenureGrant r none)
  else if s.stale r.handle || (t.state == .retiring && !s.lmBack.any (fun p => p.req == r)) then s.failReq r
  else s.queueReq ⟨r, asid, false⟩

/-- R283, R302: TENURE_REQUEST_ARRIVAL: a request arrives here, or the word of another package's lock manager on one sent there. -/
def execTenureRequestArrival (r : TenReq) (a : TenNews) (s : State) : Out :=
  .next (match a with
    | .request asid => s.requestArrives r asid
    | .accepted => s.requestAcked r
    | .returned =>
      match s.txnOf r.num with
      | none => s
      | some t => ({ s with seq := { s.seq with returned := s.seq.returned ++ [PendReq.mk r t.sub.asid false] } } : State).requestAcked r)

/-- R308: a tile that was pushed before, under a tenure or as a FROZEN one, waits to be pushed again. -/
def State.repushes (s : State) (r : TenReq) : Bool :=
  match s.txnOf r.num with
  | none => false
  | some t =>
    t.phase == .requested && !t.evicted && (List.range t.granted.length).any (fun k =>
      (txnEntry t.sub.desc k).handle == r.handle && t.granted.getD k true == false &&
      (t.frozen.getD k false || (s.tileAt (tileKey r.handle)).tenures.any (fun n => n.num == r.num)))

/-- R308, R313: a tile is pushed once more, under a tenure that stands or as a FROZEN one, as soon as its bytes can be read. -/
def State.pushesAgain (s : State) (r : TenReq) : Bool :=
  (s.repushes r || (s.pend.any (fun q => q.req == r) && (s.tileAt (tileKey r.handle)).tenures.any (fun n => n.num == r.num))) && s.pushable r

/-- R285: what a previous holder of this package has pushed for a tile of another one. -/
def State.pushedFor (s : State) (num handle : Nat) : Option (List Byte) :=
  (s.txnOf num).bind (fun t => (t.entryOf handle).bind (fun k => (t.pushed.find? (fun e => e.1 == k)).map (·.2)))

/-- R282, R285: the grant of another package's lock manager, with the bytes that it pushes, or a previous holder; that one, on another
package, gets its receipt. -/
def State.farGrant (s : State) (r : TenReq) (p : TilePush) : State :=
  let s := s.landTile r.num r.handle { p with data := (s.pushedFor r.num r.handle).getD p.data }
  match p.prev with
  | some m => if numPkg m = Config.pkg then s else s.out (.nextReceipt m r.handle)
  | none => s

/-- R285: the previous holder of a tile homed here, on another package, pushes its bytes to the next holder that its grant has named. -/
def State.holderPush (s : State) (r : TenReq) (p : TilePush) : State :=
  match s.commits.find? (fun c => c.handle == r.handle && c.next == some r.num && numPkg c.num != Config.pkg) with
  | none => s
  | some c => (if p.fail then s.failReq r else s.pushTo r.num r.handle p.data).out (.nextReceipt c.num r.handle)

/-- R282, R284, R285: TENURE_GRANT; p: a grant of another package's lock manager with the bytes that it, or the previous holder, pushes; or
those of the previous holder of a tile homed here. Stores on their way reach their homes before a push is read. -/
def execTenureGrant (r : TenReq) (p : Option TilePush) (s : State) : Out :=
  .next (
    if handlePkg r.handle ≠ Config.pkg then
      match p with
      | some p => if numPkg r.num = Config.pkg then s.farGrant r p else s
      | none => s
    else if let some p := p then (if numPkg r.num = Config.pkg then s.holderPush r p else s)
    else
      let s := s.drainAll
      if s.repushes r && s.stale r.handle then s.failReq r
      else if s.pushesAgain r then s.pushTile r
      else if !s.pend.any (fun q => q.req == r) || !s.grantReady r then s
      else if (s.tileAt (tileKey r.handle)).state = .frozen ∧ r.w then s.failReq r
      else s.pushTile r)

/-! Dispatch (R309). -/

/-- R309: the bytes of map entry k. -/
def mapBytes (t : Txn) (k : Nat) : List Byte :=
  let e := txnEntry t.sub.desc k
  let g := t.ranges.getD k (0, 0)
  let v := t.gver.getD k 0
  let fl := e.w.toNat + 2 * e.chk.toNat + 4 * (e.chk && v != e.ver).toNat + 8 * (t.frozen.getD k false).toNat
  bytesOf 4 g.1 ++ bytesOf 4 g.2 ++ bytesOf 4 v.toNat ++ bytesOf 4 fl

/-- R309: the transaction may be dispatched. -/
def State.dispatchReady (s : State) (num : Nat) (t : Txn) : Bool :=
  t.phase == .requested && !t.evicted && t.granted.all id && (!t.granted.isEmpty || s.roundReady num)

/-- R309: DISPATCH: the map is written, the reservation is held, and the dispatch message goes to the agent port. -/
def execDispatch (num : Nat) (s : State) : Out :=
  .next (match s.txnOf num with
    | none => s
    | some t =>
      if !s.dispatchReady num t then s
      else
        let d := parseTxn t.sub.desc
        let map := (List.range t.granted.length).flatMap (mapBytes t)
        let s := s.modCore t.core (fun k => { (k.wrLoc (placed t.map (padTo 256 map))) with
          res := k.res.map (fun r => if r.owner = .txn num then { r with state := .held } else r) })
        let s := s.setTxn num (some { t with phase := .dispatched })
        let m : Message := { dest := globalCore t.core, queue := d.queue, hid := d.hid, len := 4, kind := .dispatch, prio := d.prio,
                             clines := 0, src := Config.pkg * 4096, agent := true, msgid := num % 2 ^ 32, payload := d.args, num := some num }
        s.due (.messageArrival t.core m))

/-! Commit and release (R285, R286). -/

/-- A tenure of an entry removed. -/
def State.dropTenure (s : State) (key num : Nat) : State :=
  let t := s.tileAt key
  s.setTile key { t with tenures := t.tenures.filter (fun n => n.num != num) }

/-- R279: the version of a handle, of its ancestors and of its descendants rises by one. -/
def State.raiseVersions (s : State) (key : Nat) : State :=
  s.tiles.foldl (fun s' e =>
    if e.2.state != .free && s.related key e.1 then s'.setTile e.1 { e.2 with version := e.2.version + 1 } else s') s

/-- R285 phase 2: a commit that waits for its grant has it. -/
def State.grantTaken (s : State) (num handle : Nat) : State :=
  match s.txnOf num with
  | none => s
  | some t => s.setTxn num (some { t with waitGrant := t.waitGrant.filter (fun k => (txnEntry t.sub.desc k).handle != handle) })

/-- R285 phase 3: the bytes of a tile homed on another package go to its home, and to the named next holder, here or on another package,
whose receipt is then awaited; a victim buffer in error fails that holder's push. -/
def State.sendBack (s : State) (num handle : Nat) (next : Option Nat) : State :=
  match s.txnOf num with
  | none => s
  | some t =>
    match t.waitGrant.find? (fun k => (txnEntry t.sub.desc k).handle == handle) with
    | none => s
    | some k =>
      let s := (s.grantTaken num handle).out (.writeBack num handle (t.data.getD k []))
      match next with
      | some n =>
        if numPkg n = Config.pkg then (if t.dataBad.contains k then s.failTxn n else s.pushTo n handle (t.data.getD k []))
        else (s.out (.nextData n handle (t.data.getD k []))).setTxn num
          ((s.txnOf num).map (fun t => { t with nextOut := t.nextOut ++ [k] }))
      | none => s

/-- R285 phase 2: COMMIT_GRANT; h.next: the next holder that another package's lock manager names. A next holder that the victim buffer
can serve gets its push before the home receipt. -/
def execCommitGrant (num : Nat) (h : Granted) (s : State) : Out :=
  .next (
    let handle := h.handle
    if handlePkg handle ≠ Config.pkg then s.sendBack num handle h.next
    else
      let key := tileKey handle
      let t := s.tileAt key
      if s.stale handle || !t.tenures.any (fun n => n.num == num && n.w) then s
      else
        let s := (s.raiseVersions key).dropTenure key num
        let holder := s.nextHolder handle
        let c : CommitOut := { num := num, handle := handle, desc := t.desc, asid := t.asid, next := holder.map (·.num) }
        let s := { s with commits := s.commits ++ [c] }.retire? key
        if numPkg num = Config.pkg then
          let s := s.grantTaken num handle
          let s := match holder with | some r => if s.grantReady r then s.due (.tenureGrant r none) else s | none => s
          s.due (.homeReceipt num handle (.data []))
        else s.out (.commitGranted num handle c.next))

/-- R241, R275, R285: bytes of a run written back at home. -/
def State.writeHome (s : State) (asid : Nat) (va : Word) (bs : List Byte) : Except AccFault State := do
  let ps ← (pageChunks va bs.length).mapM (fun x => (s.translate agentCore asid x.1 .atomic).map (fun p => (p, x.1, x.2)))
  if ps.any (fun x => x.1.host || x.1.window || paPkg x.1.pa != Config.pkg) then throw (.abort 0x0A va)
  s.noHostLine agentCore ps
  let pl := (ps.foldl (fun (a : List (Nat × Byte) × List Byte) (x : Page × Word × Nat) =>
    (a.1 ++ placed x.1.pa (a.2.take x.2.2), a.2.drop x.2.2)) ([], bs)).1
  let atoms : List (Nat × List (Nat × Byte)) := byAtom pl
  if atoms.any (fun a => smGet (fun _ => false) s.poison a.1 && decide (a.2.length < 32)) then throw (.abort 0x09 va)
  let s := { s with poison := atoms.foldl (fun (m : SMap Bool) (a : Nat × List (Nat × Byte)) => smSet (fun _ => false) m a.1 false) s.poison }
  return (s.wrHbm none pl).fire (fun w => !w.loc && atoms.any (fun a => a.1 == w.atom))

/-- R285 phase 3: the packed bytes of a tile written back, unpacked; false when a page forbids it (R275). -/
def State.writeTile (s : State) (asid : Nat) : List (Word × Nat) → List Byte → Except AccFault State
  | [], _ => .ok s
  | (va, n) :: t, bs =>
    match s.writeHome asid va (bs.take n) with
    | .error e => .error e
    | .ok s => s.writeTile asid t (bs.drop n)

/-- R284, R371: the bytes of a victim buffer that held an uncorrectable error arrive poisoned at home (log 60). -/
def State.poisonTile (s : State) (c : CommitOut) : State :=
  let atoms := (tileRuns c.desc).flatMap (fun r =>
    match s.translate agentCore c.asid r.1 .read with
    | .ok p => (List.range ((p.pa + r.2 - 1) / 32 + 1 - p.pa / 32)).map (fun i => p.pa / 32 + i)
    | .error _ => [])
  { s with poison := atoms.foldl (fun (m : SMap Bool) a => smSet (fun _ => false) m a true) s.poison }

/-- R23, R285: an earlier commit to bytes of this one's footprint still lacks its home receipt. -/
def State.commitBefore (s : State) (c : CommitOut) : Bool := (s.commits.takeWhile (fun x => x != c)).any (fun x => x.meets c.asid c.desc)

/-- R275: a write-back that its pages refuse fails its transaction. -/
def State.refuseBack (s : State) (num : Nat) : State :=
  match s.txnOf num with
  | some t => s.setTxn num (some { t with result := some false })
  | none => s

/-- R285, R275: the home receipt of a commit: held stores are applied, and the transaction, or the package that sent it, is told. -/
def State.backDone (s : State) (c : CommitOut) (ok : Bool) : State :=
  let s := { s with commits := s.commits.filter (fun x => x != c) }.applyHeld
  if numPkg c.num = Config.pkg then (if ok then s else s.refuseBack c.num).tileClosed c.num c.handle
  else s.out (.receipt c.num c.handle ok)

/-- R285: the packed bytes of a commit reach this home; data: those of another package's holder. They are written behind every earlier
write-back to the same bytes (R23), and once the host has answered for their lines (R337). -/
def State.writeBack (s : State) (c : CommitOut) (data : List Byte) : State :=
  let t := s.txnOf c.num
  let k := t.bind (fun t => t.entryOf c.handle)
  let mine := t.bind (fun t => k.map (fun k => t.data.getD k []))
  let bs := padTo (tileBytes c.desc) (mine.getD (c.data.getD data))
  let later := { s with commits := s.commits.map (fun x => if x = c then { x with data := if t.isNone then some bs else none } else x) }
  if s.commitBefore c then later
  else match s.writeTile c.asid (tileRuns c.desc) bs with
    | .ok s => (if (t.bind (fun t => k.map (fun k => t.dataBad.contains k))).getD false then s.poisonTile c else s).backDone c true
    | .error (.line n _) => later.askHost n true
    | .error _ => s.backDone c false

/-- R275, R285: HOME_RECEIPT: the bytes of a commit reach this home; a home on another package has them, or has refused them; a next holder
has them. -/
def execHomeReceipt (num handle : Nat) (r : Receipt) (s : State) : Out :=
  .next (match r with
    | .next => s.nextClosed num handle
    | .home ok => if handlePkg handle = Config.pkg then s else (if ok then s else s.refuseBack num).tileClosed num handle
    | .data bs =>
      if handlePkg handle ≠ Config.pkg then s
      else match s.commits.find? (fun c => c.num == num && c.handle == handle) with
        | none => s
        | some c => s.writeBack c bs)

/-- R285: TENURE_RELEASE: a tenure ends without writes, and held stores that it kept are applied. -/
def execTenureRelease (num handle : Nat) (s : State) : Out :=
  .next (
    if handlePkg handle ≠ Config.pkg then s.tileClosed num handle
    else
      let key := tileKey handle
      let keep := fun (p : PendReq) => !(p.req.num == num && p.req.handle == handle)
      let s := { s with pend := s.pend.filter keep, lmBack := s.lmBack.filter keep }
      let s := if s.stale handle then s else ((s.dropTenure key num).applyHeld).retire? key
      if numPkg num = Config.pkg then s.tileClosed num handle else s.out (.released num handle))

/-! The pod (R305, R323, R324). -/

/-- R305: every tenure that has not reached its commit grant, and every request, numbered by a package ends without writes. -/
def State.dropForeign (s : State) (pkg : Nat) : State :=
  let keep := fun (p : PendReq) => numPkg p.req.num != pkg
  let s := { s with
    pend := s.pend.filter keep, lmBack := s.lmBack.filter keep
    lmHeld := s.lmHeld.filter (fun i => match heldReq i with | some r => numPkg r.num != pkg | none => true) }
  let s := s.tiles.foldl (fun s e =>
    if e.2.tenures.any (fun n => numPkg n.num == pkg) then
      s.setTile e.1 { e.2 with tenures := e.2.tenures.filter (fun n => numPkg n.num != pkg) }
    else s) s
  s.tiles.foldl (fun s e => s.retire? e.1) s.applyHeld

/-- R329: a ring whose neighbour is declared out of service. -/
def Ring.lose (pkg : Nat) (r : Ring) : Ring := if r.pred = pkg ∨ r.succ = pkg then { r with err := true, lost := true } else r

/-- R305, R311: what a declaration makes of a transaction: tile k is lost with it, or every tile that has not reached its commit grant,
where this package is the one declared. One that has not issued RETH fails, at once or, while it runs, at its RETH; of one that has, the
lost tiles end without writes and the rest is as R311 states for its RETH (DESIGN CHOICE, log 61). -/
def State.loseTiles (s : State) (num : Nat) (t : Txn) (lost : Nat → Bool) : State :=
  match t.phase with
  | .numbered | .requested | .dispatched => if t.phase = .numbered ∧ s.ownOut = true then s else s.failTxn num
  | .running | .done => s
  | .committing | .releasing =>
    (t.openTiles.filter lost).foldl (fun s k =>
      (s.setTxn num ((s.txnOf num).map (fun t => { t with waitGrant := t.waitGrant.filter (· != k) }))).tileClosed
        num (txnEntry t.sub.desc k).handle) s

/-- R305, R311: the transactions of this package that a declaration of a package touches. -/
def State.loseTxns (s : State) (pkg : Nat) : State :=
  s.txns.foldl (fun s e => match e.2 with
    | none => s
    | some t =>
      if pkg = Config.pkg then s.loseTiles e.1 t (fun k => t.waitGrant.contains k)
      else
        let there := fun (k : Nat) => handlePkg (txnEntry t.sub.desc k).handle == pkg
        if (parseTxn t.sub.desc).tiles.any (fun x => handlePkg x.handle == pkg) then s.loseTiles e.1 t there else s) s

/-- R255, R289, R302, R329: what this package has under way with another one that is declared out of service ends. -/
def State.losePeer (s : State) (pkg : Nat) : State :=
  let s := { s with seq := { s.seq with
    unacked := s.seq.unacked.filter (fun r => handlePkg r.handle != pkg)
    returned := s.seq.returned.filter (fun p => handlePkg p.req.handle != pkg) } }
  let s := s.settleRounds
  let lost := s.remoteOut.filter (fun b => b.bytes.any (fun x => paPkg x.1 == pkg))
  let s := lost.foldl (fun s b => match b.remote with | some id => s.acknowledge id false | none => s) s
  let s := { s with rings := s.rings.map (fun (e : Nat × Option Ring) => (e.1, e.2.map (Ring.lose pkg))) }
  s.cores.foldl (fun (s : State) (e : Nat × Core) => (List.range 4).foldl (fun s i =>
    match (s.slotOf e.1 i).wait with
    | .tile _ _ home => if home = pkg then s.due (.tileAnswer e.1 i (.value 7)) else s
    | _ => s) s) s

/-- R305, R289, R329, R255: OUT_OF_SERVICE_DECLARATION: another package's missing closures count as empty from the round on, its
tenures end, transactions that name its tiles fail, tile operations return UNREACHABLE, its rings are lost. One of this package ends
the tenures and requests that it has numbered. -/
def execOutOfServiceDeclaration (pkg round : Nat) (s : State) : Out :=
  .next (
    let m := smGet (fun _ => {}) s.members pkg
    if (pkg ≠ Config.pkg ∧ m.member = false) ∨ m.out = true then s
    else
      let s := { s with members := smSet (fun _ => {}) s.members pkg { m with out := true, outRound := round } }
      let s := s.dropForeign pkg
      if pkg = Config.pkg then s.loseTxns pkg else (s.losePeer pkg).loseTxns pkg)

/-- R323: POD_TIMEOUT_EXPIRY: the declaration names the lowest round that some package of the pod lacks of it. -/
def execPodTimeoutExpiry (pkg : Nat) (s : State) : Out :=
  execOutOfServiceDeclaration pkg (Nat.max (smGet (fun _ => {}) s.members pkg).joinRound (smGet (fun _ => 0) s.seq.closures pkg)) s

/-- R323, R324: POD_JOIN: another package becomes a member when the pod forms; one that joins a running pod, by its join round. This
package, joining a running pod, sends a join notice and opens no round before its join round. -/
def execPodJoin (pkg : Nat) (running : Bool) (s : State) : Out :=
  .next (
    if pkg = Config.pkg then
      (if running && (s.seq.roundOpen || (s.fe.booting && !s.seq.joining)) && s.seq.round == 1 && s.seq.nextPk == 0 && s.seq.nextPod == 0
       then { s with seq := { s.seq with roundOpen := false, joining := true } }.out .joinNotice else s)
    else if 1024 ≤ pkg ∨ running then s
    else { s with members := smSet (fun _ => {}) s.members pkg { member := true, out := false, outRound := 0, joinRound := 1 } })

/-- R324: JOIN_NOTICE: it is acknowledged with the highest round opened here, and no new round opens. -/
def execJoinNotice (pkg : Nat) (s : State) : Out :=
  .next (if pkg = Config.pkg ∨ 1024 ≤ pkg then s
    else { s.out (.joinAck s.seq.round) with seq := { s.seq with joinHold := if s.seq.joinHold.contains pkg then s.seq.joinHold else s.seq.joinHold ++ [pkg] } })

/-- R324: JOIN_ROUND: the package is a member from the round on, and rounds open again once no other join holds them; this package, if it
joins, opens the round as its first, its reset ended (R386). -/
def execJoinRound (pkg round : Nat) (s : State) : Out :=
  .next (
    if pkg = Config.pkg then
      if s.seq.joining && !s.fe.booting then
        { s with seq := { s.seq with joining := false } }.openRound round
      else s
    else if 1024 ≤ pkg then s
    else
      let s := { s with
        members := smSet (fun _ => {}) s.members pkg { member := true, out := false, outRound := 0, joinRound := round }
        seq := { s.seq with closures := smSet (fun _ => 0) s.seq.closures pkg 0, joinHold := s.seq.joinHold.filter (· != pkg) } }
      if s.seq.roundOpen || s.seq.joining || !s.seq.joinHold.isEmpty then s else s.openRound (Nat.max (s.seq.round + 1) s.seq.highest))

/-- R323: MANAGEMENT_WITHDRAW_REQUEST: this package asks to withdraw; the switches declare it. -/
def execManagementWithdrawRequest (s : State) : Out := .next (s.out .withdraw)

end Sys2Proof.Machine
end

