-- ==== Sys2Proof/Machine/Fault.lean ====
section
/-! DEFINITION. Serving faults: RESUME (R378), the driver fault queue and its answers (R365), the resolution table (R366), and
reports after the fact (R370). -/
namespace Sys2Proof.Machine

/-! Ending and resuming a fault (R378). -/

/-- R190: the engine of a core goes on after its fault: its head command starts again from where it was held. -/
def State.clearEngFault (s : State) (c : Nat) (e : Engine) : State :=
  let s := s.modEng c e (fun q => { q with fault := none, frec := {} })
  match e with
  | .matrix => s.modCore c (fun k => { k with rowProg := { k.rowProg with held := false } })
  | .copy => s

/-- R378: the head command of an engine ends with status 0x03, about the address of its fault. -/
def State.endHead (s : State) (c : Nat) (e : Engine) (va : Word) : State :=
  s.modEng c e (fun q => { q with running := some { (q.running.getD { status := 3 }) with status := 3, addr := va } })

/-- R378, R177, R190 step 5: the head command ends with status 0x03: a copy has copied some of its bytes, a block is skipped, the
destination of a matrix command is undefined (R184). -/
def State.endEngFault (s : State) (c : Nat) (e : Engine) : State :=
  let va := (((s.coreOf c).eng e).fault.map (·.addr)).getD 0
  let s := s.clearEngFault c e
  match ((s.coreOf c).eng e).q with
  | [] => s
  | h :: t =>
    match h.instr with
    | .cpy _ _ _ _ _ _ _ | .cpy2d _ _ _ _ _ _ | .cpyt _ _ _ _ _ _ | .ringcfg _ _ _ _ _ =>
      let s := s.modEng c e (fun q => { q with q := { h with blk := 1 } :: t })
      let s := s.startHead c e (fun s h => s.runCopyQueue c h)
      if ((s.coreOf c).eng e).running.isSome then s.endHead c e va else s
    | .rsend _ _ _ ring _ _ _ _ => (s.skipTaken ring.val h.blk).endHead c e va
    | _ => s.endHead c e va

/-- R190: the matrix engine's fault was raised by stopping slot i. -/
def State.rowFaultOf (s : State) (c i : Nat) : Bool :=
  let q := (s.coreOf c).matrix
  match q.q, q.fault with
  | h :: _, some f => f.raised == 1 && h.slot == i &&
      (match (s.slotOf c i).act with | some a => a.serial == h.serial | none => false)
  | _, _ => false

/-- R378: the fault of a slot or of an engine is ended, as aborting or by going on; none when the target holds no fault. -/
def State.endFault (s : State) (c : Nat) (eng : Option Engine) (i : Nat) (abort : Bool) : Option State :=
  match eng with
  | some e =>
    match ((s.coreOf c).eng e).fault with
    | none => none
    | some f => if f.raised ≠ 2 then none else some (if abort then s.endEngFault c e else s.clearEngFault c e)
  | none =>
    if (s.slotOf c i).mode ≠ .faultService then none
    else
      let row := (s.slotOf c i).frec.cause.toNat % 256 = 0x11 && s.rowFaultOf c i
      let s := if !row then s else if abort then s.endEngFault c .matrix else s.clearEngFault c .matrix
      some (if abort then s.resumeSlotAbort c i else s.resumeSlot c i)

/-- R378: the operand names a slot, or an engine; none for a protection fault. -/
def resumeTarget (v : Word) : Option (Option Engine × Nat) :=
  let n := v.toNat
  if 32 ≤ n then none
  else if n / 8 % 2 = 0 then (if 3 < n % 8 ∨ n / 16 = 1 then none else some (none, n % 8))
  else if n % 8 ≠ 0 then none
  else some (some (if n / 16 = 1 then .matrix else .copy), 0)

/-- R378: RESUME and RESUME.abort. -/
def resumeWith (abort : Bool) (g : Guard) (d a : Sreg) (s : State) : Out :=
  guarded g (fun s =>
    if !s.isSystem then s.abortMe ⟨0x07, 0, 0, 0⟩
    else
      match resumeTarget (s.me.s a) with
      | none => s.abortMe ⟨0x07, 0, 0, 0⟩
      | some (eng, i) =>
        match s.endFault s.cur.1 eng i abort with
        | none => (s.modMe (fun x => x.setS d 1)).complete
        | some t => (t.modMe (fun x => x.setS d 0)).complete) s

/-- R378: RESUME. -/
def execResume (g : Guard) (d a : Sreg) (s : State) : Out := resumeWith false g d a s

/-- R378: RESUME.abort. -/
def execResumeAbort (g : Guard) (d a : Sreg) (s : State) : Out := resumeWith true g d a s

/-! The driver fault queue (R365). -/

/-- R365: a record. slot: 4 for an engine fault. -/
def faultRecord (c slot : Nat) (e : Option Engine) (asid : Nat) (r : FaultRec) (cycle : Word) : List Byte :=
  let fl := match e with | none => 0 | some .copy => 1 | some .matrix => 3
  bytesOf 4 (globalCore c) ++ bytesOf 1 slot ++ bytesOf 1 fl ++ bytesOf 2 asid ++ bytesOf 8 r.cause.toNat ++ bytesOf 8 r.addr.toNat ++
  bytesOf 8 r.pc.toNat ++ bytesOf 8 r.msg.toNat ++ bytesOf 8 cycle.toNat ++ bytesOf 16 0

/-- R365: the driver fault queue is full. -/
def State.fsqFull (s : State) : Bool := (s.fe.fsqWr - s.fe.fsqRd).toNat == 2 ^ s.fe.fsqLog2

/-- R365: one record written, and the vector raised. -/
def State.fsqPut (s : State) (r : List Byte) : State :=
  let s := s.wrPhys (s.fe.fsqBase.toNat + 64 * (s.fe.fsqWr.toNat % 2 ^ s.fe.fsqLog2)) r
  let s := { s with fe := { s.fe with fsqWr := s.fe.fsqWr + 1 } }
  if s.fe.fsqEn then s.msix s.fe.fsqVec.toNat else s

/-- R337: the line of the next record of the driver fault queue is held by the host. -/
def State.fsqLine (s : State) : Option Nat :=
  s.hostLine agentCore (s.fe.fsqBase.toNat + 64 * (s.fe.fsqWr.toNat % 2 ^ s.fe.fsqLog2)) 64 true

/-- R365: held records are written while the ring has room. -/
def State.fsqFlush (s : State) : List (List Byte) → State
  | [] => { s with fe := { s.fe with fsqHeld := [] } }
  | r :: t =>
    let held := { s with fe := { s.fe with fsqHeld := r :: t } }
    if s.fsqFull then held
    else match s.fsqLine with
      | some n => held.askHost n true
      | none => (s.fsqPut r).fsqFlush t

/-- R365: a record enters the queue behind the held ones. -/
def State.fsqPush (s : State) (r : List Byte) : State := s.fsqFlush (s.fe.fsqHeld ++ [r])

/-- R365: the fault of slot i is forwarded to the driver; with no ring it ends as aborting at once. -/
def State.forward (s : State) (c i : Nat) : State :=
  let x := s.slotOf c i
  if x.mode ≠ .faultService then s
  else if s.fe.fsqLog2 = 0 then (s.endFault c none i true).getD s
  else
    (s.modSlot c i (fun x => { x with frec := { x.frec with forwarded := true } })).fsqPush
      (faultRecord c i none x.asid.toNat x.frec x.frec.cycle)

/-- R365, R367: the fault of an engine is forwarded to the driver. -/
def State.forwardEng (s : State) (c : Nat) (e : Engine) : State :=
  let q := (s.coreOf c).eng e
  match q.q, q.fault with
  | h :: _, some f =>
    if f.raised ≠ 2 then s
    else if s.fe.fsqLog2 = 0 then (s.endFault c (some e) 0 true).getD s
    else
      (s.modEng c e (fun q => { q with fault := some { f with forwarded := true } })).fsqPush
        (faultRecord c 4 (some e) h.asid.toNat q.frec f.cycle)
  | _, _ => s

/-- R365: FSRESP. An answer whose fields do not agree or that names nothing in fault service is ignored. -/
def execFsresp (v : Word) (s : State) : Out :=
  .next (
    let n := v.toNat
    let g := n % 2 ^ 22
    let c := g % 4096
    let slot := bits n 24 22
    let eng : Option Engine := if bits n 26 26 = 1 then some (if bits n 27 27 = 1 then .matrix else .copy) else none
    let agree : Bool := n / 2 ^ 28 == 0 && g / 4096 == Config.pkg &&
      (match eng with | some _ => slot == 4 | none => decide (slot ≤ 3) && bits n 27 27 == 0)
    let held : Bool := match eng with
      | some e => (match ((s.coreOf c).eng e).fault with | some f => f.raised == 2 | none => false)
      | none => (s.slotOf c slot).mode == .faultService
    if agree = false ∨ held = false then s
    else s.modCore c (fun k => { k with work := k.work ++ [.answer (bits n 25 25 == 1) eng slot] }))

/-- R365: FSQ_IDX: RD is written and held records follow. -/
def execFsqIdx (v : Word) (s : State) : Out :=
  .next (
    let s := { s with fe := { s.fe with fsqRd := v.setWidth 32 } }
    s.fsqFlush s.fe.fsqHeld)

/-- R365: 100 ms in units of 1/24 ns. -/
def answerLimit : Nat := 2400000000

/-- R365, R378: FAULT_ANSWER_TIMEOUT: a fault without an answer for 100 ms ends as aborting, with RES 0. slot: 4 for the engine e. -/
def execFaultAnswerTimeout (core slot : Nat) (e : Engine) (s : State) : Out :=
  .next (
    if slot = 4 then
      match ((s.coreOf core).eng e).fault with
      | some f =>
        if f.raised = 2 ∧ answerLimit ≤ s.wall - f.since then
          let r := ((s.coreOf core).eng e).frec
          ((s.endFault core (some e) 0 true).getD s).flog 1 (globalCore core) { r with cause := (r.cause &&& ~~~0x800000FF#64) + 0x0F } []
        else s
      | none => s
    else
      let x := s.slotOf core slot
      if x.mode = .faultService ∧ answerLimit ≤ s.wall - x.frec.since then (s.endFault core none slot true).getD s else s)

/-- R370: LATE_REPORT. -/
def execLateReport (core cause : Nat) (addr pc : Word) (s : State) : Out := .next (s.lateReport core ⟨cause, addr, 0, 0⟩ pc)

/-! The resolution table (R366). -/

/-- R366: an instruction that writes memory by its own accesses. -/
def writesMemory (op : Nat) : Bool :=
  op == 0x41 || op == 0x43 || op == 0x45 || op == 0x47 || (decide (0x50 ≤ op) && decide (op ≤ 0x55)) || op == 0x59 || op == 0x5A || op == 0xC8

/-- R366: the access of the stopped slot was a write or an atomic. -/
def State.slotWrote (s : State) (c i : Nat) : Bool :=
  let pc := (s.slotOf c i).frec.pc
  match s.fetchLine c i pc false with
  | .error _ => false
  | .ok bs =>
    match decode (slotWord bs (pcSlot pc)) with
    | .instr j => writesMemory (opOf j)
    | .illegalInstruction | .illegalEncoding => false

/-- R366: the level-3 table that an address's walk reaches through valid pointer entries. -/
def State.tableAt (s : State) (c : Nat) (va : Word) : Nat → Nat → Nat → Except AccFault (Option Nat)
  | 0, _, base => .ok (some base)
  | fuel + 1, level, base =>
    match s.walkRead c va (base + 8 * vaIndex va.toNat level) 8 with
    | .error f => .error f
    | .ok e => if pteBad level e || pteBit e 1 then .ok none else s.tableAt c va fuel (level + 1) (bits e 55 16 * 65536)

/-- R366: a record serves an address. -/
def recordServes (r asid va : Nat) : Bool :=
  r / 2 ^ 16 % 2 == 1 && r % 2 ^ 16 == asid && decide (bits r 127 64 ≤ va) && decide (va < bits r 127 64 + bits r 191 128)

/-- R366: the first record of the table, from record i on, that serves an address. -/
def State.tableRecord (s : State) (c asid va : Nat) : Nat → Nat → Except AccFault (Option Nat)
  | 0, _ => .ok none
  | n + 1, i =>
    let pa := s.fe.fsTbase.toNat + 32 * i
    match s.walkRead c (BitVec.ofNat 64 pa) pa 32 with
    | .error f => .error f
    | .ok r => if recordServes r asid va then .ok (some r) else s.tableRecord c asid va n (i + 1)

/-- R366: A, and for a write D, set in an entry. -/
def usedEntry (e : Nat) (write : Bool) : Nat := e ||| 0x100 ||| (if write then 0x200 else 0)

/-- R366: an entry as an 8-byte store of the porter of core c, performed at package scope before it goes on. -/
def State.putEntry (s : State) (c at' e : Nat) : Except AccFault State :=
  match s.hostLine c at' 8 true, s.homeFate at' with
  | some l, _ => .error (.line l true)
  | none, .hold => .error .busy
  | none, .now | none, .fail _ => .ok (s.homeStore { core := c, slot := 4, serial := 0, va := BitVec.ofNat 64 at' } .none (placed at' (bytesOf 8 e)))

/-- R366: fault service resolves a translation fault: its bits set in place, or an entry written from the table. none: it does not. -/
def State.resolve (s : State) (c asid : Nat) (va : Word) (write : Bool) : Except AccFault (Option State) :=
  match s.walkVa c asid va with
  | .ok (e, _, at') => (s.putEntry c at' (usedEntry e write)).map some
  | .error (.line n inv) => .error (.line n inv)
  | .error (.abort 0x09 a) => .error (.abort 0x09 a)
  | .error _ => do
    let root ← match s.rootOf c asid va with | .ok r => .ok (some r) | .error (.abort 0x07 _) => .ok none | .error f => .error f
    match root, (← s.tableRecord c asid va.toNat s.fe.fsTcnt 0) with
    | some root, some r =>
      match (← s.tableAt c va 3 0 root) with
      | none => return none
      | some base =>
        let m := (va.toNat - bits r 127 64) / 65536
        return some (← s.putEntry c (base + 8 * vaIndex va.toNat 3) (usedEntry (bits r 255 192 + 65536 * m) write))
    | _, _ => return none

/-- R60: what an item of the work list comes to: served, or ended by a fault, or a wait, with what it has done before. -/
abbrev Served := State × Option AccFault

/-- R366: fault service of slot i: resolved and resumed, or forwarded. -/
def State.serveSlot (s : State) (c i : Nat) : Served :=
  let x := s.slotOf c i
  if x.mode ≠ .faultService then (s, none)
  else
    let cause := x.frec.cause.toNat % 256
    if cause ≠ 0x10 ∧ cause ≠ 0x11 then (s.forward c i, none)
    else
      match s.resolve c x.asid.toNat x.frec.addr (cause == 0x10 && s.slotWrote c i) with
      | .ok (some t) => ((t.endFault c none i false).getD t, none)
      | .ok none => (s.forward c i, none)
      | .error f => (s, some f)

/-- R366, R367: fault service of an engine. -/
def State.serveEng (s : State) (c : Nat) (e : Engine) : Served :=
  let q := (s.coreOf c).eng e
  match q.q, q.fault with
  | h :: _, some f =>
    if f.raised ≠ 2 then (s, none)
    else
      match s.resolve c h.asid.toNat f.addr f.write with
      | .ok (some t) => ((t.endFault c (some e) 0 false).getD t, none)
      | .ok none => (s.forwardEng c e, none)
      | .error f => (s, some f)
  | _, _ => (s, none)

end Sys2Proof.Machine
end

