-- ==== Sys2Proof/Machine/Inbox.lean ====
section
/-! DEFINITION. Inboxes: arrival, refusal and placing (R210, R211), the agent port, heaps (R209), departure (R215), pre-emption
(R76, R77). -/
namespace Sys2Proof.Machine

/-- A queue of a core changed. -/
def State.modQueue (s : State) (c q : Nat) (f : Queue → Queue) : State := s.modCore c (fun k => k.modQueue q f)

/-- A queue of a core. -/
def State.queueOf (s : State) (c q : Nat) : Queue := (s.coreOf c).queueOf q

/-- R219: one more refusal, saturating. -/
def Queue.countRefusal (q : Queue) : Queue := { q with refused := Nat.min (q.refused + 1) 0xFFFF }

/-! What a front-end packet's message comes to (R210, R343). -/

/-- R343: a message that a MSG packet sends. -/
def fromPacket (m : Message) : Bool :=
  m.num.isSome && (match m.kind with | .plain | .code => true | .reply | .refusal | .crate | .dispatch | .task | .gang => false)

/-- R343: a MSG packet's message is placed, or has failed a check: its packet is told, here or on the package it came from. -/
def State.messageEnd (s : State) (m : Message) (ok : Bool) : State :=
  match m.num with
  | some n =>
    if !fromPacket m then s
    else if m.src / 4096 = Config.pkg then s.packetPart (n / 2 ^ 64) (n % 2 ^ 64) ok
    else s.out (.messageDone m ok)
  | none => s

/-! Refusals (R211). -/

/-- R211: the refusal of a message of core c. By the sending port (reason 8) it comes from the sender and counts there. A MSG packet's
message is refused to nobody, and no refusal is counted (R343). -/
def State.refuse (s : State) (c : Nat) (m : Message) (reason : Nat) : State :=
  if m.kind = .refusal then s.modQueue c (s.coreOf c).rqueue.toNat Queue.countRefusal
  else if fromPacket m then s
  else
    let sc := m.src % 4096
    let own := m.src / 4096 = Config.pkg
    let s := if reason ≠ 8 then s.modQueue c m.queue Queue.countRefusal
      else if own then s.modQueue sc (s.coreOf sc).rqueue.toNat Queue.countRefusal else s
    let k := s.coreOf sc
    let r : Message := {
      dest := m.src, queue := if own then k.rqueue.toNat else 0, hid := if own then k.rhid.toNat else 0, len := 2, kind := .refusal
      prio := m.prio, clines := 0, src := if reason = 8 then m.src else globalCore c, agent := false, msgid := m.msgid
      payload := bytesOf 16 (headerNat m) ++ bytesOf 4 reason ++ bytesOf 12 0 }
    if own then s.due (.messageArrival sc r) else s.out (.message r)

/-! What becomes of an agent's message that cannot start (R210, R207). -/

/-- R309: the transaction of a dispatch message: by its whole number, or by its MSGID where that is all that is known. -/
def State.dispatchTxn (s : State) (c : Nat) (m : Message) : Option Nat :=
  s.txns.findSome? (fun e => match e.2 with
    | some t => if t.core = c ∧ (match m.num with | some n => e.1 == n | none => e.1 % 2 ^ 32 == m.msgid) = true ∧
        (t.phase = .dispatched ∨ t.phase = .running) then some e.1 else none
    | none => none)

/-- R373, R327: an entry of type 6: a dropped arrival or message. -/
def State.logDropped (s : State) (c : Nat) (m : Message) : State :=
  s.flog 6 (globalCore c) { msg := msgIdent m } (msgBytes m)

/-- R327: the ring and the crate that an arrival message names. -/
def arrivalCrate (m : Message) : Nat × Nat := ((m.payload.getD 0 0).toNat % 16, (m.payload.getD 1 0).toNat)

/-- R327: a crate's block is that of the arrival message. -/
def Reservation.landedFor (x : Reservation) (m : Message) : Bool := x.landed && x.blk % 2 ^ 32 == m.msgid

/-- R327, R166: the crate of an arrival is held once its activation starts. -/
def State.holdCrate (s : State) (c : Nat) (m : Message) : State :=
  s.modCore c (fun k => { k with
    res := k.res.map (fun x => if x.owner = .crate (arrivalCrate m).1 (arrivalCrate m).2 ∧ x.landedFor m then { x with state := .held } else x) })

/-- R369, R327: the crate of an arrival message is freed, if the block still lies in it. -/
def State.freeArrival (s : State) (c : Nat) (m : Message) : State :=
  s.freeCrate (arrivalCrate m).1 c (arrivalCrate m).2 (·.landedFor m)

/-- R354: a task ends on core c as a failure. -/
def State.taskFails (s : State) (c lid : Nat) : State := (s.launchFail lid).launchCount lid (sgOf c) (-1)

/-- R207, R210: a message of kind 4 to 7 is removed: its crate is freed and logged, its transaction or task fails, its gang ends. -/
def State.removeAgent (s : State) (c : Nat) (m : Message) : State :=
  match m.kind with
  | .crate => (s.freeArrival c m).logDropped c m
  | .dispatch => (match s.dispatchTxn c m with | some num => s.failTxn num | none => s)
  | .task => s.taskFails c m.msgid
  | .gang => s.gangEnd m.msgid
  | .plain | .code | .reply | .refusal => s

/-- R207: a message that no entry serves is refused NOHANDLER or removed. -/
def State.noHandler (s : State) (c : Nat) (m : Message) : State :=
  match m.kind with
  | .plain | .code | .reply | .refusal => s.refuse c m 2
  | .crate | .dispatch | .task | .gang => s.removeAgent c m

/-- R63: an entry's class allows a kind. -/
def classAllows (cls : Nat) (k : MsgKind) : Bool :=
  match k with
  | .dispatch => cls != 3
  | .gang => cls == 2
  | .plain | .code | .reply | .refusal | .crate | .task => decide (cls ≤ 1)

/-- R210 check 4: the entry serves the message. -/
def State.entryServes (s : State) (c : Nat) (m : Message) : Bool :=
  let h := (s.coreOf c).handlerOf m.hid
  h.valid && classAllows h.cls m.kind

/-! Placing (R209, R210). -/

/-- R210: a message fits in its queue. -/
def Queue.fits (q : Queue) (m : Message) : Bool := decide (q.used + msgSize m ≤ q.size * 256)

/-- R210, R65: a message at the tail of a queue. -/
def State.place (s : State) (c q : Nat) (m : Message) : State :=
  let now := s.cycle.toNat
  (s.modQueue c q (fun x =>
    if x.msgs.isEmpty then { x with msgs := [m], headSince := now, aborts := 0 } else { x with msgs := x.msgs ++ [m] })).messageEnd m true

/-- Heap writes of a queue that the porter has not made. -/
def Core.spilling (k : Core) (q : Nat) : Nat :=
  (k.work.filter (fun w => match w with | .spill p _ => p == q | _ => false)).length

/-- R210: an agent message waits for the queue in the agent port. -/
def Core.agentWaits (k : Core) (q : Nat) : Bool := k.agentPort.any (fun m => m.queue == q)

/-- R209: a message that does not fit: refused FULL, spilled, or refused HEAPFULL. -/
def State.overflow (s : State) (c : Nat) (m : Message) : State :=
  let k := s.coreOf c
  let q := k.queueOf m.queue
  if !q.spill then s.refuse c m 1
  else if q.heapCap ≤ q.heapCount + k.spilling m.queue then s.refuse c m 4
  else s.modCore c (fun k => { k with work := k.work ++ [.spill m.queue m] })

/-- R210: an agent's message is placed, or waits in the agent port, or where it comes from while the port is full. -/
def State.placeAgent (s : State) (c : Nat) (m : Message) : State :=
  let k := s.coreOf c
  if !k.agentWaits m.queue && (k.queueOf m.queue).fits m then s.place c m.queue m
  else s.modCore c (fun k => { k with agentPort := k.agentPort ++ [m] })

/-- R210 check 6 for a message of no agent. -/
def State.placeUser (s : State) (c : Nat) (m : Message) : State :=
  let k := s.coreOf c
  let q := k.queueOf m.queue
  if q.heapCount = 0 ∧ k.spilling m.queue = 0 ∧ k.agentWaits m.queue = false ∧ q.fits m = true then s.place c m.queue m
  else s.overflow c m

/-- R210: the reason of the first of the checks 2 to 5 that fails; 0 when none does. sys: check 2 is waived. -/
def State.checkMessage (s : State) (c : Nat) (m : Message) (sys : Bool) : Nat :=
  let q := (s.coreOf c).queueOf m.queue
  if !sys && (m.queue == 0 || decide (m.hid < 16)) then 7
  else if q.size = 0 then 6
  else if !s.entryServes c m then 2
  else if m.kind = .code ∧ q.code = false then 3
  else 0

/-- R372, R382: a core in the map of cores in service. -/
def State.coreUp (s : State) (c : Nat) : Bool := (s.coreOf c).svc.mapped

/-- R210 check 1, R383 step 2: core c takes a message of kind 0 to 3: a draining core only its own. -/
def State.takes (s : State) (c : Nat) (m : Message) : Bool :=
  match (s.coreOf c).svc with
  | .inService => true
  | .draining => m.src == globalCore c && !fromPacket m
  | .drained | .testing | .retired => false

/-! The messages of a core that leaves service (R372). -/

/-- R372: another core of a stack group in service whose deque has room, for tasks that return to a deque. -/
def State.groupCore (s : State) (c : Nat) : Option Nat :=
  ((List.range 512).map (fun i => sgOf c * 512 + i)).find? (fun d =>
    let k := s.coreOf d
    d != c && k.svc == .inService && decide (k.deque.length + k.spillDeque.length < k.dequeRoom))

/-- R372: a task returns to a deque of its stack group, with no change to C. While no other deque has room it stays on the deque of its
core, from which others steal (log 62). -/
def State.returnTask (s : State) (c : Nat) (e : DequeEntry) : State :=
  s.modCore ((s.groupCore c).getD c) (fun k => k.pushTask e)

/-- R372, R313: a transaction whose reservation lies on the core is placed again in its cluster. -/
def State.replaceTxn (s : State) (num : Nat) (t : Txn) : State :=
  let s := s.modCore t.core (fun k => { k with res := k.res.filter (fun r => r.owner ≠ .txn num) })
  s.setTxn num (some { t with
    phase := if t.phase = .dispatched then .requested else t.phase, granted := t.granted.map (fun _ => false), pushed := [], evicted := true, moved := true })

/-- R372: what becomes of a message in the inbox of a core that leaves service. -/
def State.inboxFate (s : State) (c : Nat) (m : Message) : State :=
  match m.kind with
  | .plain | .code | .reply | .refusal => s.refuse c m 8
  | .crate => s.freeArrival c m
  | .dispatch => (match s.dispatchTxn c m with
    | some num => (match s.txnOf num with | some t => if t.phase = .dispatched then s.replaceTxn num t else s | none => s)
    | none => s)
  | .task => s.returnTask c { desc := m.payload, prio := m.prio, launch := m.msgid, held := none }
  | .gang => s.gangEnd m.msgid

/-- R210, R211: a message reaches core c. -/
def State.arrive (s : State) (c : Nat) (m : Message) : State :=
  match m.kind with
  | .refusal =>
    let k := s.coreOf c
    let m := { m with queue := k.rqueue.toNat, hid := k.rhid.toNat }
    if !k.ren || !s.takes c m || !s.entryServes c m then s.refuse c m 0 else s.placeUser c m
  | .plain | .code | .reply =>
    if !s.takes c m then (s.refuse c m 8).messageEnd m false
    else
      let r := s.checkMessage c m m.agent
      if r ≠ 0 then (s.refuse c m r).messageEnd m false else if m.agent then s.placeAgent c m else s.placeUser c m
  | .crate | .dispatch | .task | .gang =>
    if !s.coreUp c then s.inboxFate c m
    else if ((s.coreOf c).queueOf m.queue).size = 0 || !s.entryServes c m then s.removeAgent c m else s.placeAgent c m

/-- R210: the agent port has no room, or earlier agent messages wait for it. -/
def Core.portFull (k : Core) : Bool := decide (256 ≤ k.agentPort.length) || !k.agentWait.isEmpty

/-- R210: MESSAGE_ARRIVAL. -/
def execMessageArrival (core : Nat) (m : Message) (s : State) : Out :=
  .next (
    if m.agent && (s.coreOf core).portFull then s.modCore core (fun k => { k with agentWait := k.agentWait ++ [m] })
    else s.arrive core m)

/-- R210: AGENT_PORT_PLACEMENT: the first agent message that waits for a queue is placed once it fits. -/
def execAgentPortPlacement (core queue : Nat) (s : State) : Out :=
  .next (
    let k := s.coreOf core
    match k.agentPort.find? (fun m => m.queue == queue) with
    | none => s
    | some m =>
      if !(k.queueOf queue).fits m then s
      else (s.modCore core (fun k => { k with agentPort := k.agentPort.erase m })).place core queue m)

/-- R210: AGENT_PORT_RETRY: the first held agent message arrives once the port has room. -/
def execAgentPortRetry (core : Nat) (s : State) : Out :=
  .next (
    let k := s.coreOf core
    match k.agentWait with
    | [] => s
    | m :: t => if 256 ≤ k.agentPort.length then s else (s.modCore core (fun k => { k with agentWait := t })).arrive core m)

/-! Departure (R213, R215). -/

/-- R210 check 1, R215: one message leaves core c. -/
def State.depart (s : State) (c : Nat) (m : Message) : State :=
  let p := m.dest / 4096
  let d := m.dest % 4096
  if (p = Config.pkg && !s.takes d m) || s.pkgDown p then s.refuse c m 8
  else if p = Config.pkg then s.due (.messageArrival d m)
  else s.out (.message m)

/-- R215: SEND_BUFFER_DEPARTURE: the entries of a slot leave in issue order. -/
def execSendBufferDeparture (core slot : Nat) (s : State) : Out :=
  .next (
    let go := (s.coreOf core).sendBuf.filter (fun e => e.slot == slot && e.leaving)
    let s := s.modCore core (fun k => { k with sendBuf := k.sendBuf.filter (fun e => !(e.slot == slot && e.leaving)) })
    go.foldl (fun s e => s.depart core e.msg) s)

/-! Heaps (R209). -/

/-- R244: the ASID of a queue. -/
def Core.asidOf (k : Core) (q : Nat) : Nat :=
  let w := if q < 4 then k.qasidLo else k.qasidHi
  bits w.toNat (16 * (q % 4) + 15) (16 * (q % 4))

/-- R209: the address of record n of a heap. -/
def Queue.heapAt (q : Queue) (n : Nat) : Word := q.heapBase + BitVec.ofNat 64 (256 * (if q.heapCap = 0 then 0 else n % q.heapCap))

/-- R203: a kind by its code. -/
def kindOfCode : Nat → MsgKind
  | 0 => .plain | 1 => .code | 2 => .reply | 3 => .refusal | 4 => .crate | 5 => .dispatch | 6 => .task | _ => .gang

/-- R203, R209: a message as memory holds it. -/
def parseMessage (bs : List Byte) : Message :=
  let h := wordOfBytes (bs.take 16)
  let len := bits h 36 33
  { dest := bits h 21 0, queue := bits h 24 22, hid := bits h 32 25, len := len, kind := kindOfCode (bits h 39 37), prio := bits h 44 40
    clines := bits h 63 62, src := bits h 85 64, agent := bits h 86 86 == 1, msgid := bits h 127 96, payload := (bs.drop 16).take (16 * len) }

/-- R60: a porter activation of core c that ends by an aborting fault as it serves an item; its PC is not stated. -/
def State.porterFaults (s : State) (c : Nat) (w : WorkItem) (cause : Nat) (va : Word) : State :=
  let (s, n) := (s.modCore c (fun k => { k with serving := some w })).fresh
  s.abortPorter c ⟨cause, va, 0, 0⟩ ((Config.freeVec n).setWidth 64)

/-- R209: the porter of core c as a writer in the address space of a queue. -/
def porterWho (c asid : Nat) (va : Word) : Who := { core := c, slot := 4, serial := 0, va := va, asid := asid }

/-- R209: a write of n bytes whose pages or atoms refuse it. -/
def State.refusesWrite (s : State) (c asid : Nat) (va : Word) (n : Nat) : Bool :=
  match s.pagesOf c asid va n .write with
  | .error _ => false
  | .ok ps => ps.any (fun x => !x.1.host && !x.1.window &&
      (List.range ((x.1.pa + x.2.2 - 1) / 32 + 1 - x.1.pa / 32)).any (fun i =>
        let at' := (x.1.pa / 32 + i) * 32
        s.offlineAt at' || (match s.homeFate at' with | .fail _ => true | .hold | .now => false)))

/-- R209: the porter writes a message to the heap. -/
def State.heapWrite (s : State) (c q : Nat) (m : Message) : Served :=
  let k := s.coreOf c
  let x := k.queueOf q
  let va := x.heapAt (x.heapHead + x.heapCount)
  if s.refusesWrite c (k.asidOf q) va 256 then (s, some (.abort 0x09 va))
  else match s.writeG (porterWho c (k.asidOf q) va) .atomic true (padTo 256 (msgBytes m)) with
  | .ok s => (s.modQueue c q (fun x => { x with heapCount := x.heapCount + 1 }), none)
  | .error e => (s, some e)

/-- R209: the oldest record of a heap leaves it. -/
def Queue.dropRecord (x : Queue) : Queue :=
  { x with
    heapHead := if x.heapCap = 0 then 0 else (x.heapHead + 1) % x.heapCap
    heapCount := x.heapCount - 1
    replaying := x.replaying && decide (1 < x.heapCount) }

/-- R209: the oldest record of a heap as the porter reads it, after its own writes. -/
def State.heapRead (s : State) (c q : Nat) : Except AccFault (List Byte) :=
  let k := s.coreOf c
  let x := k.queueOf q
  if s.heldStores.any (fun h => h.who.core == c && h.who.slot == 4 && h.who.serial == 0) then .error .busy
  else s.readG c (k.asidOf q) (x.heapAt x.heapHead) 256

/-- R209, R210: a record may be placed: it fits, and no agent message waits before it. -/
def Core.recordFits (k : Core) (q : Nat) (bs : List Byte) : Bool := !k.agentWaits q && (k.queueOf q).fits (parseMessage bs)

/-- R209: a replay that waits for its record may go on. -/
def State.replayFits (s : State) (c q : Nat) : Bool :=
  match s.heapRead c q with
  | .ok bs => (s.coreOf c).recordFits q bs || !s.coreUp c
  | .error _ => true

/-- R209, R60: the porter replays the records of a heap in order until one does not fit. Those of a core that has left service are
refused UNREACHABLE (R372). -/
def State.replay (c q : Nat) : Nat → State → Served
  | 0, s => (s, none)
  | n + 1, s =>
    let x := s.queueOf c q
    if !x.replaying || x.heapCount = 0 then (s, none)
    else
      match s.heapRead c q with
      | .error e => (s, some e)
      | .ok bs =>
        let go := s.modQueue c q Queue.dropRecord
        if !s.coreUp c then State.replay c q n (go.refuse c (parseMessage bs) 8)
        else if !(s.coreOf c).recordFits q bs then (s, none)
        else State.replay c q n (go.place c q (parseMessage bs))

/-- R209, R60: a record whose replay has faulted is dropped and logged, and the replay goes on. -/
def State.replayDrop (s : State) (c q : Nat) : Served :=
  let r := (s.slotOf c 4).frec
  ((s.flog 6 (globalCore c) { cause := r.cause, addr := r.addr } []).modQueue c q Queue.dropRecord) |> State.replay c q 65537

/-- R209: a replay waits in the porter's work list. -/
def Core.replayQueued (k : Core) (q : Nat) : Bool := k.work.any (fun w => match w with | .replay p => p == q | _ => false)

/-- R209: HEAP_REPLAY: the queue is below half of its size while its heap holds records. -/
def execHeapReplay (core queue : Nat) (s : State) : Out :=
  .next (
    let k := s.coreOf core
    let x := k.queueOf queue
    if x.spill && decide (0 < x.heapCount) && !x.replaying && decide (x.used < x.size * 128) then
      s.modCore core (fun k => { k.modQueue queue (fun x => { x with replaying := true }) with work := k.work ++ [.replay queue] })
    else s)

/-- R209: HEAP_REPLAY_RESUME: the record a replay waits for fits. -/
def execHeapReplayResume (core queue : Nat) (s : State) : Out :=
  .next (
    let k := s.coreOf core
    if (k.queueOf queue).replaying && !k.replayQueued queue && s.replayFits core queue then
      s.modCore core (fun k => { k with work := k.work ++ [.replay queue] })
    else s)

/-! Pre-emption (R76, R77). -/

/-- R77: PREEMPT_STAT for a request. -/
def State.preemptStat (s : State) (c q st : Nat) : State :=
  { s with fe := { s.fe with preemptCore := c, preemptQueue := q, preemptState := st } }

/-- R76, R77: a queue becomes held. Its COUNT takes the messages in the inbox, not those in its heap (DESIGN CHOICE, log 61). -/
def Queue.hold (x : Queue) : Queue := { x with posted := false, held := true, heldCount := x.msgs.length }

/-- R77: PREEMPT_POST. -/
def execPreemptPost (core queue : Nat) (s : State) : Out :=
  .next (
    let x := s.queueOf core queue
    if !s.coreUp core then s.preemptStat core queue 0
    else if x.held then s.preemptStat core queue 2
    else if x.posted then s.preemptStat core queue 1
    else if x.run then (s.modQueue core queue (fun x => { x with posted := true })).preemptStat core queue 1
    else (s.modQueue core queue Queue.hold).preemptStat core queue 2)

/-- R77: PREEMPT_WITHDRAW. -/
def execPreemptWithdraw (core queue : Nat) (s : State) : Out :=
  .next (
    let x := s.queueOf core queue
    if !s.coreUp core then s.preemptStat core queue 0
    else if x.held || x.posted then
      (s.modQueue core queue (fun x => { x with held := false, posted := false })).preemptStat core queue 3
    else s.preemptStat core queue 0)

/-- R76: a posted request takes effect when the activation of its queue has left the draining state. -/
def State.preemptTakes (s : State) (c q : Nat) : State :=
  if !(s.queueOf c q).posted then s
  else
    let s := s.modQueue c q Queue.hold
    if s.fe.preemptCore = c ∧ s.fe.preemptQueue = q then s.preemptStat c q 2 else s

end Sys2Proof.Machine
end

