-- ==== Sys2Proof/Machine/Retire.lean ====
section
/-! DEFINITION. A core that leaves service (R372): its messages, tasks, transactions, crates and gangs. -/
namespace Sys2Proof.Machine

/-- The message of an item of the work list. -/
def WorkItem.message? : WorkItem → Option Message
  | .spill _ m | .spillFailed _ m => some m
  | .replay _ | .replayFailed _ | .service _ | .engService _ | .answer _ _ _ | .forward _ | .engForward _ | .bookkeeping | .leaveService => none

/-- R372: the messages of a core's inbox that no activation runs, those of its agent port and those that wait for it. The records of its
heaps are refused by the replay that follows. -/
def State.flushInbox (s : State) (c : Nat) : State :=
  let k := s.coreOf c
  let rest := fun (x : Queue) => if x.run then x.msgs.drop 1 else x.msgs
  let placed := (List.range 8).flatMap (fun q => rest (k.queueOf q)) ++ k.work.filterMap WorkItem.message?
  let waits := k.agentPort ++ k.agentWait
  let heaps := (List.range 8).filter (fun q => decide (0 < (k.queueOf q).heapCount) && !k.replayQueued q)
  let s := s.modCore c (fun k =>
    let k := (List.range 8).foldl (fun (k : Core) q => k.modQueue q (fun x => { x with
      msgs := if x.run then x.msgs.take 1 else [], replaying := decide (0 < x.heapCount) })) k
    { k with agentPort := [], agentWait := [], work := k.work.filter (fun w => w.message?.isNone) ++ heaps.map WorkItem.replay })
  let s := placed.foldl (fun s m => s.inboxFate c m) s
  waits.foldl (fun s m => (s.inboxFate c m).messageEnd m false) s

/-- R372: every crate of the core is freed as if by RFREE. -/
def State.freeCrates (s : State) (c : Nat) : State :=
  (s.coreOf c).res.foldl (fun s r => match r.owner with | .crate ring i => s.freeCrate ring c i (·.landed) | .txn _ => s) s

/-- R372: the running activations of a core that leaves service end with cause 0x13. -/
def State.endRunning (s : State) (c : Nat) : State :=
  (List.range 5).foldl (fun s i =>
    let x := s.slotOf c i
    match x.mode with
    | .running => s.abort c i ⟨0x13, 0, 0, 0⟩ x.pc false
    | .faultService => (s.endStoppedBy c i 0x13 0).endsGang x.act
    | .free | .draining => s) s

/-- R372: a core is taken out of service. -/
def State.coreOut (s : State) (c : Nat) : State :=
  let s := s.modCore c (fun k => { k with svc := .retired })
  let s := s.endRunning c
  let s := s.gangs.foldl (fun (s : State) (e : Nat × Option Gang) => match e.2 with
    | some g => if g.members.any (fun m => m.core == c && !m.returned) then s.gangEnd e.1 else s
    | none => s) s
  let s := s.flushInbox c
  let ts := (s.coreOf c).tasks.filter (fun e => e.held.isNone)
  let s := s.modCore c (fun k => k.setDeque (k.tasks.filter (fun e => e.held.isSome)))
  let s := ts.foldl (fun s e => s.returnTask c { e with pos := none }) s
  let s := s.txns.foldl (fun (s : State) (e : Nat × Option Txn) => match e.2 with
    | some t => if t.core = c ∧ (t.phase = .numbered ∨ t.phase = .requested ∨ t.phase = .dispatched) ∧ t.evicted = false
        then s.replaceTxn e.1 t else s
    | none => s) s
  (s.freeCrates c).modFe (fun f => { f with drains := f.drains.filter (· != c), tests := f.tests.filter (· != .core c) }) |>.startDrain

end Sys2Proof.Machine
end

