-- ==== Sys2Proof/Machine/Start.lean ====
section
/-! DEFINITION. Activations: their start (R61 to R65, R91, R204, R205, R309), their end by RETH or by a fault (R78, R215, R311,
R313, R368, R369), the budget trap (R74), and the landing of late results (R92, R94, R97). -/
namespace Sys2Proof.Machine

/-! Which message starts next (R63, R65). -/

/-- R383, R384: a core whose inbox starts activations. -/
def Core.starts (k : Core) : Bool := k.svc == .inService || k.svc == .draining

/-- R357: a gang that has not ended. -/
def State.gangLive (s : State) (gid : Nat) : Bool := match s.gangOf gid with | some g => !g.ended | none => false

/-- R63, R67: a message may take slot i: a gang start the slot reserved for its member. A message that no entry serves, or of a gang that has ended, takes any of slots 0 to 2
to be answered. -/
def State.mayTake (s : State) (c i : Nat) (m : Message) : Bool :=
  let x := s.slotOf c i
  let cls := ((s.coreOf c).handlerOf m.hid).cls
  if m.kind = .gang ∧ s.entryServes c m = true ∧ s.gangLive m.msgid = true then
    (match m.num with | some n => x.reserved == some (m.msgid, n) | none => x.reserved.map (·.1) == some m.msgid)
  else x.reserved.isNone && (decide (i < 3) || (s.entryServes c m && (m.kind == .dispatch || cls == 1)))

/-- R62, R65, R66: the head message of a queue that may start one. -/
def State.headOf (s : State) (c q : Nat) : Option Message :=
  let x := s.queueOf c q
  if x.run || x.held then none else x.msgs.head?

/-- R65: the queues whose head may take slot i, in rotation order, with their head. -/
def State.candidates (s : State) (c i : Nat) : List (Nat × Message) :=
  ((List.range 8).map (fun d => ((s.coreOf c).lastQueue + d) % 8)).filterMap (fun q =>
    match s.headOf c q with
    | some m => if s.mayTake c i m then some (q, m) else none
    | none => none)

/-- The first of a list with the greatest measure. -/
def firstMax (f : Nat × Message → Nat) (l : List (Nat × Message)) : Option (Nat × Message) :=
  let top := l.foldl (fun a e => Nat.max a (f e)) 0
  l.find? (fun e => f e == top)

/-- R65: the choice among the candidates of slot i. Of heads past 65,536 clocks that have waited equally long the first in rotation is
taken, whatever their priority (DESIGN CHOICE, log 61: the rule orders them only by their wait). -/
def State.chooseQueue (s : State) (c i : Nat) : Option (Nat × Message) :=
  let l := s.candidates c i
  let waited := fun (e : Nat × Message) => s.cycle.toNat - (s.queueOf c e.1).headSince
  let old := l.filter (fun e => decide (65536 ≤ waited e))
  let disp := l.filter (fun e => e.2.kind == .dispatch)
  if !old.isEmpty then firstMax waited old
  else if i = 3 ∧ disp.isEmpty = false then firstMax (fun e => e.2.prio) disp
  else firstMax (fun e => e.2.prio) l

/-- R65: the next start on a core: the lowest free slot that some head message may take, and the queue chosen for it. -/
def State.nextStart (s : State) (c : Nat) : Option (Nat × Nat) :=
  if !(s.coreOf c).starts then none
  else (List.range 4).findSome? (fun i =>
    if (s.slotOf c i).mode ≠ .free then none else (s.chooseQueue c i).map (fun e => (i, e.1)))

/-! Start (R61). -/

/-- R204: the head message leaves its queue, and the next is its head from now on. -/
def State.removeHead (s : State) (c q : Nat) : State :=
  s.modQueue c q (fun x => { x with msgs := x.msgs.tail, headSince := s.cycle.toNat, aborts := 0 })

/-- R205: MSG_KIND. -/
def msgKindWord (m : Message) : Word :=
  BitVec.ofNat 64 (m.clines % 4 * 2 ^ 32 + m.prio % 32 * 2 ^ 24 + m.hid % 256 * 2 ^ 16 + m.queue % 8 * 2 ^ 8 + msgKindCode m.kind)

/-- R68: GANG_INFO of a member. -/
def gangWord (gid idx n : Nat) : Word := BitVec.ofNat 64 (gid % 2 ^ 32 * 2 ^ 32 + 2 ^ 31 + (n - 1) % 64 * 2 ^ 8 + idx % 64)

/-- R204: the message window of a slot. -/
def Core.windowAt (k : Core) (i : Nat) : Nat := k.winb.toNat * 2048 + 256 * i

/-- R204: the message in the window of slot i. -/
def State.fillWindow (s : State) (c i : Nat) (m : Message) : State :=
  let o := (s.coreOf c).windowAt i
  (s.modCore c (fun k => k.wrLoc (placed o (padTo 256 (msgBytes m))))).fire
    (fun w => w.loc && w.core == c && decide (w.atom * 32 < o + 256 ∧ o < w.atom * 32 + 32))

/-- R309: some entry's CHECK fails. -/
def Txn.mismatch (t : Txn) : Bool :=
  (List.range t.gver.length).any (fun k => let e := txnEntry t.sub.desc k; e.chk && t.gver.getD k 0 != e.ver)

/-- R220: the tag of port p in a gang-start message. -/
def outTag (m : Message) (p : Nat) : Nat := wordOfBytes ((m.payload.drop (64 + 8 * p)).take 8)

/-- R61, R91, R205, R220, R298: the registers of a slot at the start of an activation. -/
def State.startSlot (s : State) (c i q : Nat) (m : Message) (a : Activation) (pc : Word) : Slot :=
  let k := s.coreOf c
  let base : Slot := {
    mode := .running, act := some a, pc := pc, level := m.prio % 32, ceil := m.prio % 32, pickLevel := m.prio % 32
    budget := (k.queueOf q).budget
    age := (k.slotOf i).age
    msgId := BitVec.ofNat 64 (m.msgid % 2 ^ 32), msgSrc := BitVec.ofNat 64 (m.agent.toNat * 2 ^ 22 + m.src % 2 ^ 22)
    msgKind := msgKindWord m, msgLen := BitVec.ofNat 64 (16 * m.len), msgBase := BitVec.ofNat 64 (k.windowAt i)
    asid := BitVec.ofNat 16 (k.asidOf q)
    launchInfo := (match a.launch with | some lid => BitVec.ofNat 64 (2 ^ 63 + lid % 2 ^ 32) | none => 0) }
  let base := match a.txn.bind (fun n => (s.txnOf n).map (fun t => (n, t))) with
    | some (n, t) => { base with
      txnNum := BitVec.ofNat 64 n, tileMap := BitVec.ofNat 64 (t.granted.length * 2 ^ 18 + t.map), asid := BitVec.ofNat 16 t.sub.asid }
    | none => base
  match a.gang.bind (fun g => (s.gangOf g).map (fun x => (g, x))) with
  | some (g, x) =>
    let idx := ((k.slotOf i).reserved.map (·.2)).getD 0
    { base with
      gangInfo := gangWord g idx x.members.length
      credits := (List.range 8).foldl (fun cr p => if outTag m p = 0 then cr else smSet (fun _ => 0) cr p 4) [] }
  | none => base

/-- R60: termination or dispatch bookkeeping enters the porter's work list: at each start and each end of a task's or a dispatch's
activation (DESIGN CHOICE, log 62). -/
def State.bookkeep (s : State) (c : Nat) (m : Message) : State :=
  match m.kind with
  | .dispatch | .task => s.modCore c (fun k => { k with work := k.work ++ [.bookkeeping] })
  | .plain | .code | .reply | .refusal | .crate | .gang => s

/-- R61: the activation of a message starts in slot i at pc. -/
def State.start (s : State) (c i q : Nat) (m : Message) (num : Option Nat) (restart : Bool) (pc : Word) : State :=
  let a : Activation := {
    serial := s.serial + 1, queue := some q, msg := m, hid := m.hid, system := decide (m.hid < 16), txn := num, restart := restart
    gang := if m.kind = .gang then some m.msgid else none, launch := if m.kind = .task then some m.msgid else none, atEntry := true }
  let x := s.startSlot c i q m a pc
  let s := { s with serial := s.serial + 1 }
  let s := s.modSlot c i (fun _ => x)
  let s := s.modCore c (fun k => { k with lastQueue := q + 1 })
  let s := s.modQueue c q (fun x => { x with run := true })
  let s := ((s.fillWindow c i m).acquire c .pod).bookkeep c m
  let s := if m.kind = .crate then s.holdCrate c m else s
  let s := match num.bind (fun n => (s.txnOf n).map (fun t => (n, t))) with
    | some (n, t) => s.setTxn n (some { t with phase := .running, ran := true })
    | none => s
  if m.kind = .gang then s.modGang m.msgid (fun g => { g with
      members := g.members.map (fun e => if e.core = c ∧ e.slot = some i then { e with started := true } else e) })
  else s

/-- R61, R309, R217: where a message starts: its PC and whether that is the restart address. -/
def State.entryOf (s : State) (c : Nat) (m : Message) (num : Option Nat) : Word × Bool :=
  let h := (s.coreOf c).handlerOf m.hid
  if m.kind = .code then (codeWindow, false)
  else match num.bind s.txnOf with
    | some t => if t.mismatch then (h.restart, true) else (h.code, false)
    | none => (h.code, false)

/-- R371: a message whose bytes hold an uncorrectable error is discarded and logged; one of an agent is removed with the outcome of
R210 (log 60). -/
def State.discardSpoiled (s : State) (c q : Nat) (m : Message) : State :=
  let s := (s.removeHead c q).modQueue c q (fun x => { x with spoiled := x.spoiled.erase m })
  match m.kind with
  | .plain | .code | .reply | .refusal => s.logDropped c m
  | .crate => s.removeAgent c m
  | .dispatch | .task | .gang => (s.removeAgent c m).logDropped c m

/-- R65, R207, R309: what becomes of the head message m of a queue that slot i of core c takes: its activation starts, or it is answered or
discarded. -/
def State.takeHead (s : State) (c i q : Nat) (m : Message) : State :=
  if (s.queueOf c q).spoiled.contains m then s.discardSpoiled c q m
  else if !s.entryServes c m then (s.removeHead c q).noHandler c m
  else
    let num := if m.kind = .dispatch then s.dispatchTxn c m else none
    let (pc, restart) := s.entryOf c m num
    if (m.kind == .dispatch && num.isNone) || (m.kind == .gang && !s.gangLive m.msgid) then s.removeHead c q
    else if restart && pc == 0 then
      let s := s.removeHead c q
      match num with | some n => s.quitTxn n true | none => s
    else s.start c i q m num restart pc

/-- R65, R207, R309: ACTIVATION_START; every slot that is free is filled at this clock, one after the other. A queue whose head is answered
or discarded without a start does not become the queue last chosen (DESIGN CHOICE, log 61: the rule does not say). -/
def execActivationStart (core slot queue : Nat) (s : State) : Out :=
  .next (
    if s.nextStart core ≠ some (slot, queue) then s
    else match s.headOf core queue with
    | none => s
    | some m =>
      let s := s.takeHead core slot queue m
      match s.nextStart core with
      | some (i, q) => s.due (.activationStart core i q)
      | none => s)

/-! The end of an activation. -/

/-- R313, R371: the fault that ended slot i was an uncorrectable error in its core's local banks or its registers. -/
def State.ownError (s : State) (c i : Nat) : Bool := ((s.slotOf c i).act.map (·.ownErr)).getD false

/-- R313: the faults of the core itself. own: an uncorrectable error in its banks or registers. -/
def retryable (cause : Nat) (own : Bool) : Bool := cause == 0x04 || cause == 0x13 || (cause == 0x09 && own)

/-- R313: a rerun: number and tenures kept, every tile pushed again, on this core while it is in service. -/
def State.rerunTxn (s : State) (num : Nat) (t : Txn) : State :=
  let off := !s.coreUp t.core
  let s := s.modCore t.core (fun k => { k with
    res := if off then k.res.filter (fun r => r.owner ≠ .txn num)
      else k.res.map (fun r => if r.owner = .txn num then { r with state := .filling } else r) })
  let s := s.setTxn num (some { t with
    phase := .requested, granted := t.granted.map (fun _ => false), pushed := [], reruns := t.reruns + 1, evicted := off, moved := t.moved || off })
  if off then s else s.askAgain num

/-- R311, R313: what an aborting fault of slot i makes of its transaction. -/
def State.txnFault (s : State) (c i num cause : Nat) : State :=
  match s.txnOf num with
  | none => s
  | some t =>
    if t.phase ≠ .running then s
    else if retryable cause (s.ownError c i) && decide (t.reruns < 2) then s.rerunTxn num t
    else s.failTxn num

/-- R78: the instructions, stores, acknowledgements and leases of a draining activation have ended, and its commit is granted (R215). -/
def State.drained (s : State) (c i : Nat) (a : Activation) : Bool :=
  let x := s.slotOf c i
  let mine := fun (w : Who) => w.core == c && w.slot == i && w.serial == a.serial
  a.posted.isEmpty && !s.heldAny c i a.serial && x.sb.all (fun e => e.kind == .token) && x.tests.isEmpty &&
  (match a.txn.bind s.txnOf with | some t => t.waitGrant.isEmpty | none => true) &&
  !(s.bufOf (clusterOf c)).any (fun b => mine b.who) && !s.remoteOut.any (fun b => mine b.who)

/-- R312: submissions enter the intake. -/
def State.intake (s : State) (l : List Submission) : State := { s with seq := { s.seq with intake := s.seq.intake ++ l } }

/-- R355: the spawns a slot holds become visible. -/
def Core.showSpawns (k : Core) (i : Nat) : Core :=
  k.setDeque (k.tasks.map (fun e => if e.held = some i then { e with held := none } else e))

/-- A member of a gang has left its slot. -/
def State.memberLeaves (s : State) (c i gid : Nat) : State :=
  s.modGang gid (fun g => { g with
    members := g.members.map (fun m => if m.core = c ∧ m.slot = some i then { m with returned := true, slot := none } else m) })

/-- R357, R69: a gang all of whose members have returned completes its packet; its channels end with it. One that has ended is
forgotten once no member holds a slot. -/
def State.gangReturn (s : State) (c i gid : Nat) : State :=
  let s := s.memberLeaves c i gid
  match s.gangOf gid with
  | none => s
  | some g =>
    if g.ended then
      if g.members.all (fun m => m.returned || !m.started) then { s with gangs := smSet (fun _ => none) s.gangs gid none } else s
    else if g.members.all (fun m => m.returned) then
      { s.packetPart g.queue g.packet true with gangs := smSet (fun _ => none) s.gangs gid none }
    else s.inherit gid

/-- R369: a message moves to the error list, with the record of its fault. -/
def State.errorList (s : State) (c q : Nat) (m : Message) (r : FaultRec) : State :=
  let s := (s.removeHead c q).flog 2 (globalCore c) r (msgBytes m)
  let s := s.modCore c (fun k => { k with cntErr := satInc k.cntErr })
  match m.kind with
  | .crate => s.freeArrival c m
  | .task => s.taskFails c m.msgid
  | .plain | .code | .reply | .refusal | .dispatch | .gang => s

/-- R368, R369, R372: the fate of the message of an aborted activation. -/
def State.faultFate (s : State) (c q : Nat) (m : Message) (noretry : Bool) (r : FaultRec) : State :=
  match m.kind with
  | .dispatch | .gang => s.removeHead c q
  | .plain | .code | .reply | .refusal | .crate | .task =>
    let n := (s.queueOf c q).aborts + 1
    if !s.coreUp c then (s.removeHead c q).inboxFate c m
    else if noretry || decide (3 ≤ n) then s.errorList c q m r
    else s.modQueue c q (fun x => { x with aborts := n, headSince := s.cycle.toNat })

/-- R215, R311, R312, R355: what leaves with an activation that has issued RETH. -/
def State.rethEffects (s : State) (c i q : Nat) (a : Activation) : State :=
  let drop := match a.txn with
    | none => false
    | some n => a.abortMark || (match s.txnOf n with | some t => t.result == some false | none => true)
  let mine := fun (e : SendEntry) => e.slot == i && e.serial == a.serial
  let s := s.modCore c (fun k => { k.showSpawns i with
    sendBuf := if drop then k.sendBuf.filter (fun e => !mine e)
      else k.sendBuf.map (fun e => if mine e then { e with leaving := true } else e) })
  let s := if drop then s else (s.intake a.heldSubs).due (.sendBufferDeparture c i)
  let s := s.removeHead c q
  let s := match a.txn.bind (fun n => (s.txnOf n).map (fun t => (n, t))) with
    | some (n, t) => (s.setTxn n (some { t with phase := .releasing })).endTxn n
    | none => s
  match a.launch with
  | some lid => s.launchCount lid (sgOf c) (-1)
  | none => s

/-- R370: a store that failed after its activation's end was issued is reported late. -/
def State.endStore (s : State) (c : Nat) (a : Activation) : State :=
  match a.storeFail with
  | some (cause, va, _) => s.lateReport c ⟨cause, va, 0, 0⟩ 0
  | none => s

/-- R78, R204: the slot is free again. -/
def State.freeSlot (s : State) (c i : Nat) : State := s.modSlot c i (fun x => { age := x.age, reserved := x.reserved })

/-- R60, R215, R312: the porter's activation has ended: after a RETH what it has sent may leave, what it has submitted enters the intake,
and an item whose effect is made then is kept for it. -/
def State.porterEnd (s : State) (c : Nat) (a : Activation) (e : Ending) : State :=
  match e with
  | .fault _ _ => s.modSlot c 4 (fun x => { age := x.age, frec := x.frec })
  | .reth =>
    ((s.intake a.heldSubs).modCore c (fun k => { k.modSlot 4 (fun x => { age := x.age }) with
      serving := k.serving.filter WorkItem.atReturn
      sendBuf := k.sendBuf.map (fun e => if e.slot = 4 then { e with leaving := true } else e) })).due (.sendBufferDeparture c 4)

/-- R311, R313: the transaction of an activation that an aborting fault has ended is told of it, once. -/
def State.tellTxn (s : State) (c i : Nat) (a : Activation) : State :=
  match a.ending, a.txn with
  | some (.fault cause _), some n =>
    (s.txnFault c i n cause).modSlot c i (fun x => { x with act := x.act.map (fun a => { a with txn := none }) })
  | _, _ => s

/-- R78: DRAIN_COMPLETE of slot i of core c. -/
def State.drainSlot (s : State) (c i : Nat) : State :=
  let x := s.slotOf c i
  match x.act.bind (fun a => a.ending.map (fun e => (a, e))) with
  | none => s
  | some (a, e) =>
    let s := s.tellTxn c i a
    let a := (s.slotOf c i).act.getD a
    let s := if s.relaxed then s.drainCluster (clusterOf c) else s
    if !s.drained c i a then s
    else
      let s := s.endStore c ((s.slotOf c i).act.getD a)
      match a.queue with
      | none => s.porterEnd c a e
      | some q =>
        let s := s.freeSlot c i
        let s := match e with
          | .reth => s.rethEffects c i q a
          | .fault _ noretry => s.faultFate c q a.msg noretry x.frec
        let s := (s.modQueue c q (fun x => { x with run := false })).bookkeep c a.msg
        let s := s.preemptTakes c q
        match a.gang with
        | some gid => s.gangReturn c i gid
        | none => s

/-- R78: DRAIN_COMPLETE. -/
def execDrainComplete (core slot : Nat) (s : State) : Out :=
  .next (if (s.slotOf core slot).mode = .draining then s.drainSlot core slot else s)

/-- R74, R350: the packet of a transaction that has taken a budget trap: its queue enters error. -/
def State.budgetQueue (s : State) (a : Activation) : State :=
  match (a.txn.bind s.txnOf).bind (·.sub.packet) with
  | some (q, id) =>
    (match (s.hq q).started.find? (fun p => p.id == id) with
     | some p => s.queueError q 6 p.index true
     | none => s)
  | none => s

/-- R74: BUDGET_TRAP. -/
def execBudgetTrap (core slot : Nat) (s : State) : Out :=
  .next (
    let x := s.slotOf core slot
    match x.act with
    | none => s
    | some a =>
      if x.mode ≠ .running ∨ x.budget ≠ 0 then s
      else (s.budgetQueue a).abort core slot ⟨0x0C, 0, 0, 0⟩ x.pc false)

/-! Late results. -/

/-- R93, R364: the entry of a slot whose producer has given its value or its failure lands. A failure after the activation's end has been
issued is reported late (R370). -/
def State.landOne (s : State) (c i id : Nat) (kind : SbKind → Bool) : State :=
  let x := s.slotOf c i
  match (x.sb ++ x.frec.saved).find? (fun e => e.id == id) with
  | none => s
  | some e =>
    if !kind e.kind then s
    else match e.fail, x.mode with
      | some (cause, addr), .running => s.abort c i ⟨cause, addr, 0, 0⟩ e.pc false
      | some (cause, addr), .draining => (s.modSlot c i (fun x => x.dropDests [id])).lateReport c ⟨cause, addr, 0, 0⟩ e.pc
      | some _, .free | some _, .faultService => s
      | none, _ => if e.value.isNone then s else s.landIds c i [id]

/-- R92: SCOREBOARD_WRITE_LANDS. -/
def execScoreboardWriteLands (core slot id : Nat) (s : State) : Out :=
  .next (s.landOne core slot id (fun k => k != .token && k != .pred))

/-- R94: TOKEN_LANDS. -/
def execTokenLands (core slot id : Nat) (s : State) : Out := .next (s.landOne core slot id (fun k => k == .token))

/-- R97, R46: the commands of slot i bound to a producer that has failed as the slot drained are discarded. -/
def State.dropBound (s : State) (c i id : Nat) : State :=
  let serial := ((s.slotOf c i).act.map (·.serial)).getD 0
  [Engine.matrix, Engine.copy].foldl (fun s e =>
    let all := ((s.coreOf c).eng e).q
    (all.filter (fun h => h.boundTo i serial id)).foldl (fun s h => s.discardCmd c h)
      (s.modEng c e (fun q => { q with q := q.q.filter (fun h => !h.boundTo i serial id) }))) s

/-- R97, R364: PREDICATE_RESOLVES: the engine commands bound to the producer act or are discarded by its value; while the slot is stopped
they wait for its RESUME. -/
def execPredicateResolves (core slot id : Nat) (s : State) : Out :=
  .next (
    let x := s.slotOf core slot
    match (x.sb ++ x.frec.saved).find? (fun e => e.id == id && e.kind == .pred) with
    | none => s
    | some e =>
      let t := s.landOne core slot id (fun k => k == .pred)
      if e.fail.isSome && x.mode == .draining then t.dropBound core slot id
      else match e.value, x.mode with
      | some v, .running | some v, .draining => if e.fail.isSome then t else t.resolveGuard core slot id (v.getLsbD 0)
      | some _, .free | some _, .faultService | none, _ => t)

/-- R70: FORCED_ISSUE. -/
def execForcedIssue (core slot : Nat) (s : State) : Out :=
  .next (
    if s.slotReady core slot && decide (4096 ≤ (s.slotOf core slot).age) then
      { s.choose core slot with forced := some (core, slot) }
    else s)

/-! Stores on their way, and reports (R241, R253, R255). -/

/-- R245, R259, R263: the bytes of an access of another package. -/
def farBytes : FarAct → Nat
  | .load n => n
  | .store bs => bs.length
  | .amo _ t _ | .cas t _ _ => t.width / 8
  | .amof _ _ => 4
  | .ldf _ | .stf _ => 16

/-- R246, R259: an access that reaches a home whole: memory of this package, in one line, a store in one atom, all else aligned. -/
def farOk (pkg pa : Nat) (act : FarAct) : Bool :=
  let n := farBytes act
  let one := fun (m : Nat) => decide (pa % m + n ≤ m)
  pkg != Config.pkg && paPkg pa == Config.pkg && decide (paOff pa + n ≤ hbmBytes) && decide (0 < n) &&
  (match act with
   | .load _ => one 64
   | .store _ => one 32
   | .amo _ _ _ | .cas _ _ _ | .amof _ _ | .ldf _ | .stf _ => pa % n == 0)

/-- R253: an acquire of another package meets the tag of the atom it reads. -/
def State.farMiss (s : State) (pa : Nat) : State :=
  match smGet (fun _ => none) s.relTags (pa / 32) with
  | none => s
  | some t => if t.scope = .pod then s else s.due (.scopeMissReport t.core t.serial (pa / 32))

/-- R264: LDF of another package. -/
def State.farPeek (s : State) (pkg id pa : Nat) (w : Who) : State :=
  let st := s.rdNat (pa + 8) 8
  if s.unreadable pa 16 || decide (1 < st) then s.out (.farDone pkg id [] false false)
  else if st = 1 then s.out (.farDone pkg id (s.rdHbm pa 8) true true)
  else s.deferCell ⟨w.core, w.slot, w.serial, 0, 0, pa, false, .none, 0, w.va, some (pkg, id)⟩

/-- R238, R245, R255, R259 to R265: an access of another package at its home: performed, held or failed as one of this package's, and that
package is told; one in a line that the host holds waits for its answer (R337). -/
def State.farAccess (s : State) (pkg id pa : Nat) (act : FarAct) (acq : Bool) (rel : Scope) : State :=
  let n := farBytes act
  let held := (s.hostLines pa n).filter (fun l => !s.linePass.any (fun e => e.line == l && e.who == (agentCore, 2)))
  if !farOk pkg pa act then s
  else if !held.isEmpty then
    held.foldl (fun s l => s.askHost l true) { s with farHeld := s.farHeld ++ [.far pkg id pa act acq rel] }
  else
    let w : Who := { core := agentCore, slot := 6, serial := pkg, va := BitVec.ofNat 64 pa, rel := rel, num := s.order }
    let s := { s with order := s.order + 1 }
    let s := if acq then s.farMiss pa else s
    let go := fun (a : HomeAct) => s.homeAct ⟨a, w, .far pkg id⟩
    match act with
    | .load n =>
      if s.unreadable pa n then s.out (.farDone pkg id [] false false) else s.out (.farDone pkg id (s.rdHbm pa n) false true)
    | .store bs => go (.store (placed pa bs))
    | .amo op t c => go (.rmw pa n (.amo op t c))
    | .cas t want new => go (.rmw pa n (.cas t want new))
    | .amof op c => go (.rmw pa n (.amof op c))
    | .ldf true => go (.take pa)
    | .ldf false => s.farPeek pkg id pa w
    | .stf v => go (.fill pa v.toNat)

/-- R241, R246: HOME_ACCESS: the stores of a cluster's buffer, or those to one atom, leave it for their homes; or an access of another
package reaches its home here. -/
def execHomeAccess (news : HomeNews) (s : State) : Out :=
  .next (match news with
    | .leave cl none => s.drainCluster cl
    | .leave cl (some a) => s.drainAtom cl a
    | .far pkg id pa act acq rel => s.farAccess pkg id pa act acq rel)

/-- R255: REMOTE_STORE_RESPONSE. -/
def execRemoteStoreResponse (_core _slot id : Nat) (ok : Bool) (s : State) : Out := .next (s.acknowledge id ok)

/-- R253: SCOPE_MISS_REPORT: counted; with TRAP set the releasing activation takes the fault at its next release. That of a release of
another package (act) goes there; the front end has no register for one of its own. -/
def execScopeMissReport (core act atom : Nat) (s : State) : Out :=
  .next (if agentCore ≤ core then (if core = agentCore ∧ act ≠ Config.pkg then s.out (.scopeMiss act atom) else s)
    else s.modCore core (fun k =>
    let k := { k with missCount := satInc k.missCount, missAddr := BitVec.ofNat 64 (atom * 32 % 2 ^ 56) }
    if !k.missTrap then k
    else (List.range 5).foldl (fun (k : Core) i => k.modSlot i (fun x =>
      match x.act with
      | some a => if a.serial = act ∧ (x.mode = .running ∨ x.mode = .faultService) then
          { x with act := some { a with scopeMiss := a.scopeMiss <|> some (BitVec.ofNat 64 (atom * 32)) } } else x
      | none => x)) k))

end Sys2Proof.Machine
end

