-- ==== Sys2Proof/Machine/Porter.lean ====
section
/-! DEFINITION. The porter (R60): its work items, each served whole as the firmware loaded at reset serves it (R207, R214), and
the activation of an entry that a system activation has replaced by HTSET. -/
namespace Sys2Proof.Machine

/-- R60: the message of a porter activation, whose registers read zero but for the handler id. -/
def porterMessage (id : Nat) : Message where
  dest := 0
  queue := 0
  hid := id
  len := 0
  kind := .plain
  prio := 0
  clines := 0
  src := 0
  agent := false
  msgid := 0
  payload := []

/-- R60, R91, R364: slot 4 of core c as handler id 1 starts for an item, with a copy of the fault record. -/
def Core.porterSlot (k : Core) (serial id : Nat) (asid : BitVec 16) (r : FaultRec) : Slot :=
  { mode := .running, pc := (k.handlerOf id).code, level := 31, ceil := 31, budget := 16777216, age := (k.slotOf 4).age
    msgKind := BitVec.ofNat 64 (id * 2 ^ 16), asid := asid
    frec := { r with saved := [] }
    act := some { serial := serial, queue := none, msg := porterMessage id, hid := id, system := true, txn := none, restart := false
                  gang := none, launch := none, atEntry := true } }

/-- R207: an entry as the firmware loaded it. -/
def Core.firmwareEntry (k : Core) (id : Nat) : Bool := k.handlerOf id == handlerDefault id

/-- R60: the handler id that serves an item; none for what the firmware's fixed path or the core does itself. -/
def WorkItem.hid : WorkItem → Option Nat
  | .spill _ _ | .replay _ => some 0
  | .service _ | .engService _ | .answer _ _ _ => some 1
  | .bookkeeping => some 2
  | .forward _ | .engForward _ | .leaveService | .spillFailed _ _ | .replayFailed _ => none

/-- R60: the address space of the activation that serves an item, and the fault record it reads. none: the item names no fault that
is in service. -/
def Core.itemRecord (k : Core) (w : WorkItem) : Option (BitVec 16 × FaultRec) :=
  let slot := fun (i : Nat) => let x := k.slotOf i; if x.mode = .faultService then some (x.asid, x.frec) else none
  let eng := fun (e : Engine) => match (k.eng e).q, (k.eng e).fault with
    | h :: _, some f => if f.raised = 2 then some (h.asid, (k.eng e).frec) else none
    | _, _ => none
  match w with
  | .spill q _ | .replay q => some (BitVec.ofNat 16 (k.asidOf q), {})
  | .service i | .answer _ none i => slot i
  | .engService e | .answer _ (some e) _ => eng e
  | .bookkeeping | .forward _ | .engForward _ | .leaveService | .spillFailed _ _ | .replayFailed _ => some (0, {})

/-- R60: a replaced handler entry of core c starts in the porter for an item. -/
def State.startPorter (s : State) (c : Nat) (w : WorkItem) (id : Nat) : State :=
  match (s.coreOf c).itemRecord w with
  | none => s
  | some (asid, r) =>
    let s := { s with serial := s.serial + 1 }
    s.modCore c (fun k => { k.modSlot 4 (fun _ => k.porterSlot s.serial id asid r) with serving := some w })

/-- R60, R209, R364 to R367: what serving an item does. -/
def State.serve (s : State) (c : Nat) : WorkItem → Served
  | .spill q m => s.heapWrite c q m
  | .spillFailed q m => (s.refuse c { m with queue := q } 5, none)
  | .replay q => State.replay c q 65537 s
  | .replayFailed q => s.replayDrop c q
  | .service i => s.serveSlot c i
  | .engService e => s.serveEng c e
  | .answer abort eng i => ((s.endFault c eng i abort).getD s, none)
  | .forward i => (s.forward c i, none)
  | .engForward e => (s.forwardEng c e, none)
  | .bookkeeping => (s, none)
  | .leaveService => (s.coreOut c, none)

/-- R60: an item served, or ended by its fault, or back at the head of the list while it waits. -/
def State.served (c : Nat) (w : WorkItem) (r : Served) : State :=
  let again := fun (s : State) => s.modCore c (fun k => { k with work := w :: k.work })
  match r with
  | (s, none) => s.dropPass (c, 4)
  | (s, some (.trans va)) => s.porterFaults c w 0x0F va
  | (s, some (.abort cause va)) => s.porterFaults c w cause va
  | (s, some (.line n inv)) => (again s).askHost n inv
  | (s, some .busy) => again s

/-- R60: PORTER_ACTIVATION: the porter, when it runs nothing, starts the head item of its list, with an acquire at pod scope. The firmware's
entries are served whole; a replaced one runs (log 62). -/
def execPorterActivation (core : Nat) (s : State) : Out :=
  .next (
    let k := s.coreOf core
    if (k.slotOf 4).mode ≠ .free then s
    else
    let s := { s with cur := (core, 4) }
    match k.serving, k.work with
      | some w, _ => let s := s.modCore core (fun k => { k with serving := none }); State.served core w (s.serve core w)
      | none, [] => s
      | none, w :: t =>
        let s := (s.modCore core (fun k => { k with work := t })).acquire core .pod
        (match w.hid with
         | some id => if k.firmwareEntry id then State.served core w (s.serve core w) else s.startPorter core w id
         | none => State.served core w (s.serve core w)))

end Sys2Proof.Machine
end

