-- ==== Sys2Proof/Machine/Front.lean ====
section
/-! DEFINITION. The front end: kick pages and queue control (R340, R341, R348), reading and starting packets (R344 to R347), the
packet types (R343), errors and completion (R349, R350), and the complexes (R358, R359). -/
namespace Sys2Proof.Machine

/-! Queue descriptors (R340). -/

/-- R340: the address of descriptor q; none when the table is not in this package's memory. -/
def State.queueDesc (s : State) (q : Nat) : Option Nat :=
  let at' := bits s.fe.qtbase.toNat 55 24 * 2 ^ 24 + 64 * q
  if paPkg at' = Config.pkg ∧ paOff at' < hbmBytes then some at' else none

/-- R340: a descriptor in use with every field in range. -/
def descOk (bs : List Byte) : Bool :=
  let n := fieldOf bs
  n 9 1 % 2 == 1 && decide (n 9 1 < 4) && decide (4 ≤ n 8 1 ∧ n 8 1 ≤ 20) && n 0 8 % 4096 == 0 && decide (n 12 1 < 32) &&
  n 13 3 == 0 && bits (n 32 2) 14 11 == 0 && n 34 30 == 0

/-- R340: what a context load takes from a descriptor while the queue is enabled. -/
def HQueue.context (h : HQueue) (bs : List Byte) : HQueue :=
  let n := fieldOf bs
  { h with errSig := BitVec.ofNat 64 (n 24 8), msix := n 32 2 % 2048, msixEn := n 32 2 / 2 ^ 15 % 2 == 1 }

/-- R341: the queue as QCTL 4 enables it from its descriptor. -/
def HQueue.enable (h : HQueue) (bs : List Byte) : HQueue :=
  let n := fieldOf bs
  { h.context bs with
    widx := n 16 8, ridx := n 16 8, state := .running, err := 0, errIdx := 0, errStarted := false
    ring := BitVec.ofNat 64 (n 0 8), log2n := n 8 1, sys := n 9 1 / 2 % 2 == 1, asid := n 10 2, prioMax := n 12 1
    pre := [], named := [], errLine := none, resuming := false, levels := [], disabling := false, stalled := false }

/-- R340, R337: RIDX written to the descriptor, at once or when the host has answered for its line. -/
def State.writeRidx (s : State) (q : Nat) : State :=
  match s.queueDesc q with
  | some at' =>
    (match s.hostLine agentCore at' 64 true with
     | some n => (s.askHost n true).modHq q (fun h => { h with ridxDue := true })
     | none => (s.wrPhys (at' + 16) (bytesOf 8 (s.hq q).ridx)).modHq q (fun h => { h with ridxDue := false }))
  | none => s

/-- R340: the front end may load a queue's context, as it chooses (log 6): the descriptor is read again. -/
def State.loadContext (s : State) (q : Nat) : State :=
  let (s, n) := s.fresh
  match s.queueDesc q with
  | some at' =>
    let bs := s.rdHbm at' 64
    if !Config.freeBool n || (s.hostLine agentCore at' 64 false).isSome || s.unreadable at' 64 || !descOk bs then s
    else s.modHq q (fun h => h.context bs)
  | none => s

/-! Where the next packet lies (R344, R347). -/

/-- R340: the address of packet i of the ring. -/
def HQueue.ringAt (h : HQueue) (i : Nat) : Word := h.ring + BitVec.ofNat 64 (64 * (i % 2 ^ h.log2n))

/-- R344, R347: the address of the next packet of the innermost level, if there is one. -/
def HQueue.nextAt (h : HQueue) : Option Word :=
  match h.levels with
  | [] => if h.ridx < h.widx then some (h.ringAt h.ridx) else none
  | l :: _ => if l.next < l.count then some (l.buf + BitVec.ofNat 64 (64 * l.next)) else none

/-- R350: the ring index that stands for the next packet: its own, or that of the INDIRECT that holds it. -/
def HQueue.ringIdx (h : HQueue) : Nat :=
  match h.levels.getLast? with
  | some l => if l.id.isSome then h.ridx - 1 else h.ridx
  | none => h.ridx

/-- R348: the next packet of the ring has been cancelled. -/
def HQueue.isCancelled (h : HQueue) : Bool := h.levels.isEmpty && h.cancelled.contains h.ridx

/-- R346: a prefetched packet. -/
def HQueue.preOf (h : HQueue) (va : Word) : Option (List Byte) := (h.pre.find? (fun e => e.1 == va.toNat)).map (·.2)

/-- R346: a prefetched line of the memory that a packet names. -/
def HQueue.namedOf (h : HQueue) (pkt line : Word) : Option (List Byte) :=
  (h.named.find? (fun e => e.1 == pkt.toNat && e.2.1 == line.toNat)).map (fun e => e.2.2)

/-- R346: what has been read ahead of a packet is used no more. -/
def HQueue.forget (h : HQueue) (pkt : Word) : HQueue :=
  { h with pre := h.pre.filter (fun e => e.1 != pkt.toNat), named := h.named.filter (fun e => e.1 != pkt.toNat) }

/-- R348: packet i of the ring has started. -/
def HQueue.noteRan (h : HQueue) (i : Nat) : HQueue :=
  { h with
    ran := match h.ran.getLast? with
      | some r => if r.2 = i then h.ran.dropLast ++ [(r.1, i + 1)] else h.ran ++ [(i, i + 1)]
      | none => [(i, i + 1)] }

/-- R344: the packet at RIDX of the ring has started. -/
def HQueue.passRing (h : HQueue) : HQueue :=
  { h.noteRan h.ridx with ridx := h.ridx + 1, cancelled := h.cancelled.filter (· != h.ridx) }

/-- R341, R347, R350: packets may start: the queue runs, or an INDIRECT packet that has started runs on while it is held or being
disabled. -/
def HQueue.going (h : HQueue) : Bool :=
  let inner := h.levels.any (fun l => l.id.isSome)
  match h.state with
  | .running => !h.disabling || inner
  | .held => inner
  | .error | .disabled => false

/-! Packets (R342, R343). -/

/-- R342: the fields of a header. -/
def pktHead (bs : List Byte) : Nat := fieldOf bs 0 8
def pktType (bs : List Byte) : Nat := pktHead bs % 256
def pktValid (bs : List Byte) : Bool := pktHead bs / 2 ^ 8 % 2 == 1
def pktBar (bs : List Byte) : Bool := pktHead bs / 2 ^ 9 % 2 == 1
def pktIrq (bs : List Byte) : Bool := pktHead bs / 2 ^ 10 % 2 == 1
def pktAcq (bs : List Byte) : Nat := bits (pktHead bs) 14 12
/-- R342: the scope of the release on completion. -/
def pktRel (bs : List Byte) : Scope := Scope.ofCode (BitVec.ofNat 3 (bits (pktHead bs) 18 16))
def pktPrio (bs : List Byte) (max : Nat) : Nat := Nat.min (bits (pktHead bs) 23 19) max
def pktSig (bs : List Byte) : Word := BitVec.ofNat 64 (fieldOf bs 8 8)

/-- R343: the first byte behind the body of a type. -/
def bodyEnd : Nat → Nat
  | 1 => 28 | 2 => 40 | 3 => 32 | 4 => 25 | 5 => 32 | 6 => 33 | 8 => 28 | 9 => 24 | _ => 16

/-- R343, R203: the header that a MSG packet carries. -/
def pktMsgHead (bs : List Byte) : Nat := fieldOf bs 16 16

/-- R343, R350: the body of a packet is in range. -/
def bodyOk (bs : List Byte) : Bool :=
  let n := fieldOf bs
  match pktType bs with
  | 1 => n 16 8 % 64 == 0 && decide (1 ≤ n 24 4 ∧ n 24 4 ≤ 4096)
  | 2 =>
    let h := pktMsgHead bs
    let k := bits h 39 37
    let lines := bits h 63 62
    bits h 95 87 == 0 && bits h 61 45 == 0 &&
    (if k = 0 then lines == 0 else k == 1 && decide (1 ≤ lines) && decide (64 * lines ≤ 16 * bits h 36 33))
  | 3 => decide (n 16 2 < 4096) && n 18 6 == 0 && n 24 8 % 64 == 0
  | 4 => n 16 8 % 64 == 0 && decide (1 ≤ n 24 1 ∧ n 24 1 ≤ 64)
  | 5 => n 16 8 % 8 == 0
  | 6 => n 16 8 % 8 == 0 && decide (n 32 1 < 2)
  | 8 => n 16 8 % 64 == 0 && decide (1 ≤ n 24 4 ∧ n 24 4 ≤ 65536)
  | 0 | 7 | 9 => true
  | _ => false

/-- R342, R343, R350: a packet that is no BADPACKET by its own bytes. -/
def packetOk (bs : List Byte) : Bool :=
  let h := pktHead bs
  bits h 63 24 == 0 && bits h 15 15 == 0 && bits h 11 11 == 0 && decide (bits h 18 16 ≤ 5) && decide (pktAcq bs ≤ 5) &&
  (pktSig bs).toNat % 8 == 0 && bodyOk bs && (bs.drop (bodyEnd (pktType bs))).all (· == 0)

/-- R343: the memory a packet names: address and bytes. -/
def namedBy (bs : List Byte) : Nat × Nat :=
  let n := fieldOf bs
  match pktType bs with
  | 1 => (n 16 8, 384 * n 24 4)
  | 2 => (n 32 8, 16 * bits (pktMsgHead bs) 36 33)
  | 3 => (n 24 8, 64)
  | 4 => (n 16 8, 32 * n 24 1)
  | 9 => (n 16 8, 1088)
  | _ => (0, 0)

/-- The step of a packet's type. -/
def typeEvent (q ty : Nat) : Instr :=
  match ty with
  | 1 => .txnPacket q | 2 => .msgPacket q | 3 => .launchPacket q | 4 => .gangPacket q | 5 => .waitsigPacket q
  | 6 => .signalPacket q | 7 => .fetchfencePacket q | 8 => .indirectPacket q | 9 => .ringPacket q
  | _ => .nopPacket q

/-! Errors (R350). -/

/-- R350: the next packet stops the queue; it does not start, nor does an INDIRECT packet whose first packet it is. bs: its bytes, where
they could be read. -/
def State.stopAt (s : State) (q code : Nat) (bs : Option (List Byte)) : State :=
  let i := (s.hq q).ringIdx
  (s.modHq q (fun h => { h with
    errLine := match (h.levels.filter (fun l => l.id.isNone)).getLast? with | some l => some l.bytes | none => bs
    levels := h.levels.filter (fun l => l.id.isSome) })).queueError q code i false

/-- R350: a kick beyond the ring. -/
def State.overrun (s : State) (q : Nat) : State :=
  let h := s.hq q
  if (h.state = .running ∨ h.state = .held) ∧ h.ridx + 2 ^ h.log2n < h.widx then s.queueError q 7 (h.ridx + 2 ^ h.log2n) false else s

/-! Reading (R344, R346). -/

/-- R340: a line of 64 bytes read in the queue's address space. -/
def State.readLine (s : State) (q : Nat) (va : Word) : Except AccFault (List Byte) := s.readG agentCore (s.hq q).asid va 64

/-- R346: a line read ahead, as the front end chooses (log 6). -/
def State.readAhead (s : State) (q : Nat) (va : Word) (known : HQueue → Bool) (keep : HQueue → List Byte → HQueue) : State :=
  let (s, n) := s.fresh
  if !Config.freeBool n || known (s.hq q) then s
  else match s.readLine q va with
    | .ok bs => s.modHq q (fun h => keep h bs)
    | .error _ => s

/-- R346, R344: a packet read ahead; one with V = 0 is not used. -/
def State.preRead (s : State) (q : Nat) (va : Word) : State :=
  s.readAhead q va (fun h => (h.preOf va).isSome) (fun h bs => if pktValid bs then { h with pre := h.pre ++ [(va.toNat, bs)] } else h)

/-- The aligned lines of n bytes. -/
def linesOf (va n : Nat) : List Word :=
  if n = 0 then [] else (List.range ((va + n - 1) / 64 + 1 - va / 64)).map (fun i => BitVec.ofNat 64 ((va / 64 + i) * 64))

/-- R346, R344: the memory that the packet at an address names, read ahead after its header when its ACQ is 0. -/
def State.preNamed (s : State) (q : Nat) (pkt : Word) (bs : List Byte) : State :=
  if pktAcq bs ≠ 0 then s
  else (linesOf (namedBy bs).1 (namedBy bs).2).foldl (fun s va =>
    s.readAhead q va (fun h => (h.namedOf pkt va).isSome) (fun h l => { h with named := h.named ++ [(pkt.toNat, va.toNat, l)] })) s

/-- R346: the packets behind the next one, and what they name, read ahead. -/
def State.preAhead (s : State) (q : Nat) : State :=
  let h := s.hq q
  let ahead : List Word := match h.levels with
    | [] => (List.range (Nat.min 63 (h.widx - h.ridx - 1))).map (fun k => h.ringAt (h.ridx + 1 + k))
    | l :: _ => (List.range (Nat.min 63 (l.count - l.next - 1))).map (fun k => l.buf + BitVec.ofNat 64 (64 * (l.next + 1 + k)))
  ahead.foldl (fun s va =>
    let s := s.preRead q va
    match (s.hq q).preOf va with
    | some bs => s.preNamed q va bs
    | none => s) s

/-- R344: the next packet read: it stops the queue, waits for V, or is held for its start. -/
def State.readNext (s : State) (q : Nat) : State :=
  let h := s.hq q
  match h.nextAt with
  | none => s
  | some va =>
    if !h.going then s
    else match (match h.preOf va with | some bs => Except.ok bs | none => s.readLine q va) with
      | .error (.line n _) => s.askHost n false
      | .error _ => s.stopAt q 4 none
      | .ok bs =>
        if !pktValid bs then s.modHq q (fun h => { h with stalled := true })
        else if !h.isCancelled && !packetOk bs then s.stopAt q 1 (some bs)
        else
          let s := s.modHq q (fun h => { h with
            stalled := false, pre := if (h.preOf va).isSome then h.pre else h.pre ++ [(va.toNat, bs)] })
          (if h.isCancelled then s else (s.preNamed q va bs).preAhead q).due (typeEvent q (if h.isCancelled then 0 else pktType bs))

/-- R344, R350: the next packet is to be read, or has been read ahead and stops the queue. -/
def HQueue.unread (h : HQueue) (va : Word) : Bool :=
  match h.preOf va with
  | some bs => !h.isCancelled && !packetOk bs
  | none => true

/-- R344: PACKET_READ. -/
def execPacketRead (q : Nat) (s : State) : Out :=
  .next (match (s.hq q).nextAt with
    | some va => if (s.hq q).unread va then s.readNext q else s
    | none => s)

/-- R344: PACKET_REREAD. -/
def execPacketReread (q : Nat) (s : State) : Out := .next (if (s.hq q).stalled then s.readNext q else s)

/-- R346: n bytes named by the packet at an address: what has been read ahead for it is not read again. -/
def State.readNamed (s : State) (q : Nat) (pkt : Word) (va n : Nat) : Except AccFault (List Byte) := do
  let ls ← (linesOf va n).mapM (fun l => match (s.hq q).namedOf pkt l with
    | some bs => .ok bs
    | none => s.readLine q l)
  return (ls.flatten.drop (va % 64)).take n

/-! Starting (R344, R345). -/

/-- An agent of the front end that writes in an address space. -/
def frontWho (asid : Nat) (va : Word) : Who := { core := agentCore, slot := 0, serial := 0, va := va, asid := asid }

/-- R344: V cleared in a packet's header. -/
def State.clearV (s : State) (q : Nat) (va : Word) : State :=
  match s.agentRmw (frontWho (s.hq q).asid va) 8 (.amo .and .n64 (2 ^ 64 - 1 - 2 ^ 8)) .none with
  | .ok s => s
  | .error _ => s

/-- R344: one packet starts; idx: the ring index it counts under. Answers its id. -/
def State.beginOne (s : State) (q idx : Nat) (va : Word) (bs : List Byte) (parent : Option Nat) (pending : Nat) (whole : Bool) : State × Nat :=
  let s := s.clearV q va
  let h := s.hq q
  let id := h.nextStart
  let s := s.modHq q (fun h => { h.forget va with
    started := h.started ++ [{ id := id, index := idx, parent := parent, bytes := bs, pending := pending, whole := whole }]
    nextStart := id + 1 })
  (match parent with | some p => s.modPacket q p (fun e => { e with pending := e.pending + 1 }) | none => s, id)

/-- R343, R347: the INDIRECT packets of the open levels, outermost first, start with their first packet. out: the levels already
gone through, innermost first; it answers them with the id of the innermost. -/
def State.startLevels (s : State) (q idx : Nat) : List Level → List Level → State × List Level × Option Nat
  | [], out => (s, out, (out.head?).bind (·.id))
  | l :: t, out =>
    match l.id with
    | some _ => s.startLevels q idx t (l :: out)
    | none =>
      let (s, id) := s.beginOne q idx l.addr l.bytes ((out.head?).bind (·.id)) 0 false
      let l := { l with id := some id }
      match out with
      | [] => (s.modHq q HQueue.passRing).startLevels q idx t [l]
      | p :: r => s.startLevels q idx t (l :: { p with next := p.next + 1 } :: r)

/-- R347: levels whose last packet has started are left, and their packets have been submitted whole. -/
def State.leaveLevels (s : State) (q : Nat) : List Level → State
  | [] => s.modHq q (fun h => { h with levels := [] })
  | l :: t =>
    if l.next < l.count then s.modHq q (fun h => { h with levels := l :: t })
    else
      let s := match l.id with | some id => s.modPacket q id (fun e => { e with whole := true }) | none => s
      s.leaveLevels q t

/-- R344, R345, R340: the next packet starts: the levels that hold it, V, RIDX, and its place among the started packets. Every 64
starts RIDX is written. -/
def State.beginNext (s : State) (q : Nat) (va : Word) (bs : List Byte) (pending : Nat) (whole : Bool) : State × Nat :=
  let idx := (s.hq q).ringIdx
  let first := (s.hq q).nextStart
  let (s, ls, par) := s.startLevels q idx (s.hq q).levels.reverse []
  let s := s.modHq q (fun h => { h with levels := ls })
  let (s, id) := s.beginOne q idx va bs par pending whole
  let s := match ls with
    | [] => s.modHq q HQueue.passRing
    | l :: t => s.leaveLevels q ({ l with next := l.next + 1 } :: t)
  (if first / 64 = (s.hq q).nextStart / 64 then s else s.writeRidx q, id)

/-- R345, R347: the next packet may start: the queue goes, 64 are not exceeded, and a barrier has nothing before it in its level. -/
def HQueue.mayStart (h : HQueue) (bar : Bool) : Bool :=
  let top := (h.levels.head?).bind (·.id)
  let fresh := (h.levels.filter (fun l => l.id.isNone)).length
  h.going && decide (h.started.length + fresh + 1 ≤ 64) &&
  (!bar || (decide (0 < fresh) && !h.levels.isEmpty) || h.started.all (fun p => p.parent != top))

/-- R343, R345, R358, R386: the next packet, when it is of a type and may start, with its address; f gives its start. -/
def State.withNext (s : State) (q ty : Nat) (f : HQueue → Word → List Byte → State) : State :=
  let h := s.hq q
  match h.nextAt with
  | none => s
  | some va =>
    match h.preOf va with
    | none => s
    | some bs =>
      let t := if h.isCancelled then 0 else pktType bs
      if t ≠ ty ∨ h.unread va = true ∨ s.fe.updating = true ∨ s.fe.booting = true ∨ h.mayStart (pktBar bs || t == 7) = false then s
      else
        let opens := (h.levels.filter (fun l => l.id.isNone)).map (·.addr)
        match (va :: opens).findSome? (fun a => match s.atomicPage (frontWho h.asid a) true 8 with | .error e => some e | .ok _ => none) with
        | some (.line n _) => s.askHost n true
        | some _ => s.stopAt q 4 (some bs)
        | none => f h va bs

/-- R346, R350: the memory a packet names, read as it starts, with its acquire, where it has not been read ahead. -/
def State.withNamed (s : State) (q : Nat) (va : Word) (bs : List Byte) (f : List Byte → State) : State :=
  match s.readNamed q va (namedBy bs).1 (namedBy bs).2 with
  | .error (.line n _) => s.askHost n false
  | .error _ => s.stopAt q 4 (some bs)
  | .ok data => f data

/-- R343: a packet that starts and completes. -/
def State.startDone (s : State) (q : Nat) (va : Word) (bs : List Byte) (ok : Bool) : State :=
  let (s, id) := s.beginNext q va bs 0 true
  let s := if ok then s else s.modPacket q id (fun e => { e with fail := true })
  s.due (.packetCompletion q id true)

/-! The packet types (R343). -/

/-- R343, R348: NOP_PACKET. -/
def execNopPacket (q : Nat) (s : State) : Out := .next (s.withNext q 0 (fun _ va bs => s.startDone q va bs true))

/-- R346: FETCHFENCE_PACKET: what has been read ahead is discarded. -/
def execFetchfencePacket (q : Nat) (s : State) : Out :=
  .next (s.withNext q 7 (fun _ va bs => (s.startDone q va bs true).modHq q (fun h => { h with pre := [], named := [] })))

/-- R343: descriptor k of an array. -/
def descAt (data : List Byte) (k : Nat) : List Byte := (data.drop (384 * k)).take 384

/-- R312: a descriptor of a packet enters the intake. -/
def State.submitPacket (s : State) (q id asid : Nat) (bs : List Byte) (sizes : List Nat) : State :=
  (s.intake [⟨bs, asid, some (q, id), none, sizes⟩]).modPacket q id (fun e => { e with pending := e.pending + 1 })

/-- R343: the later descriptors of a TXN packet in order, up to the first that is refused. -/
def State.submitRest (s : State) (q id asid : Nat) : List (List Byte) → State
  | [] => s
  | d :: t =>
    let (r, sizes) := s.checkTxn d asid false
    let s := { s with choice := s.choice + 512 }
    if r = 0 then (s.submitPacket q id asid d sizes).submitRest q id asid t
    else
      let idx := (((s.hq q).started.find? (fun e => e.id == id)).map (·.index)).getD 0
      (s.modPacket q id (fun e => { e with fail := true })).queueError q 5 idx true

/-- R296: the intake entries of TXN packets. -/
def State.packetIntake (s : State) : Nat := (s.seq.intake.filter (fun b => b.packet.isSome)).length

/-- R343: TXN_PACKET. -/
def execTxnPacket (q : Nat) (s : State) : Out :=
  .next (s.withNext q 1 (fun h va bs => s.withNamed q va bs (fun data =>
    let n := fieldOf bs 24 4
    let (r, sizes) := s.checkTxn (descAt data 0) h.asid false
    if 65536 < s.packetIntake + n then s
    else
      let s := { s with choice := s.choice + 512 }
      if r ≠ 0 then s.stopAt q 5 (some bs)
      else
        let (s, id) := s.beginNext q va bs 0 true
        (s.submitPacket q id h.asid (descAt data 0) sizes).submitRest q id h.asid
          ((List.range (n - 1)).map (fun k => descAt data (k + 1))))))

/-- R343: the message of a MSG packet; id: the id of the packet. -/
def packetMessage (q id : Nat) (bs data : List Byte) (prioMax : Nat) : Message :=
  let m := parseMessage (bytesOf 16 (pktMsgHead bs) ++ data)
  { m with src := Config.pkg * 4096, agent := true, prio := Nat.min m.prio prioMax, num := some (q * 2 ^ 64 + id % 2 ^ 64) }

/-- R210: the messages that the front end holds for a core, where three places are left for gang starts (log 62). -/
def Core.frontHeld (k : Core) : Nat := ((k.agentPort ++ k.agentWait).filter (fun m => fromPacket m && m.src == Config.pkg * 4096)).length + 3

/-- R210, R343: MSG_PACKET: the message is placed, waits for the core's agent port, leaves for another package, or fails a check. Check 2
is made here; another package makes checks 3 to 5. -/
def execMsgPacket (q : Nat) (s : State) : Out :=
  .next (s.withNext q 2 (fun h va bs => s.withNamed q va bs (fun data =>
    let m := packetMessage q 0 bs data h.prioMax
    let named := fun (id : Nat) => packetMessage q id bs data h.prioMax
    let p := m.dest / 4096
    let c := m.dest % 4096
    let refused := !h.sys && (m.queue == 0 || decide (m.hid < 16))
    if p ≠ Config.pkg then
      if s.pkgDown p || refused then s.startDone q va bs false
      else
        let (s, id) := s.beginNext q va bs 0 false
        s.out (.message (named id))
    else if refused || (s.coreOf c).svc != .inService || s.checkMessage c m true != 0 then s.startDone q va bs false
    else if 128 ≤ (s.coreOf c).frontHeld then s
    else
      let (s, id) := s.beginNext q va bs 1 true
      if (s.coreOf c).portFull then s.modCore c (fun k => { k with agentWait := k.agentWait ++ [named id] })
      else s.placeAgent c (named id))))

/-- R354: the next launch id. -/
def nextId32 (n : Nat) : Nat := if n = 0xFFFFFFFF then 1 else n + 1

/-- R353, R354: LAUNCH_PACKET: the root task on its core's deque, once there is room and a launch record. -/
def execLaunchPacket (q : Nat) (s : State) : Out :=
  .next (s.withNext q 3 (fun h va bs => s.withNamed q va bs (fun data =>
    let c := fieldOf bs 16 2
    let k := s.coreOf c
    if !taskOk data then s.stopAt q 1 (some bs)
    else if 1024 ≤ s.launches.length ∨ k.dequeRoom ≤ k.deque.length + k.spillDeque.length ∨ k.svc.mapped = false then s
    else
      let (s, id) := s.beginNext q va bs 1 true
      let lid := s.nextLaunch
      let s := { s with
        nextLaunch := nextId32 lid
        launches := smSet (fun _ => none) s.launches lid (some { queue := q, packet := id }) }
      (s.launchCount lid (sgOf c) 1).modCore c (fun k => k.pushTask { desc := data, prio := taskPrio data (pktPrio bs h.prioMax), launch := lid, held := none }))))

/-- R357: the members of a gang table. -/
def gangMembers (data : List Byte) (n : Nat) : List GMember :=
  (List.range n).map (fun i =>
    let b := 32 * i
    { core := fieldOf data b 2, hid := fieldOf data (b + 2) 1, queue := fieldOf data (b + 3) 1
      outs := (List.range 8).map (fun p => fieldOf data (b + 16 + 2 * p) 2) })

/-- R357: the pipes of a table: reader member and channel. -/
def pipesOf (ms : List GMember) : List (Nat × Nat) :=
  ms.flatMap (fun m => (m.outs.filter (fun o => decide (2 ^ 15 ≤ o))).map (fun o => (bits o 8 3, o % 8)))

/-- R357: a gang table that is no BADPACKET. -/
def gangOk (data : List Byte) (n : Nat) : Bool :=
  let ms := gangMembers data n
  let ps := pipesOf ms
  ms.all (fun m => decide (m.core < 4096) && decide (16 ≤ m.hid) && decide (1 ≤ m.queue ∧ m.queue ≤ 7) &&
    m.outs.all (fun o => bits o 14 9 == 0) && decide ((ms.filter (fun x => x.core == m.core)).length ≤ 3)) &&
  (List.range n).all (fun i => fieldOf data (32 * i + 4) 12 == 0) &&
  decide ps.Nodup && ps.all (fun p => decide (p.1 < n))

/-- R67, R383: the slot a member takes: the lowest of slots 0 to 2 that is free and not reserved, on a core in service. -/
def State.gangSlot (s : State) (m : GMember) : Option Nat :=
  if (s.coreOf m.core).svc ≠ .inService then none
  else (List.range 3).find? (fun i => let x := s.slotOf m.core i; x.mode == .free && x.reserved.isNone)

/-- R67: one member's slot reserved, if it has none and one is free. -/
def State.reserveMember (s : State) (gid n : Nat) : State :=
  match (s.gangOf gid).bind (fun g => g.members[n]?) with
  | none => s
  | some m =>
    match m.slot, s.gangSlot m with
    | none, some i =>
      (s.modSlot m.core i (fun x => { x with reserved := some (gid, n) })).modGang gid (fun g => { g with
        members := g.members.zipIdx.map (fun e => if e.2 = n then { e.1 with slot := some i } else e.1) })
    | _, _ => s

/-- R220: the route tag of a pipe to channel ch of a member. -/
def routeTag (gid : Nat) (m : GMember) (ch : Nat) : Nat :=
  gid % 2 ^ 32 * 2 ^ 32 + globalCore m.core * 2 ^ 10 + m.slot.getD 0 * 2 ^ 7 + ch % 8

/-- R220: the tags of a member: incoming for c0 to c7, outgoing for ports 0 to 7. -/
def gangTags (gid : Nat) (ms : List GMember) (n : Nat) : List Byte :=
  let me := ms[n]?
  let inn := (List.range 8).flatMap (fun ch =>
    bytesOf 8 (match me with | some m => if (pipesOf ms).contains (n, ch) then routeTag gid m ch else 0 | none => 0))
  let out := (List.range 8).flatMap (fun p =>
    let o := (me.map (fun m => m.outs.getD p 0)).getD 0
    bytesOf 8 (match ms[bits o 8 3]? with | some r => if 2 ^ 15 ≤ o then routeTag gid r (o % 8) else 0 | none => 0))
  inn ++ out

/-- R357: the gang-start message of a member. -/
def gangMessage (gid : Nat) (g : Gang) (n : Nat) (m : GMember) : Message where
  dest := globalCore m.core
  queue := m.queue
  hid := m.hid
  len := 8
  kind := .gang
  prio := g.prio
  clines := 0
  src := Config.pkg * 4096
  agent := true
  msgid := gid
  payload := gangTags gid g.members n
  num := some n

/-- R67, R357: a gang that still reserves. -/
def Gang.placing (g : Gang) : Bool := !g.ended && g.members.any (fun m => m.slot.isNone && !m.returned)

/-- R67: the members of a gang take what slots are free; the last reservation sends every gang-start message. -/
def State.placeGang (s : State) (gid : Nat) : State :=
  match s.gangOf gid with
  | none => s
  | some g =>
    let s := (List.range g.members.length).foldl (fun s n => s.reserveMember gid n) s
    match s.gangOf gid with
    | none => s
    | some g =>
      if g.placing then s
      else g.members.zipIdx.foldl (fun s e => s.due (.messageArrival e.1.core (gangMessage gid g e.2 e.1))) s

/-- The gang that is reserving. -/
def State.placingGang (s : State) : Option Nat :=
  s.gangs.findSome? (fun e => match e.2 with | some g => if g.placing then some e.1 else none | none => none)

/-- R67: GANG_SLOT_RESERVATION. -/
def execGangSlotReservation (s : State) : Out := .next (match s.placingGang with | some gid => s.placeGang gid | none => s)

/-- R343, R357: GANG_PACKET: it starts when its first slot is reserved, one gang at a time. -/
def execGangPacket (q : Nat) (s : State) : Out :=
  .next (s.withNext q 4 (fun h va bs => s.withNamed q va bs (fun data =>
    let n := fieldOf bs 24 1
    let ms := gangMembers data n
    if !gangOk data n then s.stopAt q 1 (some bs)
    else if s.placingGang.isSome || !ms.any (fun m => (s.gangSlot m).isSome) then s
    else
      let (s, id) := s.beginNext q va bs 1 true
      let gid := s.nextGid
      let g : Gang := { queue := q, packet := id, prio := pktPrio bs h.prioMax, members := ms }
      ({ s with nextGid := nextId32 gid, gangs := smSet (fun _ => none) s.gangs gid (some g) }).placeGang gid)))

/-- R343: the signed test of WAITSIG. -/
def sigReached (bs v : List Byte) : Bool :=
  decide ((BitVec.ofNat 64 (wordOfBytes v)).toInt ≤ (BitVec.ofNat 64 (fieldOf bs 24 8)).toInt)

/-- R343: WAITSIG_PACKET. -/
def execWaitsigPacket (q : Nat) (s : State) : Out :=
  .next (s.withNext q 5 (fun h va bs =>
    match s.readG agentCore h.asid (BitVec.ofNat 64 (fieldOf bs 16 8)) 8 with
    | .error (.line n _) => s.askHost n false
    | .error _ => s.stopAt q 4 (some bs)
    | .ok v => if sigReached bs v then s.startDone q va bs true else (s.beginNext q va bs 1 true).1))

/-- R343: WAITSIG_REREAD: the started packet reads its address again; a fault completes it as a failure and is logged (R404). -/
def execWaitsigReread (q id : Nat) (s : State) : Out :=
  .next (
    let h := s.hq q
    match h.started.find? (fun e => e.id == id && pktType e.bytes == 5 && e.pending == 1) with
    | none => s
    | some p =>
      match s.readG agentCore h.asid (BitVec.ofNat 64 (fieldOf p.bytes 16 8)) 8 with
      | .error (.line n _) => s.askHost n false
      | .error e => (s.flogFe 3 (sigCause e).1 (sigCause e).2).packetPart q id false
      | .ok v => if sigReached p.bytes v then s.packetPart q id true else s)

/-- R343: SIGNAL_PACKET: an atomic swap or subtraction, a release at REL scope; the packet completes when it is performed. -/
def execSignalPacket (q : Nat) (s : State) : Out :=
  .next (s.withNext q 6 (fun h va bs =>
    let w := { frontWho h.asid (BitVec.ofNat 64 (fieldOf bs 16 8)) with rel := pktRel bs }
    let v := fieldOf bs 24 8
    let op : RmwOp := if fieldOf bs 32 1 = 0 then .amo .swap .n64 v else .amo .add .n64 ((2 ^ 64 - v) % 2 ^ 64)
    let (t, id) := s.beginNext q va bs 1 true
    match s.atomicPage w true 8, t.agentRmw w 8 op (.packet q id) with
    | .error (.line n _), _ | .ok _, .error (.line n _) => s.askHost n true
    | .error _, _ | .ok _, .error _ => s.stopAt q 4 (some bs)
    | .ok _, .ok u => u))

/-- R347: INDIRECT_PACKET: its level opens; it starts with its first packet. -/
def execIndirectPacket (q : Nat) (s : State) : Out :=
  .next (s.withNext q 8 (fun h va bs =>
    let buf := BitVec.ofNat 64 (fieldOf bs 16 8)
    if 4 ≤ h.levels.length then s.stopAt q 2 (some bs)
    else if buf = h.ring ∨ h.levels.any (fun l => l.buf == buf) = true then s.stopAt q 3 (some bs)
    else s.modHq q (fun h => { h with levels := ⟨buf, 0, fieldOf bs 24 4, bs, va, none⟩ :: h.levels })))

/-- R343, R328: RING_PACKET: RINGCFG as a system agent of the package. -/
def execRingPacket (q : Nat) (s : State) : Out :=
  .next (s.withNext q 9 (fun _ va bs =>
    if fieldOf bs 16 8 % 64 ≠ 0 then s.stopAt q 4 (some bs)
    else s.withNamed q va bs (fun data =>
      let (t, st) := s.ringSetup data
      t.startDone q va bs (st == 0))))

/-! Completion (R349). -/

/-- R349: the signal of a packet, a release at its REL scope, and its vector. -/
def State.packetSignal (s : State) (q : Nat) (bs : List Byte) (ok : Bool) : State :=
  let h := s.hq q
  s.subtract ⟨none, h.asid, pktSig bs, if ok then 1 else 0x100000000, if pktIrq bs && h.msixEn then some h.msix else none, pktRel bs⟩

/-- R343: a MSG packet whose message has left for another package: it completes by that package's answer. -/
def isRemoteMsg (p : Started) : Bool := pktType p.bytes == 2 && !p.whole

/-- R341: every started packet of a queue being disabled has completed. -/
def State.disableDone (s : State) (q : Nat) : State :=
  let h := s.hq q
  if h.disabling && h.started.isEmpty then
    (s.writeRidx q).modHq q (fun h => { h with state := .disabled, disabling := false, pre := [], named := [], levels := [], stalled := false })
  else s

/-- R349, R345, R347: PACKET_COMPLETION. ok: what another package answers for a message. -/
def execPacketCompletion (q id : Nat) (ok : Bool) (s : State) : Out :=
  .next (
    match (s.hq q).started.find? (fun e => e.id == id) with
    | none => s
    | some p =>
      if p.pending ≠ 0 ∨ (p.whole = false ∧ isRemoteMsg p = false) then s
      else
        let good := !p.fail && (ok || !isRemoteMsg p)
        let s := s.modHq q (fun h => { h with started := h.started.filter (fun e => e.id != id) })
        let s := s.packetSignal q p.bytes good
        let s := match p.parent with | some i => s.packetPart q i good | none => s
        let s := if (s.hq q).started.isEmpty then s.writeRidx q else s
        if (s.hq q).disabling && (s.hq q).started.isEmpty then s.due (.queueDisableComplete q) else s)

/-- R341: QUEUE_DISABLE_COMPLETE. -/
def execQueueDisableComplete (q : Nat) (s : State) : Out := .next (s.disableDone q)

/-! Kick pages (R341, R348, R350). -/

/-- R341, R340, R344, R350: KICK. A queue that is idle may have its context loaded. -/
def execKick (q : Nat) (v : Word) (s : State) : Out :=
  .next (
    let h := s.hq q
    if h.state = .disabled then s
    else
      let s := if h.started.isEmpty && h.levels.isEmpty then s.loadContext q else s
      let s := (s.modHq q (fun h => { h with widx := Nat.max h.widx v.toNat })).overrun q
      if h.stalled then s.due (.packetReread q) else s)

/-- R348: CANCEL. An INDIRECT packet whose level is open and that has not started becomes a NOP as well. -/
def execCancel (q : Nat) (v : Word) (s : State) : Out :=
  .next (s.modHq q (fun h =>
    let i := v.toNat
    if h.ridx ≤ i ∧ i < h.widx then
      { h with
        cstat := 1, cancelled := if h.cancelled.contains i then h.cancelled else h.cancelled ++ [i]
        levels := if i = h.ridx then h.levels.filter (fun l => l.id.isSome) else h.levels }
    else if h.ran.any (fun r => decide (r.1 ≤ i ∧ i < r.2)) then { h with cstat := 2 }
    else { h with cstat := 3 }))

/-- R350: the packet that stopped the queue completes as a failure without starting, and the queue goes on behind it. bs: its bytes,
where they can be read. -/
def State.passStopped (s : State) (q : Nat) (va : Word) (bs : Option (List Byte)) : State :=
  let s := match bs with | some bs => s.packetSignal q bs false | none => s
  let s := s.modHq q (fun h => { h.forget va with errLine := none })
  match (s.hq q).levels with
  | [] => s.modHq q (fun h => { h with ridx := h.ridx + 1, cancelled := h.cancelled.filter (· != h.ridx) })
  | l :: t =>
    let s := match l.id with | some p => s.modPacket q p (fun e => { e with fail := true }) | none => s
    s.leaveLevels q ({ l with next := l.next + 1 } :: t)

/-- R350, R340: a queue in error runs again; one that is idle has its RIDX written. -/
def State.resumeQueue (s : State) (q : Nat) : State :=
  let s := (s.modHq q (fun h => { h with state := .running, err := 0, stalled := false, resuming := false })).overrun q
  if (s.hq q).started.isEmpty then s.writeRidx q else s

/-- R350, R337: QCTL_RESUME. A packet that lies in a line the host holds is read for its signal when the host has answered. -/
def execQctlResume (q : Nat) (s : State) : Out :=
  .next (
    let h := s.hq q
    if h.state ≠ .error then s
    else if h.err = 7 then (s.modHq q (fun h => { h with widx := h.ridx + 2 ^ h.log2n })).resumeQueue q
    else if h.errStarted then s.resumeQueue q
    else match h.nextAt with
      | none => s.resumeQueue q
      | some va =>
        match (match h.errLine, h.preOf va with | some bs, _ | none, some bs => Except.ok bs | none, none => s.readLine q va) with
        | .ok bs => (s.passStopped q va (some bs)).resumeQueue q
        | .error (.line n _) => (s.askHost n false).modHq q (fun h => { h with resuming := true })
        | .error _ => (s.passStopped q va none).resumeQueue q)

/-- R341: QCTL_HOLD. -/
def execQctlHold (q : Nat) (s : State) : Out :=
  .next (s.modHq q (fun h => if h.state = .running then { h with state := .held } else h))

/-- R341: QCTL_RELEASE. -/
def execQctlRelease (q : Nat) (s : State) : Out :=
  .next (s.modHq q (fun h => if h.state = .held then { h with state := .running } else h))

/-- R341, R337: QCTL_ENABLE; a descriptor in a line the host holds is read when the host has answered. -/
def execQctlEnable (q : Nat) (s : State) : Out :=
  .next (
    let s' := s.modHq q (fun h => { h with enabling := false })
    if (s.hq q).state ≠ .disabled then s'
    else match s.queueDesc q with
      | none => s'
      | some at' =>
        match s.hostLine agentCore at' 64 false with
        | some n => (s.askHost n false).modHq q (fun h => { h with enabling := true })
        | none =>
          let bs := s.rdHbm at' 64
          if descOk bs && !s.unreadable at' 64 then s'.modHq q (fun h => h.enable bs) else s')

/-- R341: QCTL_DISABLE. A queue in error leaves the levels it stopped in. -/
def execQctlDisable (q : Nat) (s : State) : Out :=
  .next (
    let h := s.hq q
    if h.state = .disabled then s
    else
      let s := s.modHq q (fun h => { h with disabling := true })
      let s := if h.state ≠ .error then s.modHq q (fun h => { h with levels := h.levels.filter (fun l => l.id.isSome) })
        else (h.levels.foldl (fun s l => match l.id with
          | some p => s.modPacket q p (fun e => { e with fail := true, whole := true })
          | none => s) s).modHq q (fun h => { h with levels := [] })
      if (s.hq q).started.isEmpty then s.due (.queueDisableComplete q) else s)

/-! The complexes (R358, R359). -/

/-- R358: LIVE_UPDATE: firmware loaded on the standby, which then mirrors the table; or a write to FE_CTL: a takeover starts, or is refused. -/
def execLiveUpdate (u : UpdateStep) (s : State) : Out :=
  .next (match u with
    | .load ver reads =>
      if s.fe.updating then s
      else { s with fe := { s.fe with
        vers := smSet (fun _ => none) s.fe.vers (!s.fe.active).toNat (some ver), standbyOk := true, standbyReads := reads } }
    | .write v =>
      if v.getLsbD 0 = false ∨ s.fe.updating = true then s
      else if s.fe.standbyOk && s.fe.standbyReads then { s with fe := { s.fe with updating := true, refused := false } }
      else { s with fe := { s.fe with refused := true } })

/-- The standby becomes active; whether the other complex then mirrors it is not stated (log 6). -/
def State.takeOver (s : State) : State :=
  let (s, n) := s.fresh
  { s with fe := { s.fe with active := !s.fe.active, updating := false, standbyOk := Config.freeBool n, standbyReads := true } }

/-- R358: LIVE_UPDATE_HANDOVER, at a round close. -/
def execLiveUpdateHandover (s : State) : Out := .next (if s.fe.updating then s.takeOver else s)

/-- R359: FAILOVER: the standby takes over from the mirrored table. -/
def execFailover (s : State) : Out := .next s.takeOver

end Sys2Proof.Machine
end

