-- ==== Sys2Proof/Machine/Work.lean ====
section
/-! DEFINITION. Tasks: taking, stealing (R353) and the end of a launch (R354). -/
namespace Sys2Proof.Machine

/-- R353: the position of the last visible entry of a deque. -/
def bottomVisible (l : List DequeEntry) : Option Nat :=
  (l.zipIdx.reverse.find? (fun e => e.1.held.isNone)).map (·.2)

/-- R353: the position of the first visible entry of a deque. -/
def topVisible (l : List DequeEntry) : Option Nat := l.findIdx? (fun e => e.held.isNone)

/-- R353: a queue holds a message that waits. -/
def Queue.waiting (q : Queue) : Bool := if q.run then decide (1 < q.msgs.length) else !q.msgs.isEmpty

/-- R352: the message of a task. -/
def taskMessage (c : Nat) (e : DequeEntry) : Message where
  dest := globalCore c
  queue := (e.desc.getD 1 0).toNat % 8
  hid := (e.desc.getD 0 0).toNat
  len := 4
  kind := .task
  prio := e.prio
  clines := 0
  src := Config.pkg * 4096
  agent := true
  msgid := e.launch
  payload := e.desc

/-- R353, R63: a slot of the core that the task of an entry may take is free. -/
def State.slotFree (s : State) (c : Nat) (e : DequeEntry) : Bool :=
  (List.range 4).any (fun i => (s.slotOf c i).mode == .free && s.mayTake c i (taskMessage c e))

/-- R353: the entry that a core would take into a queue. -/
def State.takeable (s : State) (c : Nat) : Option (Nat × DequeEntry) :=
  let k := s.coreOf c
  match bottomVisible k.tasks with
  | none => none
  | some n =>
    match k.tasks[n]? with
    | none => none
    | some e =>
      if k.svc == .inService && s.slotFree c e && !(k.queueOf (taskMessage c e).queue).waiting then some (n, e) else none

/-- R353: TASK_TAKE. -/
def execTaskTake (core : Nat) (s : State) : Out :=
  .next (match s.takeable core with
    | none => s
    | some (n, e) => (s.modCore core (fun k => k.setDeque (k.tasks.eraseIdx n))).due (.messageArrival core (taskMessage core e)))

/-- R353: the cores of a set in the order of stealing: ascending after a core, wrapping. -/
def afterCore (l : List Nat) (last : Nat) : List Nat := l.filter (fun d => decide (last < d)) ++ l.filter (fun d => decide (d ≤ last))

/-- R353: the cores a core steals from, in order, and whether each is of its own stack group. -/
def State.victims (s : State) (c : Nat) : List (Nat × Bool) :=
  let k := s.coreOf c
  let all := (s.cores.map (·.1)).filter (· != c)
  (afterCore (all.filter (fun d => sgOf d == sgOf c)) (k.stealIn.getD c)).map (fun d => (d, true)) ++
  (afterCore (all.filter (fun d => sgOf d != sgOf c)) (k.stealOut.getD c)).map (fun d => (d, false))

/-- R353: the core that a core steals from now, with the position of the entry. -/
def State.stealFrom (s : State) (c : Nat) : Option (Nat × Bool × Nat × DequeEntry) :=
  let k := s.coreOf c
  if !(k.svc == .inService && (bottomVisible k.tasks).isNone && decide (k.tasks.length < k.dequeRoom)) then none
  else (s.victims c).findSome? (fun v =>
    let l := (s.coreOf v.1).tasks
    match topVisible l with
    | none => none
    | some n => (l[n]?).bind (fun e => if s.slotFree c e then some (v.1, v.2, n, e) else none))

/-- R353, R354: TASK_STEAL. -/
def execTaskSteal (core : Nat) (s : State) : Out :=
  .next (match s.stealFrom core with
    | none => s
    | some (v, own, n, e) =>
      let s := s.modCore v (fun k => k.setDeque (k.tasks.eraseIdx n))
      let s := s.modCore core (fun k => { k.pushTask e with
        stealIn := if own then some v else k.stealIn, stealOut := if own then k.stealOut else some v })
      if own then s else (s.launchCount e.launch (sgOf core) 1).launchCount e.launch (sgOf v) (-1))

/-- R354: TERMINATION_SWEEP: one sweep over a launch; the second of two with C zero and equal X ends it. -/
def execTerminationSweep (lid : Nat) (s : State) : Out :=
  .next (match smGet (fun _ => none) s.launches lid with
    | none => s
    | some l =>
      if !l.c.isEmpty then { s with launches := smSet (fun _ => none) s.launches lid (some { l with swept := none }) }
      else if l.swept = some l.x then { s.packetPart l.queue l.packet (!l.fail) with launches := smSet (fun _ => none) s.launches lid none }
      else { s with launches := smSet (fun _ => none) s.launches lid (some { l with swept := some l.x }) })

end Sys2Proof.Machine
end

