-- ==== Sys2Proof/Machine/Service.lean ====
section
/-! DEFINITION. Service: management registers (R227), invalidation (R235, R236), walks (R233), the host's memory traffic (R337,
R338), errors and self-tests (R371, R372), frames (R242, R243), draining and readmitting cores (R383, R384), power (R380, R381),
links (R322, R385) and reset (R386). -/
namespace Sys2Proof.Machine

/-! Management registers (R227). -/

/-- Bits hi to lo of a dword kept in their places. -/
def keepBits (v : Word) (hi lo : Nat) : Word := BitVec.ofNat 64 (bits v.toNat hi lo * 2 ^ lo)

/-- R365: a size field that other values leave unchanged. -/
def logField (old v lo hi : Nat) (zero : Bool) : Nat := if (v = 0 ∧ zero = true) ∨ (lo ≤ v ∧ v ≤ hi) then v else old

/-- R227: a write to a register without a row of its own; off is the offset in the window. -/
def State.mgmtWrite (s : State) (off : Nat) (v : Word) : State :=
  let n := v.toNat
  match off with
  | 0x00000000 => s.modFe (fun f => { f with
      astbase := keepBits v 55 20 ||| (if bits n 55 46 = Config.pkg then keepBits v 0 0 else 0) })
  | 0x00030000 =>
    if 4 ≤ n % 128 ∧ n % 128 ≤ 64 then { s with seq := { s.seq with nextPeriod := n % 128 } } else s
  | 0x00040000 => if 50 ≤ n % 2 ^ 32 ∧ n % 2 ^ 32 ≤ 10000 then s.modFe (fun f => { f with podTimeout := n % 2 ^ 32 }) else s
  | 0x00050000 => s.modFe (fun f => { f with qtbase := keepBits v 55 24 })
  | 0x00080000 => s.modFe (fun f => { f with fsqBase := keepBits v 55 12, fsqLog2 := logField f.fsqLog2 (n % 16) 4 12 true })
  | 0x00080010 => s.modFe (fun f => { f with flogBase := keepBits v 55 12 })
  | 0x00080018 => s.modFe (fun f => { f with
      flogLog2 := BitVec.ofNat 4 (logField f.flogLog2.toNat (n % 16) 4 15 false), flogNext := BitVec.ofNat 48 (n / 2 ^ 16) })
  | 0x00080028 => s.modFe (fun f => { f with fsqEn := n / 2 ^ 15 % 2 == 1, fsqVec := BitVec.ofNat 11 n })
  | 0x00080030 => s.modFe (fun f => { f with fsTbase := keepBits v 55 5 })
  | 0x00080038 => s.modFe (fun f => { f with fsTcnt := n % 2 ^ 16 })
  | 0x00090000 => s.modFe (fun f => { f with
      cap := if 1000 ≤ bits n 15 4 ∧ bits n 15 4 ≤ 2600 then bits n 15 4 else f.cap, maxPt := bits n 3 2 })
  | r =>
    if msixOff ≤ r ∧ r < msixOff + 32768 ∧ r % 8 = 0 then
      s.modFe (fun f => { f with
        msixTable := (bytesOf 8 n).zipIdx.foldl (fun m e => smSet (fun _ => 0) m (r - msixOff + e.2) e.1) f.msixTable })
    else s

/-- R227: MANAGEMENT_REGISTER_WRITE. -/
def execManagementRegisterWrite (off : Nat) (v : Word) (s : State) : Out := .next (s.mgmtWrite off v)

/-! Invalidation (R235, R236) and walks (R233). -/

/-- R235: a request record as the front end reads it. -/
def parseInv (bs : List Byte) : InvReq :=
  let n := fieldOf bs
  { asid := n 0 2, kind := n 2 1, scope := n 3 1, va := n 8 8, len := n 16 8, sig := n 24 8
    bad := decide (2 < n 2 1) || (n 3 1 != 4 && n 3 1 != 5) || n 4 4 != 0 ||
      (n 2 1 == 0 && (n 8 8 % 65536 != 0 || n 16 8 % 65536 != 0 || decide (n 16 8 < 1 ∨ 2 ^ 55 < n 16 8))) }

/-- R235: the record of a doorbell is read; none: it waits for a line the host holds. A request for every package of the pod goes to the
others. A record in a poisoned atom or an offline frame is not acted on, and is logged with cause 0x09 (DESIGN CHOICE, log 61: the rule
does not say). -/
def State.acceptInv (s : State) (v : Word) : Option State :=
  let a := v.toNat
  if a % 32 ≠ 0 ∨ 2 ^ 56 ≤ a ∨ paPkg a ≠ Config.pkg ∨ hbmBytes ≤ paOff a then some (s.flogFe 3 0 v)
  else if (s.hostLine agentCore a 32 false).isSome then none
  else if s.unreadable a 32 then some (s.flogFe 3 0x09 v)
  else
    let r := parseInv (s.rdHbm a 32)
    if r.sig % 8 ≠ 0 then some (s.flogFe 3 0 v)
    else
      let s := { s with inv := s.inv ++ [r] }
      some (if r.scope = 5 ∧ r.bad = false ∧ s.otherMember = true then s.out (.invalidate r) else s)

/-- R235, R337: doorbells in order, up to one that waits for the host. -/
def State.acceptInvs (s : State) : List Word → State
  | [] => { s with doorbells := [] }
  | v :: t =>
    match s.acceptInv v with
    | some u => u.acceptInvs t
    | none => { s.askHost (v.toNat / 64) false with doorbells := v :: t }

/-- R236: the oldest request of SCOPE 5 with a SIG, answered by every other package: what is left is the work of SCOPE 4 here. -/
def answerInv (sig : Nat) : List InvReq → List InvReq
  | [] => []
  | r :: t => if r.scope = 5 ∧ r.sig = sig then { r with scope := 4 } :: t else r :: answerInv sig t

/-- R235, R236: INVALIDATION_DOORBELL: a record here; a request of another package, before those of this one, which may wait for that
package; or the answer of the others. -/
def execInvalidationDoorbell (b : InvBell) (s : State) : Out :=
  .next (match b with
    | .record v => if s.doorbells.isEmpty then s.acceptInvs [v] else { s with doorbells := s.doorbells ++ [v] }
    | .other r =>
      let far := s.inv.takeWhile (fun x => x.scope == 6)
      { s with inv := far ++ [{ r with scope := 6, bad := false }] ++ s.inv.drop far.length }
    | .answered sig => { s with inv := answerInv sig s.inv })

/-- R232: the addresses that a cached entry may serve, and the physical line among what it maps. -/
def TlbEntry.span (t : TlbEntry) : Nat × Nat :=
  let n := 2 ^ (leafBits t.level + if pteBit t.leaf.toNat 60 then 5 else 0)
  let lo := t.page * 65536 / n * n
  (lo, lo + n - 1)
def TlbEntry.mapsLine (t : TlbEntry) (line : Nat) : Bool :=
  let lb := leafBits t.level + if pteBit t.leaf.toNat 60 then 5 else 0
  (leafPage t.leaf.toNat lb t.span.1).pa / 2 ^ lb == line * 64 / 2 ^ lb

/-- R235: the addresses of an address space that a request covers, from lo to hi. -/
def invMeets (r : InvReq) (asid lo hi : Nat) : Bool :=
  match r.kind with
  | 0 => asid == r.asid && decide (r.va ≤ hi ∧ lo < r.va + r.len)
  | 1 => asid == r.asid
  | _ => true

/-- R235, R236, R232: a cached translation that a request removes: one of a contiguous group serves all of it. -/
def invCovers (r : InvReq) (t : TlbEntry) : Bool := invMeets r t.asid t.span.1 t.span.2

/-- R236: an access of an address space whose address a request covers, or whose translation an entry that the request has removed may
have given. -/
def State.invCoversVa (s : State) (r : InvReq) (asid va : Nat) : Bool :=
  invMeets r asid va va || s.invGone.any (fun g => asid == g.1 && decide (g.2.1 ≤ va ∧ va ≤ g.2.2))

/-- R236: some access through the range is not performed: a store on its way or held, or a future request that waits for its cell. -/
def State.invOpen (s : State) (r : InvReq) : Bool :=
  let mine := fun (w : Who) => w.core != agentCore && s.invCoversVa r w.asid w.va.toNat
  s.heldStores.any (fun h => mine h.who) || s.remoteOut.any (fun b => mine b.who) || s.deferred.any (fun d => mine d.who)

/-- R239: a physical line that the range of a request maps as the tables stand. -/
def State.invMaps (s : State) (r : InvReq) (line : Nat) : Bool :=
  (List.range (r.len / 65536)).any (fun i =>
    let va := BitVec.ofNat 64 (r.va + 65536 * i)
    match s.walkVa agentCore r.asid va with
    | .ok (e, level, _) => (leafPage e (leafBits level) va.toNat).pa / 65536 == line / 1024
    | .error _ => false)

/-- R239: a cache-role line that a request drops: every line for every entry of an address space or of all (DESIGN CHOICE, log 61: of an
address space that may be more than R239 asks); for a range, a line read through it, or that the removed translations or the tables map. -/
def State.invDrops (s : State) (r : InvReq) (gone : List TlbEntry) (l : CacheLine) : Bool :=
  r.kind != 0 || l.via.any (fun p => invMeets r p.1 (p.2 * 65536) (p.2 * 65536 + 65535)) ||
  gone.any (fun t => t.mapsLine l.line) || s.invMaps r l.line

/-- R236, R239: what a request removes here: cached translations, the addresses of which are kept until it completes, and cache-role
lines. -/
def State.removeEntries (s : State) (r : InvReq) : State :=
  let gone := s.tlb.filter (invCovers r)
  { s with
    tlb := s.tlb.filter (fun e => !invCovers r e)
    invGone := s.invGone ++ gone.map (fun t => (t.asid, t.span.1, t.span.2))
    cores := s.cores.map (fun (e : Nat × Core) => (e.1, { e.2 with cacheLines := e.2.cacheLines.filter (fun l => !s.invDrops r gone l) })) }

/-- R235, R404: the signal of a request, at its physical address: the value subtracted, or the update dropped and logged. -/
def State.invSignal (s : State) (pa amount : Nat) : State :=
  let fault := if 2 ^ 56 ≤ pa ∨ hbmBytes ≤ paOff pa then 0x07 else if s.pkgDown (paPkg pa) || s.unreadable pa 8 then 0x09 else 0
  if fault ≠ 0 then s.flogFe 3 fault (BitVec.ofNat 64 pa)
  else
    let w : Who := { core := agentCore, slot := 0, serial := 0, va := BitVec.ofNat 64 pa, num := s.order }
    { s with order := s.order + 1 }.homeAct ⟨.rmw pa 8 (.amo .add .n64 ((2 ^ 64 - amount) % 2 ^ 64)), w, .none⟩

/-- R235: the oldest request is done: its signal changes, or the package that sent it is told; a signal in a line the host holds waits
(R337). -/
def State.endInv (s : State) (r : InvReq) (t : List InvReq) (amount : Nat) : State :=
  let done := { s with inv := t, invGone := [] }
  if r.scope = 6 then done.out (.invalidated r.sig)
  else match s.hostLine agentCore r.sig 8 true with
    | some n => s.askHost n true
    | none => done.invSignal r.sig amount

/-- R236: the oldest request takes effect: its entries go, and it completes once every access through them has been performed, here and,
at SCOPE 5, on the other packages. One that another package has sent (scope 6) is answered. -/
def State.finishInv (s : State) : State :=
  match s.inv with
  | [] => s
  | r :: t =>
    if r.bad then s.endInv r t 0x100000000
    else
      let s := (if s.relaxed then s.drainAll else s).removeEntries r
      if s.invOpen r || (r.scope == 5 && s.otherMember) then s else s.endInv r t 1

/-- R236: INVALIDATION_COMPLETION. -/
def execInvalidationCompletion (s : State) : Out := .next s.finishInv

/-- R225: the entries of a unit: 64 in a micro-TLB, 2,048 in the TLB of a cluster. -/
def TlbUnit.room : TlbUnit → Nat
  | .micro _ => 64
  | .cluster _ => 2048

/-- R225, R233: an entry enters its unit, in place of an older one of its page; in a full unit in place of one that the hardware
chooses (log 6). -/
def addTlb (n : Nat) (l : List TlbEntry) (e : TlbEntry) : List TlbEntry :=
  let l := l.filter (fun x => !(x.unit == e.unit && x.asid == e.asid && x.page == e.page))
  let mine := l.filter (fun x => x.unit == e.unit)
  if mine.length < e.unit.room then l ++ [e]
  else l.filter (fun x => some x != mine[Config.freeNat n e.page % mine.length]?) ++ [e]

/-- R225, R233, R234: WALK_COMPLETION: a walk that passes its checks is held by the core's micro-TLB and its cluster's TLB. -/
def execWalkCompletion (core asid page : Nat) (s : State) : Out :=
  .next (match s.walkVa core asid (BitVec.ofNat 64 (page * 65536)) with
    | .error _ => s
    | .ok (e, level, _) =>
      let us : List TlbUnit := [.micro core, .cluster (clusterOf core)]
      { s with tlb := (us.map (fun u => ⟨u, asid, page, BitVec.ofNat 64 e, level⟩)).foldl (addTlb s.choice) s.tlb, choice := s.choice + 1 })

/-! The host's memory traffic (R337, R338). -/

/-- R338: a host access performed at its homes; a write is completed when it is performed at pod scope. -/
def State.hostServe (s : State) (r : HostReq) : State :=
  let pa := ownPa r.off
  if hbmBytes < r.off + r.n then s
  else if r.write then
    let w : Who := { core := agentCore, slot := 0, serial := 0, va := BitVec.ofNat 64 pa, num := s.order }
    ({ s with order := s.order + 1, hostOut := s.hostOut ++ [(r.off, s.order)] }.homeStore w (.host r.off) (placed pa r.data)).settleHost
  else
    let s := s.out (.hostData r.off (s.rdHbm pa r.n))
    if !r.hold then s
    else (List.range ((pa + r.n - 1) / 64 + 1 - pa / 64)).foldl (fun s i =>
      { s with hostHeld := smSet (fun _ => false) s.hostHeld (pa / 64 + i) true }) s

/-- R337: a host request waits behind a back-invalidation of one of its lines. -/
def State.hostWaits (s : State) (r : HostReq) : Bool :=
  let pa := ownPa r.off
  s.bisnp.any (fun l => decide (pa / 64 ≤ l ∧ l * 64 < pa + r.n))

/-- R337, R338: a host request is served, or held. -/
def State.hostRequest (s : State) (r : HostReq) : State :=
  if s.hostWaits r then { s with hostReqs := s.hostReqs ++ [r] } else s.hostServe r

/-- R338: HOST_MEM_WRITE. -/
def execHostMemWrite (off : Nat) (data : List Byte) (s : State) : Out :=
  .next (s.hostRequest ⟨off, true, data.length, data, false⟩)

/-- R338: HOST_MEM_READ; hold: the host keeps a copy. -/
def execHostMemRead (off n : Nat) (hold : Bool) (s : State) : Out := .next (s.hostRequest ⟨off, false, n, [], hold⟩)

/-- R337: the slots that wait for a line go on. -/
def State.wakeLine (s : State) (n : Nat) : State :=
  s.cores.foldl (fun (s : State) (e : Nat × Core) => (List.range 5).foldl (fun s i =>
    if (s.slotOf e.1 i).wait = .line n then s.modSlot e.1 i (fun x => { x with wait := .none }) else s) s) s

/-- R337: the last back-invalidation of a line was for a store. -/
def State.askedInv (s : State) (line : Nat) : Bool :=
  (s.outbox.reverse.findSome? (fun o => match o with | .biSnp n inv => if n = line then some inv else none | _ => none)).getD false

/-- R337: who waits for a line: the slots at it, the engines and the porter with work, the agents outside the cores, now and until the
clock after this one (State.clock), and what is held at the homes. -/
def State.lineWaiters (s : State) (line : Nat) : List (Nat × Nat) :=
  s.cores.flatMap (fun (e : Nat × Core) =>
    ((List.range 5).filter (fun i => decide ((e.2.slotOf i).wait = .line line))).map (fun i => (e.1, i)) ++
    (if e.2.work.isEmpty then [] else [(e.1, 4)]) ++
    (if e.2.matrix.q.isEmpty then [] else [(e.1, engSlot .matrix)]) ++
    (if e.2.copy.q.isEmpty then [] else [(e.1, engSlot .copy)])) ++
  [(agentCore, 0), (agentCore, 1), (agentCore, 2)]

/-- R337: what the front end does once the host has answered. -/
def State.resumeAgents (s : State) : State :=
  let held := s.hostReqs
  let s := held.foldl (fun s r => s.hostRequest r) { s with hostReqs := [] }
  let sig := s.sigPend
  let s := sig.foldl (fun s p => s.subtract p) { s with sigPend := [] }
  let far := s.farHeld
  let s := far.foldl (fun s f => match f with
    | .far pkg id pa act acq rel => s.farAccess pkg id pa act acq rel
    | .leave _ _ => s) { s with farHeld := [] }
  let s := s.hqueues.foldl (fun (s : State) (e : Nat × HQueue) => if e.2.ridxDue then s.writeRidx e.1 else s) s
  (s.acceptInvs s.doorbells).fsqFlush s.fe.fsqHeld

/-- R337: BIRSP_ARRIVAL: the data comes home, the bit is cleared or kept, what waited goes on. -/
def execBirspArrival (line : Nat) (data : Option (List Byte)) (keep : Bool) (s : State) : Out :=
  .next (
    if !s.bisnp.contains line then s
    else
      let s := match data with
        | some bs => s.homeStore { core := agentCore, slot := 0, serial := 0, va := BitVec.ofNat 64 (line * 64) } .none (placed (line * 64) (bs.take 64))
        | none => s
      let inv := s.askedInv line
      let s := { s with
        bisnp := s.bisnp.filter (· != line), hostHeld := smSet (fun _ => false) s.hostHeld line keep
        linePass := if keep then s.linePass ++ (s.lineWaiters line).map (fun w => ({ line := line, inv := inv, who := w } : LinePass)) else s.linePass }
      ((s.wakeLine line).applyHeld.resumeAgents).dropPass (agentCore, 2))

/-! Draining and self-tests (R372, R383, R384). -/

/-- R382, R383: CORE_DRAIN. -/
def execCoreDrain (core : Nat) (s : State) : Out := .next ((s.modFe (fun f => { f with svcCore := core })).askDrain core)

/-- R383 step 4: a draining core holds nothing any more. -/
def State.drainReady (s : State) (c : Nat) : Bool :=
  let k := s.coreOf c
  k.svc == .draining &&
  (List.range 4).all (fun i => let x := k.slotOf i; x.mode == .free && x.reserved.isNone) &&
  k.res.isEmpty && k.copy.q.isEmpty && k.matrix.q.isEmpty && k.tasks.isEmpty &&
  !s.rings.any (fun e => match e.2 with | some r => r.lands.any (fun l => l.1 == c) | none => false)

/-- R383, R372: CORE_DRAIN_COMPLETE; a core that is to be tested goes on to its test. -/
def execCoreDrainComplete (core : Nat) (s : State) : Out :=
  .next (
    if !s.drainReady core then s
    else
      let s := s.modCore core (fun k => { k with svc := if s.fe.tests.contains (.core core) then .testing else .drained })
      let s := s.flushInbox core
      (s.modFe (fun f => { f with drains := f.drains.filter (· != core) })).startDrain)

/-- R384: CORE_READMIT: the self-test of a core that is out of service. -/
def execCoreReadmit (core : Nat) (s : State) : Out :=
  .next (
    let s := s.modFe (fun f => { f with svcCore := core })
    match (s.coreOf core).svc with
    | .drained | .retired =>
      (s.modCore core (fun k => { k with svc := .testing })).modFe (fun f => { f with tests := f.tests.filter (· != .core core) ++ [.core core] })
    | .inService | .draining | .testing => s)

/-- R372: CORRECTED_ERROR. -/
def execCorrectedError (u : HwUnit) (s : State) : Out := .next (s.testUnit u)

/-- R373: the unit number of an entry of type 4 or 5; the spec numbers no units (log 13). -/
def unitNumber : HwUnit → Nat
  | .bank c b => globalCore c * 32 + b
  | .core c => globalCore c
  | .slice n => n
  | .frame pa => pa / 65536
  | .channel n => n
  | .link p h => p * 2 + h

/-- R243: FRAME_TO_VACATE. -/
def State.vacateFrame (s : State) (f : Nat) : State :=
  if s.fe.vacate.contains f || s.fe.offline.contains f then s
  else
    let s := s.modFe (fun x => { x with vacate := x.vacate ++ [f] })
    let s := s.flog 7 0 { cause := BitVec.ofNat 64 (ownPa (f * 65536)) } []
    if s.fe.fsqEn then s.msix s.fe.fsqVec.toNat else s

/-- R322: half of a port down. -/
def Port.lose (p : Port) (half : Nat) : Port := if half = 0 then { p with lo := false } else { p with hi := false }

/-- R237, R242: the frames of a pseudo-channel. -/
def channelFrames (n : Nat) : List Nat := (List.range (hbmBytes / 65536)).filter (fun f => pseudoChan (f * 65536) == n)

/-- R371, R242: a unit retired on a failed self-test: a slice passes every access on to memory, and holds no release tag any more; every
frame of a pseudo-channel is to be vacated. -/
def State.retireUnit (s : State) (u : HwUnit) : State :=
  match u with
  | .bank c b => s.modCore c (fun k => if k.retiring.contains b then k else { k with retiring := k.retiring ++ [b] })
  | .core c => s.coreOut c
  | .slice n => { s with
      fe := { s.fe with sliceOff := if s.fe.sliceOff.contains n then s.fe.sliceOff else s.fe.sliceOff ++ [n] }
      relTags := s.relTags.filter (fun e => homeSlice (paOff (e.1 * 32)) != n) }
  | .frame pa => s.vacateFrame (paOff pa / 65536)
  | .channel n => (channelFrames n).foldl (fun s f => s.vacateFrame f) s
  | .link p h => { s with ports := smSet (fun _ => {}) s.ports p ((smGet (fun _ => {}) s.ports p).lose h) }

/-- R384: a core back in service, with its banks, handler table and codebook at their reset contents, in which nothing holds an error. -/
def Core.readmit (k : Core) : Core :=
  { k with svc := .inService, localMem := [], locPoison := [], cacheLines := [], handlers := [], codebook := [], fetchTimes := [] }

/-- R372, R384: SELF_TEST_RESULT of a unit under test; a core that passes has been drained, one that fails may be retired during its
drain. -/
def execSelfTestResult (u : HwUnit) (pass : Bool) (s : State) : Out :=
  .next (
    let ready : Bool := match u with | .core c => !pass || (s.coreOf c).svc == .testing | _ => true
    if !s.fe.tests.contains u || !ready then s
    else
      let s := s.modFe (fun f => { f with tests := f.tests.filter (· != u) })
      if pass then
        let s := s.flog 4 (unitNumber u) {} []
        match u with
        | .core c => s.modCore c Core.readmit
        | .bank _ _ | .slice _ | .frame _ | .link _ _ | .channel _ => s
      else (s.flog 5 (unitNumber u) {} []).retireUnit u)

/-! Frames (R242, R243). -/

/-- R242: every frame of a pseudo-channel is offline. -/
def State.chanGone (s : State) (ch : Nat) : Bool :=
  (s.fe.offline.filter (fun f => pseudoChan (f * 65536) == ch)).length == 24576

/-- R242, R281: a retired pseudo-channel: the indices that its lock manager serves start to move. -/
def State.retireChan (s : State) (ch : Nat) : State :=
  let s := s.modFe (fun f => { f with chRet := f.chRet ++ [ch] })
  (List.range 512).foldl (fun s i =>
    if (s.lmOf i).phys = ch then
      ({ s with lmmap := smSet (fun i => ⟨i, false⟩) s.lmmap i { s.lmOf i with moving := true } }).due (.lmmapMoveComplete i)
    else s) s

/-- R243: OFFLN_ACK. -/
def execOfflnAck (v : Word) (s : State) : Out :=
  .next (
    let pa := bits v.toNat 55 16 * 65536
    let f := paOff pa / 65536
    if paPkg pa ≠ Config.pkg ∨ s.fe.vacate.contains f = false then s
    else
      let s := s.modFe (fun x => { x with vacate := x.vacate.filter (· != f), offline := x.offline ++ [f] })
      let ch := pseudoChan (f * 65536)
      if s.chanGone ch && !s.fe.chRet.contains ch then s.retireChan ch else s)

/-! Links and channels (R322, R385). -/

/-- R322: FLIT_RECEIVE: a good flit ends its replays; a bad one is replayed, and after 8 failed replays the port retrains. -/
def portFlit (p : Port) (good : Bool) : Port :=
  if p.training then p
  else if good then { p with replays := 0 }
  else if p.replays < 8 then { p with replays := p.replays + 1 }
  else { p with replays := 0, training := true }

/-- R322: a link port. -/
def State.portOf (s : State) (port : Nat) : Port := smGet (fun _ => {}) s.ports port

/-- A link port changed. -/
def State.setPort (s : State) (port : Nat) (p : Port) : State := { s with ports := smSet (fun _ => {}) s.ports port p }

/-- R322: FLIT_RECEIVE: a bad flit is asked for again. -/
def execFlitReceive (port : Nat) (good : Bool) (s : State) : Out :=
  .next (
    let p := portFlit (s.portOf port) good
    let s := s.setPort port p
    if good || p.training then s else s.out (.replay port))

/-- R322, R386: PORT_RETRAIN: the end of a retraining: a half whose lanes fail goes down; what was not received is asked for again. At
reset links train behind the self-tests. -/
def execPortRetrain (port : Nat) (lo hi : Bool) (s : State) : Out :=
  .next (
    let p := s.portOf port
    if !p.training || (s.fe.booting && !s.fe.tests.isEmpty) then s
    else
      let s := s.setPort port { lo := p.lo && lo, hi := p.hi && hi }
      if ((p.lo && lo) || (p.hi && hi)) && !s.fe.booting then s.out (.replay port) else s)

/-- R385: PORT_RECALIBRATION changes no value and no order. -/
def execPortRecalibration (_port : Nat) (s : State) : Out := .next s

/-- R385: HBM_PHY_RETRAIN changes no value and no order. -/
def execHbmPhyRetrain (_chan : Nat) (_done : Bool) (s : State) : Out := .next s

/-! Power (R379 to R382). -/

/-- R381: 1 ms in units of 1/24 ns. -/
def msUnits : Nat := 24000000

/-- R381: a condition has held for a time. -/
def State.heldFor (s : State) (since : Option Nat) (units : Nat) : Bool :=
  match since with
  | some t => decide (t + units ≤ s.wall)
  | none => false

/-- R381: the conditions of one point lower, of one point higher, and of the stop. -/
def State.tooHot (s : State) : Bool := s.heldFor s.fe.hotSince msUnits
def State.coolLong (s : State) : Bool := decide (s.fe.maxPt < s.fe.pt) && s.heldFor s.fe.coolSince (100 * msUnits)
def State.mustStop (s : State) : Bool := s.fe.pt == 3 && decide (105 < s.fe.tmax.toNat)

/-- R386 steps 3 and 4: the self-tests and the training of the links have ended. -/
def State.bootReady (s : State) : Bool := s.fe.tests.isEmpty && s.ports.all (fun e => !e.2.training)

/-- R386 step 5: the point has risen: packets may start, and the sequencer opens round 1, unless the package joins a pod that runs. -/
def State.bootDone (s : State) : State :=
  let s := s.modFe (fun f => { f with booting := false })
  if s.seq.joining then s else s.openRound 1

/-- R380, R381, R382, R386: OPERATING_POINT_CHANGE: a point from MAXPT to P3; at the end of a package reset, MAXPT itself. -/
def execOperatingPointChange (pt : Nat) (s : State) : Out :=
  .next (
    if pt < s.fe.maxPt ∨ 3 < pt then s
    else if s.fe.booting then
      (if s.bootReady && pt == s.fe.maxPt then (s.modFe (fun f => { f with pt := pt })).bootDone else s)
    else s.modFe (fun f => { f with pt := pt }))

/-- R381: THERMAL_THROTTLE: one point lower, with THR set, for each 1 ms above a limit. -/
def execThermalThrottle (s : State) : Out :=
  .next (if !s.tooHot then s
    else s.modFe (fun f => { f with pt := Nat.min 3 (f.pt + 1), thr := true, hotSince := some s.wall }))

/-- R381: THERMAL_RAISE: one point higher, no higher than MAXPT, for each 100 ms below the limits. -/
def execThermalRaise (s : State) : Out :=
  .next (if s.coolLong then s.modFe (fun f => { f with pt := f.pt - 1, coolSince := some s.wall }) else s)

/-- R381: THERMAL_TRIP, above 105 °C at P3. -/
def execThermalTrip (s : State) : Out := .next (if s.mustStop then s.modFe (fun f => { f with trip := true }) else s)

/-! Reset (R386). -/

/-- R386 step 1: the package as its reset begins: the clocks at P3, no core tested, no link trained, no round open. -/
def State.boot : State :=
  { State.reset with
    cores := (List.range numCores).map (fun c => (c, { svc := .testing }))
    ports := (List.range 18).map (fun p => (p, { training := true }))
    seq := { roundOpen := false }
    fe := { pt := 3, booting := true, tests := (List.range numCores).map HwUnit.core } }

/-- R386: PACKAGE_RESET: it begins; SELF_TEST_RESULT, PORT_RETRAIN and OPERATING_POINT_CHANGE bring it to its end, as State.reset has it
(log 20). The memory of the package is zeroed; host memory and the memory of other packages stay. -/
def execPackageReset (pkg : Nat) (s : State) : Out :=
  .next (
    let hbm := s.hbm.filter (fun e => paPkg e.1 != pkg)
    let poison := s.poison.filter (fun e => paPkg (e.1 * 32) != pkg)
    if pkg = Config.pkg then
      { State.boot with
        hbm := hbm, poison := poison, hostMem := s.hostMem, choice := s.choice, serial := s.serial, relaxed := s.relaxed }
    else { s with hbm := hbm, poison := poison })

end Sys2Proof.Machine
end

