-- ==== Sys2Proof/Machine/Due.lean ====
section
/-! DEFINITION. The hardware events that a core clock makes due, area by area. An event whose condition does not hold when its
turn comes leaves the state as it is. -/
namespace Sys2Proof.Machine

/-- An event when its condition holds. -/
def dueIf (b : Bool) (i : Instr) : List Instr := if b then [i] else []

/-! Slots. -/

/-- R92 to R97: results that land in slot i of core c: in a running or draining slot with a failure or a value, in a stopped one with a
value. -/
def landEvents (c i : Nat) (x : Slot) : List Instr :=
  (x.sb ++ x.frec.saved).flatMap (fun e =>
    dueIf (e.value.isSome || (e.fail.isSome && (x.mode == .running || x.mode == .draining))) (match e.kind with
      | .pred => .predicateResolves c i e.id
      | .token => .tokenLands c i e.id
      | .load | .vload | .atomic | .arith | .mfsr => .scoreboardWriteLands c i e.id))

/-- R87, R223, R288: the waits of slot i of core c that may end. -/
def State.waitEvents (s : State) (c i : Nat) (x : Slot) : List Instr :=
  x.tests.flatMap (fun t => dueIf (t.lim.ule (s.cycle - t.t0)) (.chtstTimeout c i t.id)) ++
  (match x.wait with
   | .mem _ _ _ _ lim t0 poll _ _ =>
     dueIf (s.watches.any (fun w => w.core == c && w.slot == i && w.fired)) (.waitWake c i) ++
     dueIf (poll.ule s.cycle) (.waitPoll c i) ++ dueIf (lim != 0 && lim.ule (s.cycle - t0)) (.waitTimeout c i)
   | .clk lim t0 => dueIf (lim.ule (s.cycle - t0)) (.waitTimeout c i)
   | .tileGot _ _ a => dueIf (x.mode == .running) (.tileAnswer c i a)
   | .none | .bar _ _ | .mx | .future _ | .tile _ _ _ | .line _ | .home | .role | .lanes => [])

/-- R74, R75: the budget of slot i of core c is used up. -/
def budgetEvents (c i : Nat) (x : Slot) : List Instr :=
  dueIf (x.mode == .running && x.act.isSome && x.budget == 0) (.budgetTrap c i)

/-- R78: slot i of core c drains. -/
def drainEvents (c i : Nat) (x : Slot) : List Instr := dueIf (x.mode == .draining) (.drainComplete c i)

/-- R365: the fault of a slot or of an engine has had no answer for 100 ms. -/
def State.answerEvents (s : State) (c : Nat) (k : Core) : List Instr :=
  (List.range 4).flatMap (fun i =>
    dueIf ((k.slotOf i).mode == .faultService && decide (answerLimit ≤ s.wall - (k.slotOf i).frec.since)) (.faultAnswerTimeout c i .copy)) ++
  [Engine.copy, Engine.matrix].flatMap (fun e =>
    dueIf (match (k.eng e).fault with | some f => f.raised == 2 && decide (answerLimit ≤ s.wall - f.since) | none => false)
      (.faultAnswerTimeout c 4 e))

/-! Cores. -/

/-- R172, R180, R190: an engine starts its head command, completes it, or raises its fault. -/
def engineEvents (c : Nat) (k : Core) : List Instr :=
  [Engine.matrix, Engine.copy].flatMap (fun e =>
    let q := k.eng e
    match q.q with
    | [] => []
    | h :: _ =>
      if q.running.isSome then [.commandCompletion c e]
      else match q.fault with
        | some f => dueIf (e == .matrix && f.raised != 2) (.mxldvRowFault c)
        | none => dueIf h.guard.isNone (match e with | .matrix => .matrixCommandStart c | .copy => .copyCommandStart c))

/-- R60, R65, R209, R210: the porter, the inbox and the starts of a core. -/
def State.inboxEvents (s : State) (c : Nat) (k : Core) : List Instr :=
  (List.range 8).flatMap (fun q =>
    let x := k.queueOf q
    dueIf (match k.agentPort.find? (fun m => m.queue == q) with | some m => x.fits m | none => false) (.agentPortPlacement c q) ++
    dueIf (x.spill && decide (0 < x.heapCount) && !x.replaying && decide (x.used < x.size * 128)) (.heapReplay c q) ++
    dueIf (x.replaying && !k.replayQueued q) (.heapReplayResume c q)) ++
  dueIf (!k.agentWait.isEmpty && decide (k.agentPort.length < 256)) (.agentPortRetry c) ++
  dueIf ((!k.work.isEmpty || k.serving.isSome) && (k.slotOf 4).mode == .free) (.porterActivation c) ++
  (match s.nextStart c with | some (i, q) => [.activationStart c i q] | none => [])

/-- R164: a BANK_ROLE write whose engine commands have completed. -/
def roleEvents (c : Nat) (k : Core) : List Instr :=
  match k.rolePend with
  | some (v, ord, i) => dueIf (!k.roleDrains ord) (.bankRole c i v)
  | none => []

/-- The events of one core, in the order that R75 asks for: waits that end, then budgets. -/
def State.coreEvents (s : State) (c : Nat) (k : Core) : List Instr :=
  let each := fun (f : Nat → Slot → List Instr) => (List.range 5).flatMap (fun i => f i (k.slotOf i))
  engineEvents c k ++ each (landEvents c) ++ each (s.waitEvents c) ++ each (budgetEvents c) ++ each (drainEvents c) ++
  s.inboxEvents c k ++ s.answerEvents c k ++ roleEvents c k ++ dueIf (s.drainReady c) (.coreDrainComplete c)

/-! The package. -/

/-- R281 to R308: the sequencer and the lock managers. -/
def State.seqEvents (s : State) : List Instr :=
  s.commits.flatMap (fun c => dueIf (numPkg c.num == Config.pkg || c.data.isSome) (.homeReceipt c.num c.handle (.data (c.data.getD [])))) ++
  s.pend.flatMap (fun p => dueIf (s.grantReady p.req || s.pushesAgain p.req) (.tenureGrant p.req none)) ++
  s.txns.flatMap (fun (e : Nat × Option Txn) => match e.2 with
    | none => []
    | some t =>
      (parseTxn t.sub.desc).tiles.flatMap (fun x =>
        dueIf (handlePkg x.handle == Config.pkg && s.repushes ⟨e.1, x.handle, x.w⟩ &&
          (s.stale x.handle || s.pushable ⟨e.1, x.handle, x.w⟩)) (.tenureGrant ⟨e.1, x.handle, x.w⟩ none)) ++
      dueIf (s.dispatchReady e.1 t) (.dispatch e.1)) ++
  ((s.seq.returned.filter (fun p => handlePkg p.req.handle == Config.pkg) ++
    s.lmBack.filter (fun p => numPkg p.req.num != Config.pkg && !p.told)).map (fun p => s.physOf p.req.handle)).dedup.flatMap (fun i =>
    dueIf (decide ((s.pendAt i).length < 4096)) (.tenureRequestResend ⟨Config.pkg, i⟩)) ++
  (s.lmmap.filter (fun e => e.2.moving)).map (fun e => .lmmapMoveComplete e.1) ++
  dueIf (!s.toPlace.isEmpty || !s.seq.intake.isEmpty) .reservationAndNumbering ++ dueIf s.closable .roundClose

/-- R340 to R350: one host queue. -/
def queueEvents (q : Nat) (h : HQueue) : List Instr :=
  (h.started.flatMap (fun p =>
    dueIf (pktType p.bytes == 5 && p.pending == 1) (.waitsigReread q p.id) ++
    dueIf (p.pending == 0 && p.whole) (.packetCompletion q p.id true))) ++
  dueIf h.resuming (.qctlResume q) ++ dueIf h.enabling (.qctlEnable q) ++
  dueIf (h.disabling && h.started.isEmpty) (.queueDisableComplete q) ++
  (if !h.going then []
   else if h.stalled then [.packetReread q]
   else match h.nextAt with
     | none => []
     | some va =>
       match h.preOf va with
       | none => [.packetRead q]
       | some bs => [if h.unread va then .packetRead q else typeEvent q (if h.isCancelled then 0 else pktType bs)])

/-- R353: the first core that steals a task; a core that has stolen takes what it has before the next one steals. -/
def State.stealEvents (s : State) : List Instr :=
  if s.cores.all (fun e => (topVisible e.2.tasks).isNone) then []
  else match (List.range numCores).find? (fun c => (s.stealFrom c).isSome) with
    | some c => [.taskSteal c]
    | none => []

/-- R67, R88, R353, R354: gangs and tasks. -/
def State.workEvents (s : State) : List Instr :=
  dueIf s.placingGang.isSome .gangSlotReservation ++
  s.gangs.flatMap (fun (e : Nat × Option Gang) => match e.2 with | some g => dueIf (!g.bars.isEmpty) (.barrierInheritance e.1) | none => []) ++
  s.cores.flatMap (fun (e : Nat × Core) => dueIf (s.takeable e.1).isSome (.taskTake e.1)) ++ s.stealEvents ++
  s.launches.map (fun (e : Nat × Option Launch) => .terminationSweep e.1)

/-- The events due at a core clock. -/
def State.dueEvents (s : State) : List Instr :=
  s.cores.flatMap (fun (e : Nat × Core) => s.coreEvents e.1 e.2) ++
  s.clusterBuf.map (fun (e : Nat × List BufStore) => .homeAccess (.leave e.1 none)) ++
  s.det.closing.map (fun r => .detUpdateArrival (.close r)) ++ dueIf (!s.inv.isEmpty) .invalidationCompletion ++
  s.seqEvents ++ (if s.fe.booting then [] else s.hqueues.flatMap (fun (e : Nat × HQueue) => queueEvents e.1 e.2)) ++ s.workEvents

/-- R381: since when a condition has held without a break. -/
def since (now : Nat) (holds : Bool) (old : Option Nat) : Option Nat := if holds then old <|> some now else none

/-- R381, R382: PWR_STAT.WATTS and TMAX read what the sensors measure, which the spec does not give: free values (log 6). The firmware
holds them to the limits of R381 and to PWR_CTL.CAP. -/
def State.sense (s : State) : State :=
  let v := Config.freeVec s.choice
  let watts : BitVec 32 := v.setWidth 32
  let tmax : BitVec 8 := (v >>> 32).setWidth 8
  let f := s.fe
  { s with
    fe := { f with
      watts := watts, tmax := tmax
      hotSince := since s.wall (decide (95 < tmax.toNat) || decide (f.cap < watts.toNat)) f.hotSince
      coolSince := since s.wall (decide (tmax.toNat < 88) && decide (100 * watts.toNat < 95 * f.cap)) f.coolSince }
    choice := s.choice + 1 }

/-- R381, R382, R386: what the limits of temperature and power, a lower MAXPT or the end of a package reset make due. -/
def State.powerEvents (s : State) : List Instr :=
  if s.fe.booting then dueIf s.bootReady (.operatingPointChange s.fe.maxPt)
  else dueIf (decide (s.fe.pt < s.fe.maxPt)) (.operatingPointChange s.fe.maxPt) ++ dueIf s.mustStop .thermalTrip ++
    dueIf s.tooHot .thermalThrottle ++ dueIf s.coolLong .thermalRaise

/-- R112: a core clock passes and the events it makes due are put on the agenda. The sensors are read behind what they made due. -/
def State.tick (s : State) : State :=
  let s := s.clock
  let power := s.powerEvents
  let s := s.sense
  { s with agenda := s.agenda ++ s.dueEvents ++ power }

end Sys2Proof.Machine
end

