-- ==== Sys2Proof/Machine/Atomic.lean ====
section
/-! DEFINITION. Meanings: atomics (R258 to R262), futures (R263 to R265), FENCE (R266), deterministic rounds (R267 to R270). -/
namespace Sys2Proof.Machine

/-! Atomics. -/

/-- The old value of an atomic goes to D: at once, or when its home answers. -/
def atomTo (t : Ty) (d : Sreg) (m : AMode) (a : Word) (o : Order) : AtomOut → State
  | .done s old _ f => ((s.landWith .atomic .scalar d.val a (vecW (widen t old)) f).acquire s.cur.1 (acqScope o)).issued m none
  | .later s =>
    let (x, id) := s.me.track .atomic .scalar d.val a false none
    (s.modMe (fun _ => x)).issued m (if o.acq then some id else none)

/-- The answer of an atomic that writes D with the next entry of its slot: with D = 0 it returns no value. -/
def State.atomReply (s : State) (d : Sreg) (t : Ty) (o : Order) : Reply :=
  if d = 0 then .slot none (some s.me.sbNext) t (acqScope o) else .slot (some s.me.sbNext) none t (acqScope o)

/-- R259: AMO. -/
def execAmo (g : Guard) (op : AmoOp) (t : Ty) (d : Sreg) (m : AMode) (c : Sreg) (sp : Space) (o : Order) (s : State) : Out :=
  guarded g (fun s =>
    let n := tyBytes t
    let a := s.me.addr n m
    let v := (s.me.s c).toNat % 2 ^ t.width
    s.withRelease (relScope o) false (fun s =>
      match s.atomicMe sp a n (d != 0) (relScope o) (.amo op t v) (s.atomReply d t o) with
      | .error f => s.takeAcc f
      | .ok r => atomTo t d m a o r)) s

/-- R260: AMOCAS; a comparison that fails is no release. -/
def execAmocas (g : Guard) (t : Ty) (p : Fin 8) (m : AMode) (b c : Sreg) (sp : Space) (o : Order) (s : State) : Out :=
  guarded g (fun s =>
    let n := tyBytes t
    let a := s.me.addr n m
    let want := (s.me.s b).toNat % 2 ^ t.width
    let new := (s.me.s c).toNat % 2 ^ t.width
    let go := fun (s : State) => s.atomicMe sp a n true (relScope o) (.cas t want new)
      (.slot (some (s.me.sbNext + 1)) (some s.me.sbNext) t (acqScope o))
    let writes := fun (s : State) => match go s with | .ok (.done _ _ w _) => some w | .ok (.later _) => none | .error _ => some false
    s.releaseIf o writes (fun s =>
      match go s with
      | .error f => s.takeAcc f
      | .ok (.done s old w _) => atomTo t b m a o (.done (s.land .pred .pred p.val a (vecB w)) old w 0)
      | .ok (.later s) =>
        let (x, _) := s.me.track .pred .pred p.val a false none
        atomTo t b m a o (.later (s.modMe (fun _ => x))))) s

/-! Deterministic rounds. -/

/-- R269: the update a spill record holds, by the key of the record. -/
def State.readRecord (s : State) (at' : Nat) : DetUpdate where
  pa := s.rdKey at' 8 % 2 ^ 56
  round := s.rdKey (at' + 8) 4
  issuer := s.rdKey (at' + 16) 4 % 2 ^ 28
  seq := s.rdKey (at' + 20) 4
  op := match s.rdKey (at' + 16) 4 / 2 ^ 28 with | 0 => .add | 1 => .min | _ => .max
  value := BitVec.ofNat 32 (s.rdKey (at' + 12) 4)
  area := none

/-- R267: updates in the order of a close. -/
def detBefore (x y : DetUpdate) : Bool := decide (x.issuer < y.issuer) || (decide (x.issuer = y.issuer) && decide (x.seq < y.seq))

/-- R270: an update put in its place. -/
def detInsert (u : DetUpdate) : List DetUpdate → List DetUpdate
  | [] => [u]
  | v :: t => if detBefore u v then u :: v :: t else v :: detInsert u t

/-- R270: updates sorted by issuer and sequence. -/
def detSort (l : List DetUpdate) : List DetUpdate := l.foldl (fun a u => detInsert u a) []

/-- R241: 32 bytes of a spill area that cannot be read. -/
def State.keyBad (s : State) (key : Nat) : Bool := decide (key < 2 ^ 56) && s.unreadable key 32

/-- R270: the keys of the records in the areas read at a close, with the slice that reads each. -/
def State.recordKeys (s : State) (round : Nat) : List (Nat × Nat) :=
  (s.det.areas.filter (fun x => x.2.1 == round)).flatMap (fun x =>
    if s.keyBad x.2.2.1 then []
    else
      let n := Nat.min (s.rdKey x.2.2.1 8) ((2 ^ x.2.2.2 - 32) / 32)
      (List.range n).map (fun k => (x.1, x.2.2.1 + 32 + 32 * k)))

/-- R270: the records of a round in the areas read at a close; one in an unreadable atom is lost. -/
def State.detRecords (s : State) (round : Nat) : List DetUpdate :=
  (s.recordKeys round).filterMap (fun k =>
    if s.keyBad k.2 then none
    else
      let u := s.readRecord k.2
      if u.round == round && homeSlice (paOff u.pa) == k.1 && paPkg u.pa == Config.pkg then some u else none)

/-- R270: the updates of a round at this package's slices, in the order of its close. -/
def State.detUpdates (s : State) (round : Nat) : List DetUpdate :=
  detSort (((s.det.baskets.filter (fun b => b.round == round)).flatMap (·.ups)) ++ s.detRecords round)

/-- R270, R286: the close waits: an update of the round is still on its way here or to the spill area, or an element is under tenure. -/
def State.detBlocked (s : State) (round : Nat) : Bool :=
  s.heldStores.any (fun h => match h.act with | .det _ u => u.round == round && paPkg u.pa == Config.pkg | _ => false) ||
  (s.detUpdates round).any (fun u => !detOnHost u && s.homeFate u.pa == .hold)

/-- R270, R337: the first line of an element of the round that the host holds, for an access by core c. -/
def State.detLine (s : State) (c round : Nat) : Option Nat :=
  if s.hostHeld.isEmpty then none
  else (s.detUpdates round).findSome? (fun u => if detOnHost u then none else s.hostLine c u.pa 4 true)

/-- R270: the round closed at every slice of this package: the state, the flags of the sums, and the status. -/
def State.detClose (s : State) (round : Nat) (pod : Bool) : State × Flags × Nat :=
  let bad := s.det.areas.any (fun x => x.2.1 == round && s.keyBad x.2.2.1) || (s.recordKeys round).any (fun k => s.keyBad k.2)
  let (s, f) := (s.detUpdates round).foldl (fun (a : State × Flags) u => let r := a.1.detApply u; (r.1, a.2 ||| r.2)) (s, (0 : Flags))
  let d := s.det
  let lost := d.lost.any (fun x => x.2 == round)
  let err := bad || d.errs.any (fun x => x.2 == round)
  let late := if pod then d.latePod else d.latePk
  let d := { d with
    baskets := d.baskets.filter (fun b => b.round != round)
    spilled := d.spilled.filter (fun x => x.round != round)
    areas := d.areas.filter (fun x => x.2.1 != round)
    lost := d.lost.filter (fun x => x.2 != round)
    errs := d.errs.filter (fun x => x.2 != round)
    latePk := d.latePk && pod
    latePod := d.latePod && !pod
    closed := (round :: d.closed.filter (· != round)).take 8 }
  ({ s with det := d }, f, lost.toNat + 2 * late.toNat + 4 * err.toNat)

/-- R267: the key of the spill area of the issuing slot, translated with W, and its size. -/
def State.detArea (s : State) : Except AccFault (Option (Nat × Nat)) :=
  let lg := s.me.detSpill.toNat % 32
  if lg = 0 then .ok none
  else
    match s.translate s.cur.1 s.me.asid.toNat (s.me.detSpill &&& 0xFFFFFFFFFFFF0000#64) .write with
    | .error e => .error e
    | .ok p => .ok (some (if p.host then 2 ^ 56 + p.pa else p.pa, lg))

/-- R261, R267: one .det update of the issuing slot sent to its home, after the stores to its atom that are on their way (R247). One that
another package has to accept is held until it has. On a page of host memory the slice of its address takes it (R238); the device
register window ignores it, as every access that R227 does not name. -/
def State.detSend (s : State) (op : FOp) (a : Word) (rel : Scope) (c : BitVec 32) (lane : Nat) : Except AccFault State :=
  if !aligned a 4 then .error (.abort 0x07 a)
  else if s.strongWaits a 4 .atomic then .error .busy
  else
    match s.translate s.cur.1 s.me.asid.toNat a .atomic with
    | .error e => .error e
    | .ok p =>
      if !p.det then .error (.abort 0x07 a)
      else
        match s.detArea with
        | .error e => .error e
        | .ok area =>
          match (if p.host || p.window then none else s.hostLine s.cur.1 p.pa 4 true) with
          | some l => .error (.line l true)
          | none =>
            let seq := (s.myAct.map (·.detSeq)).getD 0
            let key := if p.host then 2 ^ 56 + p.pa else p.pa
            let u : DetUpdate := ⟨key, s.me.detRound.toNat, globalCore s.cur.1 * 64 + lane, seq, op, c, area⟩
            let w := { s.who a rel with num := s.order, loose := p.ord == 2, strong := p.ord == 0 }
            let s := { s.modMyAct (fun x => { x with detSeq := x.detSeq + 1 }) with order := s.order + 1 }
            let s := s.walkDues s.cur.1 s.me.asid.toNat [a]
            let s := (if s.relaxed && !p.host && !p.window then s.flushAtom s.cur.1 (p.pa / 32) else s).cacheDrop s.cur.1 [(p.pa, 0)]
            .ok (if p.host then s.detArrive w u
              else if p.window then s
              else if paPkg p.pa = Config.pkg then s.detArrive w u
              else if s.pkgDown (paPkg p.pa) then s.storeFailed w 0x0A
              else (s.holdAct ⟨.det p.pa u, w, .none⟩).out (.detUpdate (paPkg p.pa) u))

/-- R261: AMOF. -/
def execAmof (g : Guard) (op : FOp) (det : Bool) (d : Sreg) (m : AMode) (c : Sreg) (o : Order) (s : State) : Out :=
  guarded g (fun s =>
    let a := s.me.addr 4 m
    let v := (s.me.s c).toNat % 2 ^ 32
    s.withRelease (relScope o) false (fun s =>
      if det then
        match s.detSend op a (relScope o) (BitVec.ofNat 32 v) 0 with
        | .error f => s.takeAcc f
        | .ok s => (s.acquireOrd o .glob 4 [a]).issued m none
      else
        match s.atomicMe .glob a 4 (d != 0) (relScope o) (.amof op v) (s.atomReply d .n32 o) with
        | .error f => s.takeAcc f
        | .ok r => atomTo .n32 d m a o r)) s

/-- R262: one lane of VAMOF. -/
def vamofLane (det : Bool) (o : Order) (at' : Nat → Word) (data : Vec) (s : State) (i : Nat) : Except AccFault (Nat × State) :=
  let v := laneOf 32 data i
  if det then (s.detSend .add (at' i) (relScope o) (BitVec.ofNat 32 v) i).map (fun s => (0, s))
  else (s.atomicMe .glob (at' i) 4 false (relScope o) (.amof .add v) (.slot none none .n32 (acqScope o))).map (fun r =>
    match r with
    | .done s _ _ f => (0, s.orFlags f)
    | .later s => (0, s))

/-- R262: VAMOF: one AMOF .add per active lane, in increasing order. An acquire among them waits for the lanes that are held. -/
def execVamof (g : Guard) (det : Bool) (it : Ty) (m : AMode) (b c : VSrc) (msk : Fin 8) (o : Order) (s : State) : Out :=
  guarded g (fun s => s.withRelease (relScope o) false (fun s => s.withVecs [] [b, c] (fun s vs ps =>
    let a := s.me.addr 4 m
    let at' := fun (i : Nat) => a + indexLane it (vs.getD 0 0) i * 4
    let mask := s.me.m msk
    (s.laneAccess 32 16 mask (vamofLane det o at' (vs.getD 1 0))).finish ps (fun s _ =>
      let as := ((List.range 16).filter (fun i => mask.getLsbD i)).map at'
      let s := (if det then s.acquireOrd o .glob 4 as else s.acquire s.cur.1 (acqScope o)).issued m none
      if s.lanesHeld then { s.modMe (fun x => { x with wait := .lanes }) with pairNext := none } else s)))) s

/-- R267, R268, R270: an update from another package reaches its home slice, or the close of a round does; a close waits for the
slices' spill writes, for tenure and for lines that the host holds (R337). -/
def execDetUpdateArrival (u : DetArrival) (s : State) : Out :=
  .next (match u with
    | .update u => s.detArrive { detWho u with num := s.order } u
    | .close round =>
      let rest := s.det.closing.filter (· != round)
      let later := { s with det := { s.det with closing := rest ++ [round] } }
      if s.detBlocked round then later
      else match s.detLine agentCore round with
      | some l => later.askHost l true
      | none =>
        let (s, f, st) := { s with det := { s.det with closing := rest } }.detClose round true
        s.out (.detClosed round st f.toNat))

/-- R270: DRCLOSE. At pod scope what the other packages' slices report is not known here: those status and flag bits are free
(log 6). -/
def execDrclose (g : Guard) (d a : Sreg) (scope : Scope) (s : State) : Out :=
  guarded g (fun s =>
    let round := (s.me.s a).toNat % 2 ^ 32
    let pod := scope == .pod
    if s.detBlocked round then s.waitHome
    else match s.detLine s.cur.1 round with
    | some l => s.takeAcc (.line l true)
    | none =>
      let (s, f, st) := s.detClose round pod
      let far := pod && s.otherMember
      let (s, n) := s.fresh
      let st := if far then st ||| (Config.freeVec n).toNat % 8 else st
      let f := if far then f ||| (Config.freeVec n).extractLsb' 8 10 &&& 0x1F else f
      let s := if far then s.out (.detClose round) else s
      ((s.acquire s.cur.1 scope).landWith .arith .scalar d.val 0 (vecOf st) (f ||| flagIf (decide (st % 4 ≠ 0)) fDETLOST)).complete) s

/-! Futures. -/

/-- R263, R264: the key of the cell at an address, with the faults of the access; in the device register window it takes none (R227). -/
def State.cellAt (s : State) (a : Word) (want : Want) : Except AccFault Nat :=
  if !aligned a 16 then .error (.abort 0x07 a)
  else if s.strongWaits a 16 want then .error .busy
  else
    match s.translate s.cur.1 s.me.asid.toNat a want with
    | .error e => .error e
    | .ok p =>
      if p.window then .ok p.pa
      else if p.host then .ok (2 ^ 56 + p.pa)
      else if s.pkgDown (paPkg p.pa) || s.unreadable p.pa 16 then .error (.abort 0x09 a)
      else match s.hostLine s.cur.1 p.pa 16 true with
        | some l => .error (.line l true)
        | none => if want.writes && s.sliceFull p.pa then .error .busy else .ok p.pa

/-- R227: the key of a cell in the device register window, where an access of 16 bytes reads zero and is ignored: an empty cell that
holds no request and takes no value. LDF and LDFT have false there, STF true (DESIGN CHOICE, log 61). -/
def windowKey (key : Nat) : Bool := decide (key < 2 ^ 56) && decide (windowBase ≤ paOff key)

/-- R239, R247: a future access is performed at the home: buffered stores to its atom go before it, the core's copy of the line
goes. -/
def State.atHome (s : State) (key : Nat) : State :=
  if 2 ^ 56 ≤ key then s
  else (if s.relaxed then s.flushAtom s.cur.1 (key / 32) else s).cacheDrop s.cur.1 [(key, 0)]

/-- R263, R257: an access to a cell reads it as it arrives: it is not held under tenure. -/
def State.cellNow (s : State) (key : Nat) : Bool := decide (2 ^ 56 ≤ key) || s.homeFate key != .hold

/-- R248: the issuing slot as the writer of a cell. -/
def State.cellWho (s : State) (a : Word) (rel : Scope) : Who :=
  let ord := match s.translate s.cur.1 s.me.asid.toNat a .read with | .ok p => p.ord | .error _ => 1
  { s.who a rel with num := s.order, loose := ord == 2, strong := ord == 0 }

/-- R264: LDF and LDFT: the entries of value and predicate are taken, and the cell answers at once, or its home does later. -/
def State.loadFuture (s : State) (d : Sreg) (p : Fin 8) (m : AMode) (o : Order) (take : Bool) : State :=
  let a := s.me.addr 8 m
  match s.cellAt a (if take then .atomic else .read) with
  | .error f => s.takeAcc f
  | .ok key =>
    let s := (s.atHome key).walkDues s.cur.1 s.me.asid.toNat [a]
    let st := s.rdKey (key + 8) 8
    if (!take || s.cellNow key) && decide (1 < st) then s.abortMe ⟨0x07, a, 0, 0⟩
    else
      let (x, i) := s.me.track .atomic .scalar d.val a false none
      let (x, j) := x.track .pred .pred p.val a false none
      let w := s.cellWho a .none
      let s := { s.modMe (fun _ => x) with order := s.order + 1 }
      let r : Deferred := ⟨w.core, w.slot, w.serial, i, j, key, take, acqScope o, w.asid, a, none⟩
      let s := if windowKey key then s.tell w (.slot (some i) (some j) .n64 .none) 0 false 0
        else if take then s.futureAct ⟨.take key, w, .slot (some i) (some j) .n64 (acqScope o)⟩
        else if st = 1 then s.answerOne r (s.rdKey key 8) else s.deferCell r
      s.issued m (if s.me.sb.any (fun e => e.id == i && e.value.isNone && e.fail.isNone) then some i else none)

/-- R264: LDF. -/
def execLdf (g : Guard) (d : Sreg) (p : Fin 8) (m : AMode) (o : Order) (s : State) : Out :=
  guarded g (fun s => s.loadFuture d p m o false) s

/-- R264: LDFT. -/
def execLdft (g : Guard) (d : Sreg) (p : Fin 8) (m : AMode) (o : Order) (s : State) : Out :=
  guarded g (fun s => s.loadFuture d p m o true) s

/-- R265: STF; one that finds the cell full writes nothing and is no release. -/
def execStf (g : Guard) (p : Fin 8) (m : AMode) (c : Sreg) (o : Order) (s : State) : Out :=
  guarded g (fun s =>
    let a := s.me.addr 8 m
    match s.cellAt a .atomic with
    | .error f => s.takeAcc f
    | .ok key =>
      let state := fun (s : State) => (s.atHome key).rdKey (key + 8) 8
      let now := fun (s : State) => (s.atHome key).cellNow key
      if now s && decide (1 < state s) then (s.atHome key).abortMe ⟨0x07, a, 0, 0⟩
      else s.releaseIf o (fun s => if now s then some (state s == 0) else none) (fun s =>
        let s := (s.atHome key).walkDues s.cur.1 s.me.asid.toNat [a]
        let w := s.cellWho a (relScope o)
        let (x, id) := s.me.track .pred .pred p.val a false none
        let s := { s.modMe (fun _ => x) with order := s.order + 1 }
        let r : Reply := .slot none (some id) .n64 .none
        (if windowKey key then s.tell w r 0 true 0
          else s.futureAct ⟨.fill key (s.me.s c).toNat, w, r⟩).issued m none)) s

/-! FENCE. -/

/-- R266, R177: FENCE: the release, the copy and ring errors of R95, and at cluster scope or wider the acquire. -/
def execFence (g : Guard) (scope : Scope) (s : State) : Out :=
  guarded g (fun s => s.withRelease scope true (fun s =>
    match s.cmdError (fun u => u == 1 || u == 2) with
    | some e => s.abortCmd e
    | none => (s.acquire s.cur.1 scope).complete)) s

end Sys2Proof.Machine
end

