-- ==== Sys2Proof/Machine/LoadStore.lean ====
section
/-! DEFINITION. Meanings: loads and stores (R169 to R171). -/
namespace Sys2Proof.Machine

/-- R170: LD. -/
def execLd (g : Guard) (t : Ty) (d : Sreg) (m : AMode) (sp : Space) (o : Order) (s : State) : Out :=
  guarded g (fun s =>
    let n := tyBytes t
    let a := s.me.addr n m
    match s.readMem sp a n with
    | .error f => s.takeAcc f
    | .ok bs =>
      let s := (s.touch sp a n).acquireOrd o sp n [a]
      let s := s.land .load .scalar d.val a (vecW (widen t (wordOfBytes bs)))
      (s.modMe (fun x => x.bump m)).complete) s

/-- R170: ST. -/
def execSt (g : Guard) (t : Ty) (m : AMode) (c : Sreg) (sp : Space) (o : Order) (s : State) : Out :=
  guarded g (fun s =>
    let n := tyBytes t
    let a := s.me.addr n m
    s.withRelease (relScope o) false (fun s =>
      match s.writeMem sp a (relScope o) (bytesOf n (s.me.s c).toNat) with
      | .error f => s.takeAcc f
      | .ok s => (s.modMe (fun x => x.bump m)).complete)) s

/-- R171: the mould of a vector load over the address of each lane. -/
def State.vectorLoad (s : State) (t : Ty) (d : Vreg) (m : AMode) (z : MaskZ) (sp : Space) (o : Order) (popped : List Vec)
    (at' : Nat → Word) : State :=
  let n := tyBytes t
  let mask := s.me.m z.msk
  (s.laneAccess t.width t.lanes mask (loadLane sp n at')).finish popped (fun s vals =>
    let s := s.acquireOrd o sp n (((List.range t.lanes).filter (fun i => mask.getLsbD i)).map at')
    let r := mergeLanes t.width t.lanes mask z.zro (s.me.v d) (fun i => (laneOf t.width vals i, 0))
    let s := s.land .vload .vector d.val (at' 0) r.1
    (s.modMe (fun x => x.bump m)).complete)

/-- R171: the end of a vector store whose lanes have run. -/
def LaneRun.stored (r : LaneRun) (m : AMode) (popped : List Vec) : State :=
  r.finish popped (fun s _ => (s.modMe (fun x => x.bump m)).complete)

/-- R171: the mould of a vector store over the address of each lane. -/
def State.vectorStore (s : State) (t : Ty) (m : AMode) (data : Vec) (k : Fin 8) (sp : Space) (o : Order) (popped : List Vec)
    (at' : Nat → Word) : State :=
  (s.laneAccess t.width t.lanes (s.me.m k) (storeLane sp (relScope o) (tyBytes t) at' data)).stored m popped

/-- R96, R108, R249: the mould of a vector instruction with a release: the guard, the release, the leases and the sources. -/
def vecRelOp (g : Guard) (o : Order) (srcs : List VSrc) (f : State → List Vec → List Vec → State) (s : State) : Out :=
  guarded g (fun s => s.withRelease (relScope o) false (fun s => s.withVecs [] srcs f)) s

/-- R171: lane addresses of VLD and VST, of VLDS and VSTS, of VGTH and VSCT. -/
def unitLanes (a : Word) (n i : Nat) : Word := a + BitVec.ofNat 64 (i * n)
def strideLanes (a st : Word) (i : Nat) : Word := a + BitVec.ofNat 64 i * st
def indexLanes (a : Word) (n : Nat) (it : Ty) (v : Vec) (i : Nat) : Word := a + indexLane it v i * BitVec.ofNat 64 n

/-- R171: VLD. -/
def execVld (g : Guard) (t : Ty) (d : Vreg) (m : AMode) (z : MaskZ) (sp : Space) (o : Order) (s : State) : Out :=
  vecOp g [d.val] [] (fun s _ ps => let a := s.me.addr (tyBytes t) m
    s.vectorLoad t d m z sp o ps (unitLanes a (tyBytes t))) s

/-- R171: VST; a store of a 64-byte aligned address is a single access to each of its atoms. -/
def execVst (g : Guard) (t : Ty) (m : AMode) (c : VSrc) (msk : Fin 8) (sp : Space) (o : Order) (s : State) : Out :=
  vecRelOp g o [c] (fun s vs ps => let a := s.me.addr (tyBytes t) m
    if sp = .glob ∧ a.toNat % 64 = 0 then
      (s.alignedStore (relScope o) (tyBytes t) t.lanes a (vs.getD 0 0) (s.me.m msk)).stored m ps
    else s.vectorStore t m (vs.getD 0 0) msk sp o ps (unitLanes a (tyBytes t))) s

/-- R171: VLDS. -/
def execVlds (g : Guard) (t : Ty) (d : Vreg) (m : AMode) (b : Sreg) (z : MaskZ) (sp : Space) (o : Order) (s : State) : Out :=
  vecOp g [d.val] [] (fun s _ ps => let a := s.me.addr (tyBytes t) m
    s.vectorLoad t d m z sp o ps (strideLanes a (s.me.s b))) s

/-- R171: VSTS. -/
def execVsts (g : Guard) (t : Ty) (m : AMode) (b : Sreg) (c : VSrc) (msk : Fin 8) (sp : Space) (o : Order) (s : State) : Out :=
  vecRelOp g o [c] (fun s vs ps => let a := s.me.addr (tyBytes t) m
    s.vectorStore t m (vs.getD 0 0) msk sp o ps (strideLanes a (s.me.s b))) s

/-- R171: VGTH. -/
def execVgth (g : Guard) (t it : Ty) (d : Vreg) (m : AMode) (b : VSrc) (z : MaskZ) (sp : Space) (o : Order) (s : State) : Out :=
  vecOp g [d.val] [b] (fun s vs ps => let a := s.me.addr (tyBytes t) m
    s.vectorLoad t d m z sp o ps (indexLanes a (tyBytes t) it (vs.getD 0 0))) s

/-- R171: VSCT. -/
def execVsct (g : Guard) (t it : Ty) (m : AMode) (b c : VSrc) (msk : Fin 8) (sp : Space) (o : Order) (s : State) : Out :=
  vecRelOp g o [b, c] (fun s vs ps => let a := s.me.addr (tyBytes t) m
    s.vectorStore t m (vs.getD 1 0) msk sp o ps (indexLanes a (tyBytes t) it (vs.getD 0 0))) s

end Sys2Proof.Machine
end

