-- ==== Sys2Proof/Machine/Scalar.lean ====
section
/-! DEFINITION. Meanings: scalar integers (R98, R99), compares and predicates (R100 to R103), pointers (R105 to R107), masks
(R109). -/
namespace Sys2Proof.Machine

/-! Scalar functions (R98). -/

/-- R98: DivS. -/
def divS (a b : Word) : Word :=
  if b = 0 then BitVec.allOnes 64 else BitVec.ofInt 64 (a.toInt.tdiv b.toInt)

/-- R98: RemS. -/
def remS (a b : Word) : Word := if b = 0 then a else BitVec.ofInt 64 (a.toInt - b.toInt * a.toInt.tdiv b.toInt)

/-- R98: DIVU. -/
def divU (a b : Word) : Word := if b = 0 then BitVec.allOnes 64 else a.udiv b

/-- R98: REMU. -/
def remU (a b : Word) : Word := if b = 0 then a else a.umod b

/-- R98: MULH. -/
def mulhS (a b : Word) : Word := BitVec.ofInt 64 (a.toInt * b.toInt / 2 ^ 64)

/-- R98: MULHU. -/
def mulhU (a b : Word) : Word := BitVec.ofNat 64 (a.toNat * b.toNat / 2 ^ 64)

/-- R99: the shift count: bits [5:0]. -/
def shiftN (b : Word) : Nat := b.toNat % 64

/-- R98: a rotated left. -/
def rotl (a b : Word) : Word := a.rotateLeft (shiftN b)

/-- R98: the number of leading zero bits. -/
def clzW (a : Word) : Word := if a = 0 then 64 else BitVec.ofNat 64 (63 - a.toNat.log2)

/-- R98: the number of trailing zero bits. -/
def ctzW (a : Word) : Word := BitVec.ofNat 64 (((List.range 64).find? (fun i => a.getLsbD i)).getD 64)

/-- R98: the number of one bits. -/
def popW (a : Word) : Word := BitVec.ofNat 64 (onesIn 64 a.toNat)

/-- R98, R99: EXT. -/
def extW (t : Ty) (a : Word) : Word :=
  match t with
  | .i8 => (a.setWidth 8).signExtend 64
  | .i16 => (a.setWidth 16).signExtend 64
  | .i32 => (a.setWidth 32).signExtend 64
  | .n8 => (a.setWidth 8).setWidth 64
  | .n16 => (a.setWidth 16).setWidth 64
  | .n32 => (a.setWidth 32).setWidth 64
  | .i64 | .n64 | .f32 | .f16 | .bf16 | .e4m3 | .e5m2 | .cb8 | .e8m0 => a

/-- R98: BFX, with LEN − 1 in l. -/
def bfxW (signed : Bool) (a : Word) (pos l : Nat) : Word :=
  let x := bits a.toNat (pos + l) pos
  if signed then BitVec.ofInt 64 (sextInt x (l + 1)) else BitVec.ofNat 64 x

/-- R98: BFI, with LEN − 1 in l. -/
def bfiW (d a : Word) (pos l : Nat) : Word :=
  let mask := (BitVec.ofNat 64 (2 ^ (l + 1) - 1)) <<< pos
  (d &&& ~~~mask) ||| ((a <<< pos) &&& mask)

/-! The moulds. -/

/-- A scalar written in the next clock, and the instruction completed. -/
def State.putReg (s : State) (d : Sreg) (v : Word) : State := (s.modMe (fun x => x.setS d v)).complete

/-- R98: sD ← f(sA, sB or immediate). -/
def aluOp (g : Guard) (d a : Sreg) (b : Src) (f : Word → Word → Word) (s : State) : Out :=
  guarded g (fun s => s.putReg d (f (s.me.s a) (s.me.src b))) s

/-- R93, R98: the same for a producer that takes a scoreboard entry. -/
def aluLate (g : Guard) (d a : Sreg) (b : Src) (f : Word → Word → Word) (s : State) : Out :=
  guarded g (fun s => s.putS .arith d (f (s.me.s a) (s.me.src b)) 0) s

/-- R98: sD ← f(sA). -/
def aluUn (g : Guard) (d a : Sreg) (f : Word → Word) (s : State) : Out := guarded g (fun s => s.putReg d (f (s.me.s a))) s

/-- A predicate written, and the instruction completed. -/
def State.putPred (s : State) (d : Fin 8) (v : Bool) : State := (s.modMe (fun x => x.setP d v)).complete

/-- A mask written, and the instruction completed. -/
def State.putMask (s : State) (d : Fin 8) (v : Word) : State := (s.modMe (fun x => x.setM d v)).complete

/-- A pointer written, and the instruction completed. -/
def State.putPtr (s : State) (d : Fin 8) (v : Ptr) : State := (s.modMe (fun x => x.setPtr d v)).complete

/-! The instructions. -/

/-- R98: ADD. -/
def execAdd (g : Guard) (d a : Sreg) (b : Src) (s : State) : Out :=
  aluOp g d a b (fun a b => a + b) s

/-- R98: SUB. -/
def execSub (g : Guard) (d a : Sreg) (b : Src) (s : State) : Out :=
  aluOp g d a b (fun a b => a - b) s

/-- R98, R93: MUL. -/
def execMul (g : Guard) (d a : Sreg) (b : Src) (s : State) : Out :=
  aluLate g d a b (fun a b => a * b) s

/-- R98, R93: MULH. -/
def execMulh (g : Guard) (d a : Sreg) (b : Src) (s : State) : Out :=
  aluLate g d a b mulhS s

/-- R98, R93: MULHU. -/
def execMulhu (g : Guard) (d a : Sreg) (b : Src) (s : State) : Out :=
  aluLate g d a b mulhU s

/-- R98, R93: DIV. -/
def execDiv (g : Guard) (d a : Sreg) (b : Src) (s : State) : Out :=
  aluLate g d a b divS s

/-- R98, R93: DIVU. -/
def execDivu (g : Guard) (d a : Sreg) (b : Src) (s : State) : Out :=
  aluLate g d a b divU s

/-- R98, R93: REM. -/
def execRem (g : Guard) (d a : Sreg) (b : Src) (s : State) : Out :=
  aluLate g d a b remS s

/-- R98, R93: REMU. -/
def execRemu (g : Guard) (d a : Sreg) (b : Src) (s : State) : Out :=
  aluLate g d a b remU s

/-- R98: AND. -/
def execAnd (g : Guard) (d a : Sreg) (b : Src) (s : State) : Out :=
  aluOp g d a b (fun a b => a &&& b) s

/-- R98: OR. -/
def execOr (g : Guard) (d a : Sreg) (b : Src) (s : State) : Out :=
  aluOp g d a b (fun a b => a ||| b) s

/-- R98: XOR. -/
def execXor (g : Guard) (d a : Sreg) (b : Src) (s : State) : Out :=
  aluOp g d a b (fun a b => a ^^^ b) s

/-- R98: ANDN. -/
def execAndn (g : Guard) (d a : Sreg) (b : Src) (s : State) : Out :=
  aluOp g d a b (fun a b => a &&& ~~~b) s

/-- R98: SHL. -/
def execShl (g : Guard) (d a : Sreg) (b : Src) (s : State) : Out :=
  aluOp g d a b (fun a b => a <<< shiftN b) s

/-- R98: SHR. -/
def execShr (g : Guard) (d a : Sreg) (b : Src) (s : State) : Out :=
  aluOp g d a b (fun a b => a >>> shiftN b) s

/-- R98: SAR. -/
def execSar (g : Guard) (d a : Sreg) (b : Src) (s : State) : Out :=
  aluOp g d a b (fun a b => a.sshiftRight (shiftN b)) s

/-- R98: ROT. -/
def execRot (g : Guard) (d a : Sreg) (b : Src) (s : State) : Out :=
  aluOp g d a b rotl s

/-- R98: MIN. -/
def execMin (g : Guard) (d a : Sreg) (b : Src) (s : State) : Out :=
  aluOp g d a b (fun a b => if a.sle b then a else b) s

/-- R98: MAX. -/
def execMax (g : Guard) (d a : Sreg) (b : Src) (s : State) : Out :=
  aluOp g d a b (fun a b => if b.sle a then a else b) s

/-- R98: MINU. -/
def execMinu (g : Guard) (d a : Sreg) (b : Src) (s : State) : Out :=
  aluOp g d a b (fun a b => if a.ule b then a else b) s

/-- R98: MAXU. -/
def execMaxu (g : Guard) (d a : Sreg) (b : Src) (s : State) : Out :=
  aluOp g d a b (fun a b => if b.ule a then a else b) s

/-- R98: CLZ. -/
def execClz (g : Guard) (d a : Sreg) (s : State) : Out :=
  aluUn g d a clzW s

/-- R98: CTZ. -/
def execCtz (g : Guard) (d a : Sreg) (s : State) : Out :=
  aluUn g d a ctzW s

/-- R98: POPC. -/
def execPopc (g : Guard) (d a : Sreg) (s : State) : Out :=
  aluUn g d a popW s

/-- R98, R99: EXT. -/
def execExt (g : Guard) (t : Ty) (d a : Sreg) (s : State) : Out :=
  aluUn g d a (extW t) s

/-- R98, R99: BFX. -/
def execBfx (g : Guard) (signed : Bool) (d a : Sreg) (pos lenm1 : Fin 64) (s : State) : Out :=
  aluUn g d a (fun x => bfxW signed x pos.val lenm1.val) s

/-- R98, R99: BFI. -/
def execBfi (g : Guard) (d a : Sreg) (pos lenm1 : Fin 64) (s : State) : Out :=
  guarded g (fun s => s.putReg d (bfiW (s.me.s d) (s.me.s a) pos.val lenm1.val)) s

/-- R98: LI. -/
def execLi (g : Guard) (zx : Bool) (d : Sreg) (imm : BitVec 32) (s : State) : Out :=
  guarded g (fun s => s.putReg d (if zx then zext32 imm else sext32 imm)) s

/-- R98: LIH. -/
def execLih (g : Guard) (d : Sreg) (imm : BitVec 32) (s : State) : Out :=
  guarded g (fun s => s.putReg d ((imm ++ (s.me.s d).setWidth 32 : BitVec 64))) s

/-- R98, R99: SEL. -/
def execSel (g : Guard) (d : Sreg) (p : Fin 8) (a : Sreg) (b : Src) (s : State) : Out :=
  guarded g (fun s => s.putReg d (if s.me.p p then s.me.s a else s.me.src b)) s

/-- R100: the conditions of CMP. -/
def condHolds (c : Cond) (a b : Word) : Bool :=
  match c with
  | .eq => a == b
  | .ne => a != b
  | .lt => a.slt b
  | .ge => b.sle a
  | .ltu => a.ult b
  | .geu => b.ule a
  | .tst => (a &&& b) != 0
  | .ntst => (a &&& b) == 0

/-- R100: CMP. -/
def execCmp (g : Guard) (cond : Cond) (d : Fin 8) (a : Sreg) (b : Src) (s : State) : Out :=
  guarded g (fun s => s.putPred d (condHolds cond (s.me.s a) (s.me.src b))) s

/-- R101: the operations of PLOG. -/
def plogOp (op : POp) (a b : Bool) : Bool :=
  match op with
  | .and => a && b
  | .or => a || b
  | .xor => a != b
  | .andn => a && !b
  | .nand => !(a && b)
  | .nor => !(a || b)

/-- R101: PLOG. -/
def execPlog (g : Guard) (op : POp) (d a b : Fin 8) (s : State) : Out :=
  guarded g (fun s => s.putPred d (plogOp op (s.me.p a) (s.me.p b))) s

/-- R102: PMOV. -/
def execPmov (g : Guard) (f : PMov) (s : State) : Out :=
  guarded g (fun s =>
    match f with
    | .mov d a => s.putPred d (s.me.p a)
    | .not d a => s.putPred d (!s.me.p a)
    | .nz d a => s.putPred d (s.me.s a != 0)
    | .get d a => s.putReg d (if s.me.p a then 1 else 0)
    | .imm d v => s.putPred d v) s

/-- R103: the tested bits of a mask: [L − 1:0]. -/
def maskLow (t : Ty) (m : Word) : Nat := m.toNat % 2 ^ t.lanes

/-- R103: the conditions of TSTM. -/
def tstmHolds (c : MCond) (t : Ty) (m : Word) : Bool :=
  match c with
  | .any => maskLow t m != 0
  | .all => maskLow t m == 2 ^ t.lanes - 1
  | .none => maskLow t m == 0

/-- R103: TSTM. -/
def execTstm (g : Guard) (cond : MCond) (t : Ty) (d m : Fin 8) (s : State) : Out :=
  guarded g (fun s => s.putPred d (tstmHolds cond t (s.me.m m))) s

/-- R105: the fields PTSET writes. -/
def ptsetFields (f : PtSet) (x : Slot) (p : Ptr) (a : Word) : Ptr :=
  match f with
  | .all b =>
    let v := x.src b
    { base := a, cur := 0, step := v.setWidth 32, limit := (v >>> 32).setWidth 32 }
  | .base => { p with base := a }
  | .cur => { p with cur := p.wrap a.toNat }
  | .step => { p with step := a.setWidth 32 }
  | .limit =>
    let q := { p with limit := a.setWidth 32 }
    { q with cur := q.wrap q.cur.toNat }

/-- R105: PTSET. -/
def execPtset (g : Guard) (f : PtSet) (d : Fin 8) (a : Sreg) (s : State) : Out :=
  guarded g (fun s => s.putPtr d (ptsetFields f s.me (s.me.ptr d) (s.me.s a))) s

/-- R106: the field PTGET reads. -/
def ptgetField (f : PtGet) (p : Ptr) : Word :=
  match f with
  | .addr => p.addr
  | .base => p.base
  | .cur => p.cur
  | .step => p.step.signExtend 64
  | .limit => p.limit.setWidth 64

/-- R106: PTGET. -/
def execPtget (g : Guard) (f : PtGet) (d : Sreg) (a : Fin 8) (s : State) : Out :=
  guarded g (fun s => s.putReg d (ptgetField f (s.me.ptr a))) s

/-- R107: PTADV. -/
def execPtadv (g : Guard) (steps : Bool) (d : Fin 8) (b : Src) (s : State) : Out :=
  guarded g (fun s =>
    let p := s.me.ptr d
    let n := (s.me.src b).toInt
    s.putPtr d (p.advance (if steps then n * p.step.toInt else n))) s

/-- R109: MKAND. -/
def execMkand (g : Guard) (d a b : Fin 8) (s : State) : Out := guarded g (fun s => s.putMask d (s.me.m a &&& s.me.m b)) s

/-- R109: MKOR. -/
def execMkor (g : Guard) (d a b : Fin 8) (s : State) : Out := guarded g (fun s => s.putMask d (s.me.m a ||| s.me.m b)) s

/-- R109: MKXOR. -/
def execMkxor (g : Guard) (d a b : Fin 8) (s : State) : Out := guarded g (fun s => s.putMask d (s.me.m a ^^^ s.me.m b)) s

/-- R109: MKNOT. -/
def execMknot (g : Guard) (d a : Fin 8) (s : State) : Out := guarded g (fun s => s.putMask d (~~~ s.me.m a)) s

/-- R109: MKPOP. -/
def execMkpop (g : Guard) (t : Ty) (d : Sreg) (a : Fin 8) (s : State) : Out :=
  guarded g (fun s => s.putReg d (BitVec.ofNat 64 (onesIn t.lanes (s.me.m a).toNat))) s

/-- R109: MKFST. -/
def execMkfst (g : Guard) (t : Ty) (d : Sreg) (a : Fin 8) (s : State) : Out :=
  guarded g (fun s =>
    s.putReg d (BitVec.ofNat 64 (((List.range t.lanes).find? (fun i => (s.me.m a).getLsbD i)).getD t.lanes))) s

/-- R109: MKSET. -/
def execMkset (g : Guard) (d : Fin 8) (a : Src) (s : State) : Out := guarded g (fun s => s.putMask d (s.me.src a)) s

/-- R109: MKGET. -/
def execMkget (g : Guard) (d : Sreg) (a : Fin 8) (s : State) : Out := guarded g (fun s => s.putReg d (s.me.m a)) s

end Sys2Proof.Machine
end

