-- ==== Sys2Proof/Machine/Dispatch.lean ====
section
/-! DEFINITION. The meaning of every operation of the opcode table: one arm per constructor. -/
namespace Sys2Proof.Machine

/-- One operation performed. -/
def exec (i : Instr) (s : State) : Host.Outcome State Fault Refusal :=
  match i with
  | .nop g => Sys2Proof.Machine.execNop g s
  | .trap g noretry imm => Sys2Proof.Machine.execTrap g noretry imm s
  | .brk g code => Sys2Proof.Machine.execBrk g code s
  | .resume g d a => Sys2Proof.Machine.execResume g d a s
  | .resumeAbort g d a => Sys2Proof.Machine.execResumeAbort g d a s
  | .mfsr g d n => Sys2Proof.Machine.execMfsr g d n s
  | .mtsr g n a => Sys2Proof.Machine.execMtsr g n a s
  | .wait g cond d a b c imm sp o => Sys2Proof.Machine.execWait g cond d a b c imm sp o s
  | .waitClk g c => Sys2Proof.Machine.execWaitClk g c s
  | .prio g d b => Sys2Proof.Machine.execPrio g d b s
  | .add g d a b => Sys2Proof.Machine.execAdd g d a b s
  | .sub g d a b => Sys2Proof.Machine.execSub g d a b s
  | .mul g d a b => Sys2Proof.Machine.execMul g d a b s
  | .mulh g d a b => Sys2Proof.Machine.execMulh g d a b s
  | .mulhu g d a b => Sys2Proof.Machine.execMulhu g d a b s
  | .div g d a b => Sys2Proof.Machine.execDiv g d a b s
  | .divu g d a b => Sys2Proof.Machine.execDivu g d a b s
  | .rem g d a b => Sys2Proof.Machine.execRem g d a b s
  | .remu g d a b => Sys2Proof.Machine.execRemu g d a b s
  | .and g d a b => Sys2Proof.Machine.execAnd g d a b s
  | .or g d a b => Sys2Proof.Machine.execOr g d a b s
  | .xor g d a b => Sys2Proof.Machine.execXor g d a b s
  | .andn g d a b => Sys2Proof.Machine.execAndn g d a b s
  | .shl g d a b => Sys2Proof.Machine.execShl g d a b s
  | .shr g d a b => Sys2Proof.Machine.execShr g d a b s
  | .sar g d a b => Sys2Proof.Machine.execSar g d a b s
  | .rot g d a b => Sys2Proof.Machine.execRot g d a b s
  | .min g d a b => Sys2Proof.Machine.execMin g d a b s
  | .max g d a b => Sys2Proof.Machine.execMax g d a b s
  | .minu g d a b => Sys2Proof.Machine.execMinu g d a b s
  | .maxu g d a b => Sys2Proof.Machine.execMaxu g d a b s
  | .clz g d a => Sys2Proof.Machine.execClz g d a s
  | .ctz g d a => Sys2Proof.Machine.execCtz g d a s
  | .popc g d a => Sys2Proof.Machine.execPopc g d a s
  | .ext g t d a => Sys2Proof.Machine.execExt g t d a s
  | .bfx g signed d a pos lenm1 => Sys2Proof.Machine.execBfx g signed d a pos lenm1 s
  | .bfi g d a pos lenm1 => Sys2Proof.Machine.execBfi g d a pos lenm1 s
  | .li g zx d imm => Sys2Proof.Machine.execLi g zx d imm s
  | .lih g d imm => Sys2Proof.Machine.execLih g d imm s
  | .sel g d p a b => Sys2Proof.Machine.execSel g d p a b s
  | .cmp g cond d a b => Sys2Proof.Machine.execCmp g cond d a b s
  | .plog g op d a b => Sys2Proof.Machine.execPlog g op d a b s
  | .pmov g f => Sys2Proof.Machine.execPmov g f s
  | .tstm g cond t d m => Sys2Proof.Machine.execTstm g cond t d m s
  | .ptset g f d a => Sys2Proof.Machine.execPtset g f d a s
  | .ptget g f d a => Sys2Proof.Machine.execPtget g f d a s
  | .ptadv g steps d b => Sys2Proof.Machine.execPtadv g steps d b s
  | .br g imm => Sys2Proof.Machine.execBr g imm s
  | .jal g d imm => Sys2Proof.Machine.execJal g d imm s
  | .jalr g d a imm => Sys2Proof.Machine.execJalr g d a imm s
  | .loop g d imm => Sys2Proof.Machine.execLoop g d imm s
  | .ld g t d m sp o => Sys2Proof.Machine.execLd g t d m sp o s
  | .st g t m c sp o => Sys2Proof.Machine.execSt g t m c sp o s
  | .vld g t d m z sp o => Sys2Proof.Machine.execVld g t d m z sp o s
  | .vst g t m c msk sp o => Sys2Proof.Machine.execVst g t m c msk sp o s
  | .vlds g t d m b z sp o => Sys2Proof.Machine.execVlds g t d m b z sp o s
  | .vsts g t m b c msk sp o => Sys2Proof.Machine.execVsts g t m b c msk sp o s
  | .vgth g t it d m b z sp o => Sys2Proof.Machine.execVgth g t it d m b z sp o s
  | .vsct g t it m b c msk sp o => Sys2Proof.Machine.execVsct g t it m b c msk sp o s
  | .amo g op t d m c sp o => Sys2Proof.Machine.execAmo g op t d m c sp o s
  | .amocas g t p m b c sp o => Sys2Proof.Machine.execAmocas g t p m b c sp o s
  | .amof g op det d m c o => Sys2Proof.Machine.execAmof g op det d m c o s
  | .vamof g det it m b c msk o => Sys2Proof.Machine.execVamof g det it m b c msk o s
  | .drclose g d a scope => Sys2Proof.Machine.execDrclose g d a scope s
  | .ldf g d p m o => Sys2Proof.Machine.execLdf g d p m o s
  | .ldft g d p m o => Sys2Proof.Machine.execLdft g d p m o s
  | .stf g p m c o => Sys2Proof.Machine.execStf g p m c o s
  | .fence g scope => Sys2Proof.Machine.execFence g scope s
  | .vadd g t sat r z d a b => Sys2Proof.Machine.execVadd g t sat r z d a b s
  | .vsub g t sat r z d a b => Sys2Proof.Machine.execVsub g t sat r z d a b s
  | .vmul g t sat r z d a b => Sys2Proof.Machine.execVmul g t sat r z d a b s
  | .vfma g t sat r z d a b c => Sys2Proof.Machine.execVfma g t sat r z d a b c s
  | .vfms g t sat r z d a b c => Sys2Proof.Machine.execVfms g t sat r z d a b c s
  | .vmin g t z d a b => Sys2Proof.Machine.execVmin g t z d a b s
  | .vmax g t z d a b => Sys2Proof.Machine.execVmax g t z d a b s
  | .vabs g t sat z d a => Sys2Proof.Machine.execVabs g t sat z d a s
  | .vneg g t sat z d a => Sys2Proof.Machine.execVneg g t sat z d a s
  | .vrcp g t r z d a => Sys2Proof.Machine.execVrcp g t r z d a s
  | .vrsq g t r z d a => Sys2Proof.Machine.execVrsq g t r z d a s
  | .vexp2 g t r z d a => Sys2Proof.Machine.execVexp2 g t r z d a s
  | .vlog2 g t r z d a => Sys2Proof.Machine.execVlog2 g t r z d a s
  | .vand g t z d a b => Sys2Proof.Machine.execVand g t z d a b s
  | .vor g t z d a b => Sys2Proof.Machine.execVor g t z d a b s
  | .vxor g t z d a b => Sys2Proof.Machine.execVxor g t z d a b s
  | .vshl g t z d a b => Sys2Proof.Machine.execVshl g t z d a b s
  | .vshr g t z d a b => Sys2Proof.Machine.execVshr g t z d a b s
  | .vsar g t z d a b => Sys2Proof.Machine.execVsar g t z d a b s
  | .vcmp g cond t z d a b => Sys2Proof.Machine.execVcmp g cond t z d a b s
  | .vsel g t k d a b => Sys2Proof.Machine.execVsel g t k d a b s
  | .vcvt g td ts part sat r z d a => Sys2Proof.Machine.execVcvt g td ts part sat r z d a s
  | .vqnt g td part d a b c => Sys2Proof.Machine.execVqnt g td part d a b c s
  | .vdeq g td ts part z d a => Sys2Proof.Machine.execVdeq g td ts part z d a s
  | .vscale g t k r z d a b => Sys2Proof.Machine.execVscale g t k r z d a b s
  | .vred g op t r msk d a => Sys2Proof.Machine.execVred g op t r msk d a s
  | .vscan g op ex t r z d a b => Sys2Proof.Machine.execVscan g op ex t r z d a b s
  | .vperm g t z d a b two => Sys2Proof.Machine.execVperm g t z d a b two s
  | .vbcast g t z d f => Sys2Proof.Machine.execVbcast g t z d f s
  | .vins g t d a n => Sys2Proof.Machine.execVins g t d a n s
  | .vext g t d a n => Sys2Proof.Machine.execVext g t d a n s
  | .vmov g t z d a => Sys2Proof.Machine.execVmov g t z d a s
  | .vldi g t z d a imm => Sys2Proof.Machine.execVldi g t z d a imm s
  | .vzip g t part z d a b => Sys2Proof.Machine.execVzip g t part z d a b s
  | .vunzip g t part z d a b => Sys2Proof.Machine.execVunzip g t part z d a b s
  | .vslide g t k z d a b => Sys2Proof.Machine.execVslide g t k z d a b s
  | .vdot g t sat r z d a b c => Sys2Proof.Machine.execVdot g t sat r z d a b c s
  | .vsat g t t2 z d a => Sys2Proof.Machine.execVsat g t t2 z d a s
  | .mkand g d a b => Sys2Proof.Machine.execMkand g d a b s
  | .mkor g d a b => Sys2Proof.Machine.execMkor g d a b s
  | .mkxor g d a b => Sys2Proof.Machine.execMkxor g d a b s
  | .mknot g d a => Sys2Proof.Machine.execMknot g d a s
  | .mkpop g t d a => Sys2Proof.Machine.execMkpop g t d a s
  | .mkfst g t d a => Sys2Proof.Machine.execMkfst g t d a s
  | .mkset g d a => Sys2Proof.Machine.execMkset g d a s
  | .mkget g d a => Sys2Proof.Machine.execMkget g d a s
  | .mxcfgAscale g tok a => Sys2Proof.Machine.execMxcfgAscale g tok a s
  | .mxcfgAreset g tok => Sys2Proof.Machine.execMxcfgAreset g tok s
  | .mxld g tok f a b o => Sys2Proof.Machine.execMxld g tok f a b o s
  | .mxldv g tok r64 slot a b o => Sys2Proof.Machine.execMxldv g tok r64 slot a b o s
  | .mxmma g tok ta tb h16 d x y o => Sys2Proof.Machine.execMxmma g tok ta tb h16 d x y o s
  | .mxzero g tok mask => Sys2Proof.Machine.execMxzero g tok mask s
  | .mxsca g tok ts ta d cell a b => Sys2Proof.Machine.execMxsca g tok ts ta d cell a b s
  | .mxrd g tok d cell row lg => Sys2Proof.Machine.execMxrd g tok d cell row lg s
  | .mxst g tok t sat r cell a b sp o => Sys2Proof.Machine.execMxst g tok t sat r cell a b sp o s
  | .mxattn g tok q a b nm1 o => Sys2Proof.Machine.execMxattn g tok q a b nm1 o s
  | .mxafin g tok a b o => Sys2Proof.Machine.execMxafin g tok a b o s
  | .mxwait g => Sys2Proof.Machine.execMxwait g s
  | .mxprg g tok => Sys2Proof.Machine.execMxprg g tok s
  | .cpy g tok dir d a b o => Sys2Proof.Machine.execCpy g tok dir d a b o s
  | .cpy2d g tok a imm sp o => Sys2Proof.Machine.execCpy2d g tok a imm sp o s
  | .cpyt g tok pack d a o => Sys2Proof.Machine.execCpyt g tok pack d a o s
  | .ringcfg g tok a imm sp => Sys2Proof.Machine.execRingcfg g tok a imm sp s
  | .ringcfgOff g tok ring => Sys2Proof.Machine.execRingcfgOff g tok ring s
  | .rsend g tok glob d ring a b o => Sys2Proof.Machine.execRsend g tok glob d ring a b o s
  | .rfwd g tok d ring a => Sys2Proof.Machine.execRfwd g tok d ring a s
  | .rfree g tok ring a => Sys2Proof.Machine.execRfree g tok ring a s
  | .send g d a b hid q len => Sys2Proof.Machine.execSend g d a b hid q len s
  | .sendv g d a b hid q len => Sys2Proof.Machine.execSendv g d a b hid q len s
  | .sendc g d a b hid q len lines => Sys2Proof.Machine.execSendc g d a b hid q len lines s
  | .reply g b hid q len => Sys2Proof.Machine.execReply g b hid q len s
  | .reth g => Sys2Proof.Machine.execReth g s
  | .htset g d a b c id => Sys2Proof.Machine.execHtset g d a b c id s
  | .qcfg g d a q => Sys2Proof.Machine.execQcfg g d a q s
  | .bindIn g n a => Sys2Proof.Machine.execBindIn g n a s
  | .bindOut g n a => Sys2Proof.Machine.execBindOut g n a s
  | .unbindIn g n => Sys2Proof.Machine.execUnbindIn g n s
  | .unbindOut g n => Sys2Proof.Machine.execUnbindOut g n s
  | .chsend g n a o => Sys2Proof.Machine.execChsend g n a o s
  | .chtst g p n b => Sys2Proof.Machine.execChtst g p n b s
  | .bar g scope id b => Sys2Proof.Machine.execBar g scope id b s
  | .spawn g d m sp => Sys2Proof.Machine.execSpawn g d m sp s
  | .thnew g d m sp => Sys2Proof.Machine.execThnew g d m sp s
  | .thsplit g dim d a b => Sys2Proof.Machine.execThsplit g dim d a b s
  | .thjoin g d a => Sys2Proof.Machine.execThjoin g d a s
  | .thfrz g d a => Sys2Proof.Machine.execThfrz g d a s
  | .thfrzThaw g d a => Sys2Proof.Machine.execThfrzThaw g d a s
  | .thfree g d a => Sys2Proof.Machine.execThfree g d a s
  | .thinfo g sel d a => Sys2Proof.Machine.execThinfo g sel d a s
  | .txsub g d m sp => Sys2Proof.Machine.execTxsub g d m sp s
  | .txrst g d m sp => Sys2Proof.Machine.execTxrst g d m sp s
  | .txnum g d => Sys2Proof.Machine.execTxnum g d s
  | .txnumOpen g d => Sys2Proof.Machine.execTxnumOpen g d s
  | .txver g new d k => Sys2Proof.Machine.execTxver g new d k s
  | .txabort g => Sys2Proof.Machine.execTxabort g s
  | .activationStart core slot queue => Sys2Proof.Machine.execActivationStart core slot queue s
  | .porterActivation core => Sys2Proof.Machine.execPorterActivation core s
  | .budgetTrap core slot => Sys2Proof.Machine.execBudgetTrap core slot s
  | .scoreboardWriteLands core slot id => Sys2Proof.Machine.execScoreboardWriteLands core slot id s
  | .tokenLands core slot id => Sys2Proof.Machine.execTokenLands core slot id s
  | .predicateResolves core slot id => Sys2Proof.Machine.execPredicateResolves core slot id s
  | .copyCommandStart core => Sys2Proof.Machine.execCopyCommandStart core s
  | .matrixCommandStart core => Sys2Proof.Machine.execMatrixCommandStart core s
  | .commandCompletion core e => Sys2Proof.Machine.execCommandCompletion core e s
  | .fsresp v => Sys2Proof.Machine.execFsresp v s
  | .fsqIdx v => Sys2Proof.Machine.execFsqIdx v s
  | .faultAnswerTimeout core slot e => Sys2Proof.Machine.execFaultAnswerTimeout core slot e s
  | .lateReport core cause addr pc => Sys2Proof.Machine.execLateReport core cause addr pc s
  | .drainComplete core slot => Sys2Proof.Machine.execDrainComplete core slot s
  | .sendBufferDeparture core slot => Sys2Proof.Machine.execSendBufferDeparture core slot s
  | .messageArrival core m => Sys2Proof.Machine.execMessageArrival core m s
  | .heapReplay core queue => Sys2Proof.Machine.execHeapReplay core queue s
  | .heapReplayResume core queue => Sys2Proof.Machine.execHeapReplayResume core queue s
  | .agentPortPlacement core queue => Sys2Proof.Machine.execAgentPortPlacement core queue s
  | .agentPortRetry core => Sys2Proof.Machine.execAgentPortRetry core s
  | .channelEntryArrival tag data rel writer port => Sys2Proof.Machine.execChannelEntryArrival tag data rel writer port s
  | .creditReturn core slot port => Sys2Proof.Machine.execCreditReturn core slot port s
  | .chtstTimeout core slot id => Sys2Proof.Machine.execChtstTimeout core slot id s
  | .waitWake core slot => Sys2Proof.Machine.execWaitWake core slot s
  | .waitPoll core slot => Sys2Proof.Machine.execWaitPoll core slot s
  | .waitTimeout core slot => Sys2Proof.Machine.execWaitTimeout core slot s
  | .barrierInheritance gid => Sys2Proof.Machine.execBarrierInheritance gid s
  | .preemptPost core queue => Sys2Proof.Machine.execPreemptPost core queue s
  | .preemptWithdraw core queue => Sys2Proof.Machine.execPreemptWithdraw core queue s
  | .bankRole core slot v => Sys2Proof.Machine.execBankRole core slot v s
  | .homeAccess news => Sys2Proof.Machine.execHomeAccess news s
  | .scopeMissReport core act atom => Sys2Proof.Machine.execScopeMissReport core act atom s
  | .detUpdateArrival u => Sys2Proof.Machine.execDetUpdateArrival u s
  | .invalidationDoorbell b => Sys2Proof.Machine.execInvalidationDoorbell b s
  | .invalidationCompletion => Sys2Proof.Machine.execInvalidationCompletion s
  | .walkCompletion core asid page => Sys2Proof.Machine.execWalkCompletion core asid page s
  | .offlnAck v => Sys2Proof.Machine.execOfflnAck v s
  | .lmmapMoveComplete idx => Sys2Proof.Machine.execLmmapMoveComplete idx s
  | .tenureRequestArrival r a => Sys2Proof.Machine.execTenureRequestArrival r a s
  | .tenureRequestResend lm => Sys2Proof.Machine.execTenureRequestResend lm s
  | .tenureGrant r p => Sys2Proof.Machine.execTenureGrant r p s
  | .dispatch num => Sys2Proof.Machine.execDispatch num s
  | .commitGrant num h => Sys2Proof.Machine.execCommitGrant num h s
  | .homeReceipt num handle r => Sys2Proof.Machine.execHomeReceipt num handle r s
  | .tileOperationArrival src slot asid op => Sys2Proof.Machine.execTileOperationArrival src slot asid op s
  | .tileAnswer core slot a => Sys2Proof.Machine.execTileAnswer core slot a s
  | .crateRelease ring core crate => Sys2Proof.Machine.execCrateRelease ring core crate s
  | .kick q v => Sys2Proof.Machine.execKick q v s
  | .cancel q v => Sys2Proof.Machine.execCancel q v s
  | .qctlResume q => Sys2Proof.Machine.execQctlResume q s
  | .qctlHold q => Sys2Proof.Machine.execQctlHold q s
  | .qctlRelease q => Sys2Proof.Machine.execQctlRelease q s
  | .qctlEnable q => Sys2Proof.Machine.execQctlEnable q s
  | .qctlDisable q => Sys2Proof.Machine.execQctlDisable q s
  | .queueDisableComplete q => Sys2Proof.Machine.execQueueDisableComplete q s
  | .packetRead q => Sys2Proof.Machine.execPacketRead q s
  | .packetReread q => Sys2Proof.Machine.execPacketReread q s
  | .nopPacket q => Sys2Proof.Machine.execNopPacket q s
  | .txnPacket q => Sys2Proof.Machine.execTxnPacket q s
  | .msgPacket q => Sys2Proof.Machine.execMsgPacket q s
  | .launchPacket q => Sys2Proof.Machine.execLaunchPacket q s
  | .gangPacket q => Sys2Proof.Machine.execGangPacket q s
  | .waitsigPacket q => Sys2Proof.Machine.execWaitsigPacket q s
  | .waitsigReread q id => Sys2Proof.Machine.execWaitsigReread q id s
  | .signalPacket q => Sys2Proof.Machine.execSignalPacket q s
  | .fetchfencePacket q => Sys2Proof.Machine.execFetchfencePacket q s
  | .indirectPacket q => Sys2Proof.Machine.execIndirectPacket q s
  | .ringPacket q => Sys2Proof.Machine.execRingPacket q s
  | .packetCompletion q id ok => Sys2Proof.Machine.execPacketCompletion q id ok s
  | .taskTake core => Sys2Proof.Machine.execTaskTake core s
  | .taskSteal core => Sys2Proof.Machine.execTaskSteal core s
  | .terminationSweep lid => Sys2Proof.Machine.execTerminationSweep lid s
  | .liveUpdate u => Sys2Proof.Machine.execLiveUpdate u s
  | .coreDrain core => Sys2Proof.Machine.execCoreDrain core s
  | .coreDrainComplete core => Sys2Proof.Machine.execCoreDrainComplete core s
  | .coreReadmit core => Sys2Proof.Machine.execCoreReadmit core s
  | .operatingPointChange pt => Sys2Proof.Machine.execOperatingPointChange pt s
  | .managementRegisterWrite off v => Sys2Proof.Machine.execManagementRegisterWrite off v s
  | .tenureRelease num handle => Sys2Proof.Machine.execTenureRelease num handle s
  | .forcedIssue core slot => Sys2Proof.Machine.execForcedIssue core slot s
  | .mxldvRowFault core => Sys2Proof.Machine.execMxldvRowFault core s
  | .gangSlotReservation => Sys2Proof.Machine.execGangSlotReservation s
  | .remoteStoreResponse core slot id ok => Sys2Proof.Machine.execRemoteStoreResponse core slot id ok s
  | .birspArrival line data keep => Sys2Proof.Machine.execBirspArrival line data keep s
  | .hostMemWrite off data => Sys2Proof.Machine.execHostMemWrite off data s
  | .hostMemRead off n hold => Sys2Proof.Machine.execHostMemRead off n hold s
  | .correctedError u => Sys2Proof.Machine.execCorrectedError u s
  | .selfTestResult u pass => Sys2Proof.Machine.execSelfTestResult u pass s
  | .roundClose => Sys2Proof.Machine.execRoundClose s
  | .reservationAndNumbering => Sys2Proof.Machine.execReservationAndNumbering s
  | .closureArrival pkg round next => Sys2Proof.Machine.execClosureArrival pkg round next s
  | .podTimeoutExpiry pkg => Sys2Proof.Machine.execPodTimeoutExpiry pkg s
  | .outOfServiceDeclaration pkg round => Sys2Proof.Machine.execOutOfServiceDeclaration pkg round s
  | .podJoin pkg running => Sys2Proof.Machine.execPodJoin pkg running s
  | .joinNotice pkg => Sys2Proof.Machine.execJoinNotice pkg s
  | .joinRound pkg round => Sys2Proof.Machine.execJoinRound pkg round s
  | .flitReceive port good => Sys2Proof.Machine.execFlitReceive port good s
  | .portRetrain port lo hi => Sys2Proof.Machine.execPortRetrain port lo hi s
  | .portRecalibration port => Sys2Proof.Machine.execPortRecalibration port s
  | .hbmPhyRetrain chan done => Sys2Proof.Machine.execHbmPhyRetrain chan done s
  | .ringSetupNotice ring fromPred peer cell csize => Sys2Proof.Machine.execRingSetupNotice ring fromPred peer cell csize s
  | .ringSetupAnswer ring fromSucc ok => Sys2Proof.Machine.execRingSetupAnswer ring fromSucc ok s
  | .ringBlockArrival ring blk origin data => Sys2Proof.Machine.execRingBlockArrival ring blk origin data s
  | .ringBlockAck ring blk ok => Sys2Proof.Machine.execRingBlockAck ring blk ok s
  | .ringReleaseArrival ring => Sys2Proof.Machine.execRingReleaseArrival ring s
  | .ringSkipNotice ring blk => Sys2Proof.Machine.execRingSkipNotice ring blk s
  | .ringTeardownNotice ring => Sys2Proof.Machine.execRingTeardownNotice ring s
  | .liveUpdateHandover => Sys2Proof.Machine.execLiveUpdateHandover s
  | .failover => Sys2Proof.Machine.execFailover s
  | .thermalThrottle => Sys2Proof.Machine.execThermalThrottle s
  | .thermalRaise => Sys2Proof.Machine.execThermalRaise s
  | .thermalTrip => Sys2Proof.Machine.execThermalTrip s
  | .cbData core slot v => Sys2Proof.Machine.execCbData core slot v s
  | .cbCtl core v => Sys2Proof.Machine.execCbCtl core v s
  | .packageReset pkg => Sys2Proof.Machine.execPackageReset pkg s
  | .managementWithdrawRequest => Sys2Proof.Machine.execManagementWithdrawRequest s
  | .illegalInstructionTrap => Sys2Proof.Machine.execIllegalInstructionTrap s

end Sys2Proof.Machine
end

