-- ==== Sys2Proof/Machine/Issue.lean ====
section
/-! DEFINITION. What the chosen slot does with the issue unit at its PC (R48, R50): the faults of fetching and judging it, or
its instructions one after the other. -/
namespace Sys2Proof.Machine

/-- The issuing slot is about to issue the first unit of its activation. -/
def State.atEntry (s : State) : Bool := (s.myAct.map (·.atEntry)).getD false

/-- R33: the first issue unit of an activation is judged as an entry; the fault of its PC, or none. -/
def State.entryFault (s : State) : Option AccFault :=
  if !s.atEntry then none
  else match s.checkTarget s.cur.1 s.cur.2 s.me.pc with
    | .ok () => none
    | .error e => some e

/-- R33: the fault of fetching the unit at the PC, which at an entry is about the named PC. -/
def State.fetchAcc (s : State) (f : AccFault) : AccFault := if s.atEntry then targetFault s.me.pc f else f

/-- R371: the registers that may hold an uncorrectable error (log 60). -/
def RegId.held : RegId → Option (RegClass × Nat)
  | .s n => some (.scalar, n)
  | .v n => some (.vector, n)
  | .p n => some (.pred, n)
  | .m n => some (.mask, n)
  | .a n => some (.ptr, n)
  | .sr n => some (.special, n)
  | .c _ => none

/-- R371: an instruction reads a register that holds an uncorrectable error; one whose guard does not act reads its guard only. -/
def Slot.badRead (x : Slot) (i : Instr) : Bool :=
  !x.badRegs.isEmpty &&
  ((if x.takes i then readsOf i else [.p (guardOf i).p.val]).filterMap RegId.held).any (fun r => x.badRegs.contains r)

/-- R48: what the special register of a pair's second instruction held stands for that instruction only. -/
def State.dropPairSr (t : State) (w : Nat × Nat) : State :=
  if ((t.slotOf w.1 w.2).act.bind (·.pairSr)).isSome then
    t.modSlot w.1 w.2 (fun x => { x with act := x.act.map (fun a => { a with pairSr := none }) })
  else t

/-- R337: what a response of the host lets an accessor do ends with its instruction, unless it waits for a line again. -/
def afterIssue (w : Nat × Nat) : Out → Out
  | .next t => .next (match (t.slotOf w.1 w.2).wait with
    | .line _ => t
    | .none | .mem _ _ _ _ _ _ _ _ _ | .clk _ _ | .bar _ _ | .mx | .future _ | .tile _ _ _ | .tileGot _ _ _ | .home | .role | .lanes =>
      (t.dropPass w).dropPairSr w)
  | .fault f => .fault f
  | .refused r => .refused r

/-- R371: a register that an instruction writes holds no error any more (log 60). -/
def State.mend (s : State) (i : Instr) : State :=
  if s.me.badRegs.isEmpty || !s.me.takes i then s
  else s.modMe (fun x => { x with badRegs := x.badRegs.filter (fun r => !((writesOf i).filterMap RegId.held).contains r) })

/-- R254: the commands whose token register an instruction reads; a token that it overwrites unread is forgotten. -/
def Activation.readTokens (a : Activation) (reads writes : List RegId) : Activation :=
  let named := fun (l : List RegId) (n : CmdNote) => (n.tok.map (fun r => l.contains (.s r))).getD false
  { a with
    joined := a.joined ++ (a.cmds.filter (named reads)).map (·.ord)
    cmds := (a.cmds.filter (fun n => !named reads n)).map (fun n => if named writes n then { n with tok := none } else n) }

/-- R254: an instruction of the issuing slot reads the tokens of commands. -/
def State.noteTokens (s : State) (i : Instr) : State :=
  if ((s.myAct.map (·.cmds)).getD []).isEmpty || !s.me.takes i then s
  else s.modMyAct (fun a => a.readTokens (usesOf i).reads (usesOf i).writes)

/-- R313: the uncorrectable error that an instruction with an access to local memory has met is the core's own. -/
def ownAfter (w : Nat × Nat) (i : Instr) : Out → Out
  | .next t => .next (t.noteOwn w.1 w.2 (usesLocal i))
  | .fault f => .fault f
  | .refused r => .refused r

/-- R371: one instruction of the issuing slot, or the fault of an error in a register that it reads. -/
def State.issueOne (s : State) (i : Instr) : Out :=
  if s.me.badRead i then .next ((s.abortMe ⟨0x09, 0, 0, 0⟩).noteOwn s.cur.1 s.cur.2 true)
  else ownAfter s.cur i (afterIssue s.cur (exec i ((s.mend i).noteTokens i)))

/-- R33, R93, R233: the unit at the PC of the issuing slot issues: it is no entry any more, waits for no entry of the scoreboard, and its
fetch may leave a walk's translation in the TLBs. -/
def State.beginUnit (s : State) : State :=
  (s.modMe (fun x => { x with sbWait := none, act := x.act.map (fun a => { a with atEntry := false }) })).walkDues
    s.cur.1 s.me.asid.toNat (if codeWindow.toNat ≤ s.me.pc.toNat then [] else [pcLine s.me.pc])

/-- R48: what the special register of an MFSR holds now. -/
def State.srOf (s : State) : Instr → Option Word
  | .mfsr _ _ n => some (s.readSr n.toNat)
  | _ => none

/-- R48: what the special register that an instruction writes holds, where the second one of its pair may read it without naming it. -/
def State.srWas (s : State) : Instr → Option SrWas
  | .prio _ _ _ => some (.level s.me.level)
  | .mtsr _ n _ =>
    match n.toNat with
    | 0x031 => some (.level s.me.level)
    | 0x080 => some (.detRound s.me.detRound)
    | 0x081 => some (.detSpill s.me.detSpill)
    | 0x138 => some (.brkEn s.myCore.brkEn)
    | _ => none
  | _ => none

/-- R48: such a register of slot i of core c as it stands, and set. -/
def State.srIs (s : State) (c i : Nat) : SrWas → SrWas
  | .level _ => .level (s.slotOf c i).level
  | .detRound _ => .detRound (s.slotOf c i).detRound
  | .detSpill _ => .detSpill (s.slotOf c i).detSpill
  | .brkEn _ => .brkEn (s.coreOf c).brkEn
def State.putSr (s : State) (c i : Nat) : SrWas → State
  | .level n => s.modSlot c i (fun x => { x with level := n })
  | .detRound v => s.modSlot c i (fun x => { x with detRound := v })
  | .detSpill v => s.modSlot c i (fun x => { x with detSpill := v })
  | .brkEn v => s.modCore c (fun k => { k with brkEn := v })

/-- R48, R50: the chosen slot issues its unit. The second instruction of a pair runs at the next step. -/
def State.issueUnit (s : State) : Out :=
  match s.unitAt s.cur.1 s.cur.2 with
  | .access f => .next (s.takeAcc ((s.entryFault).getD (s.fetchAcc f)))
  | .parity pc line => .next ((s.setPc pc).takeAcc (.abort 0x04 line))
  | .illegalInstruction pc => exec .illegalInstructionTrap (s.setPc pc)
  | .illegalEncoding pc => .next ((s.setPc pc).abortMe ⟨0x02, 0, 0, 0⟩)
  | .unit i second =>
    match s.entryFault with
    | some f => .next (s.takeAcc f)
    | none =>
      match second with
      | none => s.beginUnit.issueOne i
      | some j => { s.beginUnit with pairNext := some ⟨s.cur.1, s.cur.2, j, s.beginUnit.srOf j, s.beginUnit.srWas i⟩ }.issueOne i

/-- R48: an instruction runs with the special register that the first one of its pair has written as it stood before; afterwards what
that one wrote stands. -/
def State.issueWith (s : State) (p : PairRest) : Out :=
  match p.was with
  | none => s.issueOne p.instr
  | some w =>
    match (s.putSr p.core p.slot w).issueOne p.instr with
    | .next t => .next (t.putSr p.core p.slot (s.srIs p.core p.slot w))
    | .fault f => .fault f
    | .refused r => .refused r

/-- R48: the second instruction of a pair, where the first has ended; one that waits for what the first has taken, or whose slot waits,
issues alone later. -/
def State.issueSecond (s : State) (p : PairRest) : Out :=
  let s := { s with pairNext := none, cur := (p.core, p.slot) }
  let s := if p.sr.isSome then s.modMyAct (fun a => { a with pairSr := p.sr }) else s
  if s.me.mode == .running && s.me.wait == .none && !s.hazard p.core p.slot none p.instr then s.issueWith p else .next s

end Sys2Proof.Machine
end

