-- ==== Sys2Proof/Machine/Place.lean ====
section
/-! DEFINITION. A word placed where the next step fetches it: carried code of a code message (R217) that runs in slot 0 of
core 0 (log 12). -/
namespace Sys2Proof.Machine

/-- R26 to R28: a fetch line that holds a word in slot 0, all of whose slots are branch targets, with its parity bits. -/
def lineOf (w : IWord) : List Byte :=
  let spar := if onesIn 96 w.toNat % 2 = 0 then 0 else 1
  let lw := 0x1F + spar * 2 ^ 14
  let lpar := if onesIn 32 lw % 2 = 0 then 0 else 1
  bytesOf 4 (lw + lpar * 2 ^ 19) ++ bytesOf 12 w.toNat ++ List.replicate 48 0

/-- R217: a code message that carries one line. -/
def codeMessage (w : IWord) : Message where
  dest := 0
  queue := 1
  hid := 16
  len := 4
  kind := .code
  prio := 0
  clines := 1
  src := 0
  agent := false
  msgid := 0
  payload := lineOf w

/-- R61, R217: the activation that the message started, about to issue its first instruction. -/
def codeSlot (x : Slot) (w : IWord) : Slot :=
  { x with
    mode := .running, wait := .none, pc := codeWindow, budget := 16777216, age := 0, sb := []
    act := some { serial := 0, queue := some 1, msg := codeMessage w, hid := 16, system := false, txn := none,
                  restart := false, gang := none, launch := none } }

/-- The package in which slot 0 of core 0 issues the word next. -/
def State.placeWord (s : State) (w : IWord) : State :=
  let s := { s with pairNext := none, forced := none, agenda := [], turn := 0, cur := (0, 0) }
  let s := { s with fe := { s.fe with trip := false } }
  s.modCore 0 (fun k =>
    let k := [1, 2, 3, 4].foldl (fun (k : Core) i => k.modSlot i (fun x => { x with wait := .mx })) k
    k.modSlot 0 (fun x => codeSlot x w))

end Sys2Proof.Machine
end

