-- ==== Sys2Proof/Machine/Step.lean ====
section
/-! DEFINITION. One step of the package, and a word placed for the next step. -/
namespace Sys2Proof.Machine

/-- One step: the second instruction of a pair; else the next due event; else the slot of a forced issue; else the next ready
slot issues (one more ready for 4,096 clocks is forced first, R70); else a core clock passes. -/
def step (s : State) : Host.Outcome State Fault Refusal :=
  if s.fe.trip then .fault .packageStopped
  else
    match s.pairNext with
    | some p => s.issueSecond p
    | none =>
      match s.agenda with
      | e :: rest => exec e { s with agenda := rest }
      | [] =>
        match s.forced with
        | some p => { s with forced := none, cur := p }.issueUnit
        | none =>
          match s.nextIssue with
          | some (c, i) =>
            if 4096 ≤ (s.slotOf c i).age then exec (.forcedIssue c i) s else (s.choose c i).issueUnit
          | none => .next s.tick

/-- The package in which the next step runs the instruction of the word (log 12). -/
def State.withFetchWord (s : State) (_nbits w : Nat) : State := s.placeWord (BitVec.ofNat 96 w)

end Sys2Proof.Machine
end

