-- ==== Sys2Proof/Safety.lean ====
section
/-! DEFINITION. What counts as a safe run, and what a step leaves unchanged. -/
namespace Sys2Proof.Safety
open Sys2Proof.Machine

/-- The step from a state is not refused. -/
def stepAllowed (s : State) : Prop := ∀ r, step s ≠ .refused r

/-- An instruction answers a next state, and the state is as P says. -/
def Gives (i : Instr) (s : State) (P : State → Prop) : Prop := ∃ t, exec i s = .next t ∧ P t

/-- A byte of a core's local memory. -/
def locByte (s : State) (c off : Nat) : Byte := smGet (fun _ => 0) (s.coreOf c).localMem off

/-- A byte of host memory, none when the model has not written it. -/
def hostCell (s : State) (off : Nat) : Option Byte := smGet (fun _ => none) s.hostMem off

/-- Every byte of memory reads as before: HBM, host memory, and the local memory of every core. -/
def SameMemory (s t : State) : Prop :=
  (∀ pa, t.rd8 pa = s.rd8 pa) ∧ (∀ off, hostCell t off = hostCell s off) ∧ ∀ c off, locByte t c off = locByte s c off

/-- Nothing outside the issuing core has changed. -/
def OnlyCore (s t : State) : Prop :=
  { t with cores := s.cores } = s ∧ ∀ c, c ≠ s.cur.1 → t.coreOf c = s.coreOf c

/-- Nothing outside the issuing slot has changed but RETIRED of its core, and no byte of memory has. -/
def OnlySlot (s t : State) : Prop :=
  OnlyCore s t ∧ { t.myCore with slots := s.myCore.slots, retired := s.myCore.retired } = s.myCore ∧
  (∀ i, i ≠ s.cur.2 → t.myCore.slotOf i = s.myCore.slotOf i) ∧ SameMemory s t

/-- R30, R112: control has passed to the next instruction and RETIRED has counted this one. -/
def Retired (s t : State) : Prop := t.me.pc = nextPc s.me.pc ∧ t.myCore.retired = s.myCore.retired + 1

/-- The instruction has completed and has changed nothing but the PC and RETIRED. -/
def Passed (s t : State) : Prop := OnlySlot s t ∧ Retired s t ∧ { t.me with pc := s.me.pc } = s.me

/-- The scalar file of t is that of s but for register d, which holds v; s0 reads zero whatever is written (R43). -/
def ScalarSet (s t : State) (d : Sreg) (v : Word) : Prop :=
  t.me.s d = (if d = 0 then 0 else v) ∧ ∀ r, r ≠ d → t.me.s r = s.me.s r

/-- The instruction has completed; it has written v to scalar register d and nothing else. -/
def WroteS (s t : State) (d : Sreg) (v : Word) : Prop :=
  OnlySlot s t ∧ Retired s t ∧ { t.me with pc := s.me.pc, sregs := s.me.sregs } = s.me ∧ ScalarSet s t d v

/-- The instruction has completed; it has written v to predicate d and nothing else; p0 stays true (R43). -/
def WroteP (s t : State) (d : Fin 8) (v : Bool) : Prop :=
  OnlySlot s t ∧ Retired s t ∧ { t.me with pc := s.me.pc, pregs := s.me.pregs } = s.me ∧
  t.me.p d = (if d = 0 then true else v) ∧ ∀ r, r ≠ d → t.me.p r = s.me.p r

/-- The instruction has completed; it has written v to mask d and nothing else; m0 stays all ones (R90). -/
def WroteM (s t : State) (d : Fin 8) (v : Word) : Prop :=
  OnlySlot s t ∧ Retired s t ∧ { t.me with pc := s.me.pc, mregs := s.me.mregs } = s.me ∧
  t.me.m d = (if d = 0 then BitVec.allOnes 64 else v) ∧ ∀ r, r ≠ d → t.me.m r = s.me.m r

/-- The instruction has completed; it has written v to pointer register d and nothing else. -/
def WrotePtr (s t : State) (d : Fin 8) (v : Ptr) : Prop :=
  OnlySlot s t ∧ Retired s t ∧ { t.me with pc := s.me.pc, ptrs := s.me.ptrs } = s.me ∧
  t.me.ptr d = v ∧ ∀ r, r ≠ d → t.me.ptr r = s.me.ptr r

/-- R137, R140: the vector file of t is that of s but for register d. Of the lanes of width w of register d, a lane below n under the
mask holds what f gives, one below n outside the mask keeps its value or becomes zero, and a lane from n on keeps its value. -/
def LanesSet (s t : State) (d : Vreg) (w n : Nat) (mask : Word) (zro : Bool) (f : Nat → Nat × Flags) : Prop :=
  (∀ r, r ≠ d → t.me.v r = s.me.v r) ∧
  ∀ i, i < 512 / w → Machine.laneOf w (t.me.v d) i =
    if i < n then (if mask.getLsbD i then (f i).1 % 2 ^ w else if zro then 0 else Machine.laneOf w (s.me.v d) i)
    else Machine.laneOf w (s.me.v d) i

/-- R113: the flags of t are those of s and those that the lanes under the mask set. -/
def FlagsFrom (s t : State) (n : Nat) (mask : Word) (f : Nat → Nat × Flags) : Prop :=
  ∀ b, b < 10 → t.me.flags.getLsbD b =
    (s.me.flags.getLsbD b || decide (∃ i, i < n ∧ mask.getLsbD i = true ∧ (f i).2.getLsbD b = true))

/-- R114, R128: SRSEED has advanced once under stochastic rounding and is otherwise unchanged. -/
def SeedAfter (s t : State) (r : Rnd) : Prop :=
  t.me.srseed = if s.me.modeOf r = 4 then srAdvance s.me.srseed else s.me.srseed

/-- R128: the state of the generator that an instruction with rounding field r draws from. -/
def seedOf (s : State) (r : Rnd) : BitVec 32 := if s.me.modeOf r = 4 then srAdvance s.me.srseed else s.me.srseed

/-- The instruction has completed; it has written the lanes of vector register d, its flags and SRSEED, and nothing else. -/
def WroteV (s t : State) (r : Rnd) (d : Vreg) (w n : Nat) (mask : Word) (zro : Bool) (f : Nat → Nat × Flags) : Prop :=
  OnlySlot s t ∧ Retired s t ∧ LanesSet s t d w n mask zro f ∧ FlagsFrom s t n mask f ∧ SeedAfter s t r ∧
  { t.me with pc := s.me.pc, vregs := s.me.vregs, flags := s.me.flags, srseed := s.me.srseed } = s.me

/-- The bytes from physical address pa on of HBM are bs in t; every other byte of memory reads as in s. -/
def Stored (s t : State) (pa : Nat) (bs : List Byte) : Prop :=
  (∀ a, t.rd8 a = if pa ≤ a ∧ a < pa + bs.length then bs.getD (a - pa) 0 else s.rd8 a) ∧
  (∀ off, hostCell t off = hostCell s off) ∧ ∀ c off, locByte t c off = locByte s c off

/-- The bytes from offset off on of the local memory of core c are bs in t; every other byte of memory reads as in s. -/
def StoredLoc (s t : State) (c off : Nat) (bs : List Byte) : Prop :=
  (∀ a, t.rd8 a = s.rd8 a) ∧ (∀ o, hostCell t o = hostCell s o) ∧
  ∀ d o, locByte t d o = if d = c ∧ off ≤ o ∧ o < off + bs.length then bs.getD (o - off) 0 else locByte s d o

/-- R231, R239, R241, R246, R286: an access of n bytes at va by the issuing slot, of kind w, goes to HBM of this package at physical
address pa, within one page, with nothing in its way: its atoms are readable, the host holds none of its lines, no tile is frozen or
under tenure, nothing waits at a home, in the cluster's buffer or on its way to another package, and the core has no cached line.
Results land at once (log 10). -/
structure Plain (s : State) (va : Word) (n : Nat) (w : Want) (pa : Nat) : Prop where
  onePage : va.toNat % 65536 + n ≤ 65536
  page : ∃ p, s.translate s.cur.1 s.me.asid.toNat va w = .ok p ∧ p.pa = pa ∧ p.host = false ∧ p.window = false
  here : paPkg pa = Config.pkg
  readable : s.unreadable pa n = false
  notHeld : ∀ inv, s.hostLine s.cur.1 pa n inv = none
  noTile : ∀ e ∈ s.tiles, e.2.state ≠ .frozen ∧ e.2.tenures.isEmpty = true
  noHeld : s.heldStores = []
  noOut : s.remoteOut = []
  noBuffer : smGet (fun _ => []) s.clusterBuf (clusterOf s.cur.1) = []
  noLine : s.myCore.cacheLines = []
  atOnce : s.relaxed = false

/-- The instruction has completed with the pointer of its addressing mode advanced and no other change to its slot but to scalar
register d, which holds v. -/
def LoadedS (s t : State) (m : AMode) (d : Sreg) (v : Word) : Prop :=
  Retired s t ∧ ScalarSet s t d v ∧ { t.me with pc := s.me.pc, sregs := s.me.sregs } = s.me.bump m

/-- The instruction has completed with the pointer of its addressing mode advanced and no other change to its slot. -/
def Bumped (s t : State) (m : AMode) : Prop := Retired s t ∧ { t.me with pc := s.me.pc } = s.me.bump m

/-- R249, R255: nothing stands in the way of the release of an instruction: no fault waits for it, no store waits at a home, and at pod
scope none for an acknowledgement. -/
def NoPending (s : State) (o : Order) : Prop :=
  o.rel = true → s.me.act.bind Activation.pendingFault = none ∧ s.heldStores = [] ∧
    (o.scope = .pod → (s.me.act.map (·.posted)).getD [] = [] ∧ ∀ b ∈ s.remoteOut, s.strongOwn b.who = false)

/-- R46, R94, R96, R172, R180: the instruction has completed with a command at the end of an engine's queue, its guard settled: the
command x with what it captured at issue, an entry with a lease for every destination register, and one for its token; the activation has
noted the command (R254). The slot has changed by f besides, and no byte of memory has changed. -/
def Queued (s t : State) (e : Engine) (tok : Tok) (dests : List Nat) (x : EngCmd) (f : Slot → Slot) : Prop :=
  let n := s.me.sbNext
  Retired s t ∧ SameMemory s t ∧
  (t.myCore.eng e).q = (s.myCore.eng e).q ++ [{ x with
    slot := s.cur.2, serial := (s.me.act.map (·.serial)).getD 0, asid := s.me.asid, system := s.isSystem, pc := s.me.pc,
    guard := none, tok := tok.map (fun _ => n + dests.length), dests := (List.range dests.length).map (n + ·), ord := s.serial + 1
    late := false, issued := s.order, joined := s.joinedOf s.cur.1 s.cur.2 }] ∧
  t.me.sb = s.me.sb ++ dests.mapIdx (fun k r => ⟨n + k, .arith, .vector, r, s.me.pc, 0, true, none, none, none, 0⟩) ++
    (match tok with | none => [] | some r => [⟨n + dests.length, .token, .scalar, r.val, s.me.pc, 0, false, none, none, none, 0⟩]) ∧
  { t.me with pc := s.me.pc, sb := s.me.sb, sbNext := s.me.sbNext } = { f s.me with
    act := (f s.me).act.map (fun (a : Activation) => { a with cmds := a.cmds ++ [⟨s.serial + 1, tok.map (·.val), e == .matrix⟩] }) }

/-- R172, R182: the engine may start its head command h: none runs, none is held by a fault, no guard of it is pending, nothing that
its slot gives it is still to come (R46), and no change of bank roles waits (R164). -/
def MayStart (s : State) (c : Nat) (e : Engine) (h : EngCmd) : Prop :=
  ((s.coreOf c).eng e).q.head? = some h ∧ ((s.coreOf c).eng e).running = none ∧ ((s.coreOf c).eng e).fault = none ∧ h.guard = none ∧
  h.late = false ∧ (s.coreOf c).rolePend = none ∧ h.blk = 0 ∧ h.pre = none ∧ (cmdOrder h.instr).acq = false ∧ (cmdOrder h.instr).rel = false

/-- The state in which the head command of an engine runs. -/
def started (s : State) (c : Nat) (e : Engine) : State :=
  { s.modEng c e (fun q => { q with running := some { status := 0 } }) with cur := (c, engSlot e) }

/-- The head command of an engine has started and waits for its completion with a status and results, and its flags are fl. -/
def Ran (t : State) (c : Nat) (e : Engine) (status : Nat) (fl : Flags) (results : List Vec) : Prop :=
  ((t.coreOf c).eng e).running = some { status := status, flags := fl, results := results }

/-- Control has passed to a target and RETIRED has counted the branch. -/
def Jumped (s t : State) (target : Word) : Prop := t.me.pc = target ∧ t.myCore.retired = s.myCore.retired + 1

/-- R62, R368: the slot that issued in s has ended its activation by an aborting fault of cause f at its PC: it drains, its record
says what R363 says with RES 0, its activation remembers how it ended and holds no submission, and no register of it has changed.
The issuing slot is the same. -/
def Aborted (s t : State) (cause : Nat) (addr : Word) (noretry : Bool) : Prop :=
  t.cur = s.cur ∧ t.me.mode = .draining ∧ t.me.wait = .none ∧ t.me.pc = s.me.pc ∧
  t.me.frec.cause = BitVec.ofNat 64 (s.cur.2 % 8 * 2 ^ 32 + cause % 256) ∧ t.me.frec.addr = addr ∧ t.me.frec.pc = s.me.pc ∧
  t.me.frec.msg = msgWord s.me.act ∧
  t.me.act.map (·.ending) = s.me.act.map (fun _ => some (Ending.fault cause noretry)) ∧
  t.me.act.map (·.heldSubs) = s.me.act.map (fun _ => []) ∧
  t.me.sregs = s.me.sregs ∧ t.me.vregs = s.me.vregs ∧ t.me.pregs = s.me.pregs ∧ t.me.mregs = s.me.mregs ∧ t.me.ptrs = s.me.ptrs ∧
  t.myCore.cntAbort = satInc s.myCore.cntAbort ∧ t.myCore.retired = s.myCore.retired

/-- R364: slot i of core c has stopped in fault service with a resumable fault: its scoreboard has moved into the record, its
restart point, CYCLE and the time stand in it, the porter has a work item, and no register of the slot has changed. -/
def Stopped (s t : State) (c i : Nat) (cause : Nat) (addr pc rpc : Word) : Prop :=
  (t.slotOf c i).mode = .faultService ∧ (t.slotOf c i).wait = .none ∧ (t.slotOf c i).sb = [] ∧
  (t.slotOf c i).frec.saved = (s.slotOf c i).sb ∧
  (t.slotOf c i).frec.cause = BitVec.ofNat 64 (i % 8 * 2 ^ 32 + 2 ^ 31 + cause % 256) ∧
  (t.slotOf c i).frec.addr = addr ∧ (t.slotOf c i).frec.pc = pc ∧ (t.slotOf c i).frec.rpc = rpc ∧
  (t.slotOf c i).frec.msg = msgWord (s.slotOf c i).act ∧
  (t.slotOf c i).frec.cycle = s.cycle ∧ (t.slotOf c i).frec.since = s.wall ∧
  { t.slotOf c i with
    mode := (s.slotOf c i).mode, wait := (s.slotOf c i).wait, sb := (s.slotOf c i).sb, sbWait := (s.slotOf c i).sbWait
    frec := (s.slotOf c i).frec } = s.slotOf c i ∧
  (t.coreOf c).work = (s.coreOf c).work ++ [.service i] ∧
  (∀ j, j ≠ i → (t.coreOf c).slotOf j = (s.coreOf c).slotOf j) ∧ (∀ d, d ≠ c → t.coreOf d = s.coreOf d) ∧ SameMemory s t

/-- R344, R345, R350: the next packet of host queue q lies in its ring at va, has been read as bs, is no BADPACKET, has type ty, and may
start. -/
structure PacketNext (s : State) (q ty : Nat) (va : Word) (bs : List Byte) : Prop where
  top : (s.hq q).levels = []
  runs : (s.hq q).state = .running
  stays : (s.hq q).disabling = false
  written : (s.hq q).ridx < (s.hq q).widx
  lies : (s.hq q).ringAt (s.hq q).ridx = va
  read : (s.hq q).preOf va = some bs
  wanted : (s.hq q).cancelled.contains (s.hq q).ridx = false
  type : pktType bs = ty
  sound : packetOk bs = true
  steady : s.fe.updating = false
  up : s.fe.booting = false
  few : (s.hq q).started.length < 64
  alone : pktBar bs = true ∨ ty = 7 → (s.hq q).started = []
  clears : ∃ p, s.atomicPage (frontWho (s.hq q).asid va) true 8 = .ok p

/-- R340, R344: host queue q has started its next packet p: RIDX and the count of started packets have moved on. -/
def Began (s t : State) (q : Nat) (p : Started) : Prop :=
  (t.hq q).ridx = (s.hq q).ridx + 1 ∧ (t.hq q).started.length = (s.hq q).started.length + 1 ∧ (t.hq q).started.getLast? = some p

end Sys2Proof.Safety
end

