-- ==== Sys2Proof/Certificates/Slice0/Obligations.lean ====
section
/-! DEFINITION. The statements for the provers. Each docstring names the rules of spec/ that the statement draws on; OBLIGATIONS.json says which it states whole. -/
open Sys2Proof Sys2Proof.Machine Sys2Proof.Safety

/-- R386, R43, R91, R162, R114, R198: the package right after reset. Every byte of HBM and of the local memories reads zero; every
register of a slot reads zero but for SRSEED, s0, p0 and m0; BANK_ROLE, WINB, RQUEUE, MX_ASCALE and the sequencer's period have the
values of their chapters; round 1 is open; no host queue is enabled; no slot runs. Three of these are the model's: local memories of
zeros, and the values that R91 gives at the start of an activation standing in a free slot (log 14), and round 1 open, since the state is
that after step 5 of R386 (log 19). The memories and the table of tiles stand in their canonical form, which is the model's own (log 17). -/
def Obligations.ResetValues : Prop :=
  let s := State.reset
  (∀ pa, s.rd8 pa = 0) ∧ (∀ c off, locByte s c off = 0) ∧
  (∀ c i, (s.slotOf c i).mode = .free ∧ (s.slotOf c i).flags = 0 ∧ (s.slotOf c i).rmode = 0 ∧ (s.slotOf c i).srseed = 1 ∧
    (∀ r, (s.slotOf c i).s r = 0) ∧ (∀ r, (s.slotOf c i).v r = 0) ∧ (∀ r, (s.slotOf c i).p r = decide (r = 0)) ∧
    ∀ r, (s.slotOf c i).m r = if r = 0 then BitVec.allOnes 64 else 0) ∧
  (∀ c, (s.coreOf c).bankRole = 0xAAAAAA5500000000 ∧ (s.coreOf c).winb = 0x3F ∧ (s.coreOf c).rqueue = 1 ∧ (s.coreOf c).ascale = 0x3F800000 ∧
    (s.coreOf c).retired = 0 ∧ (s.coreOf c).missCount = 0 ∧ (s.coreOf c).cntAbort = 0 ∧ (s.coreOf c).svc = .inService) ∧
  s.cycle = 0 ∧ s.seq.round = 1 ∧ s.seq.period = 8 ∧ (∀ q, (s.hq q).state = .disabled) ∧ s.fe.cap = 2600 ∧ s.fe.podTimeout = 200 ∧
  Memory.wf s.hbm ∧ HostMemory.wf s.hostMem ∧ (∀ c, Memory.wf (s.coreOf c).localMem) ∧ smWf (fun _ => {}) s.tiles

/-- R26 to R30, R48, R50, R70: one step. What is due runs first; else the slot that the picker chooses issues: when the word at its PC,
in a line whose parity holds and whose line word is legal, decodes to an instruction, the step is exec of it, in the state in
which the slot has been chosen; of a pair the second instruction runs at the next step, with the special register that the first one has
written as it stood before the pair, where it does not have to wait. Around exec the step takes the fault of an unreadable register
(R371), notes the tokens that the instruction reads (R254) and whose error it has met (R313), and ends what a response of the host let it
do (R337). That due events come first and the second of a pair at the next step is the model's order (log 2), and so is that a second
one that must wait issues alone later (log 61). -/
def Obligations.StepRunsDecoded : Prop :=
  ∀ s : State, s.fe.trip = false →
    let issued := fun (w : State) (ins : Instr) =>
      if w.me.badRead ins = true then .next ((w.abortMe ⟨0x09, 0, 0, 0⟩).noteOwn w.cur.1 w.cur.2 true)
      else ownAfter w.cur ins (afterIssue w.cur (exec ins ((w.mend ins).noteTokens ins)))
    let runs := fun (w : State) (ins : Instr) => step s = issued w ins ∧
      (w.me.badRegs = [] → (w.myAct.map (·.cmds)).getD [] = [] → ∀ t, exec ins w = .next t → t.linePass = [] →
        (t.slotOf w.cur.1 w.cur.2).act.bind (·.pairSr) = none →
        (∀ r, (t.slotOf w.cur.1 w.cur.2).act.bind (·.ending) ≠ some (.fault 0x09 r)) → step s = .next t)
    (∀ e rest, s.pairNext = none → s.agenda = e :: rest → step s = exec e { s with agenda := rest }) ∧
    (∀ p : PairRest, s.pairNext = some p →
      let u := { s with pairNext := none, cur := (p.core, p.slot) }
      let w := if p.sr.isSome then u.modMyAct (fun a => { a with pairSr := p.sr }) else u
      let ready := w.me.mode = .running ∧ w.me.wait = .none ∧ w.hazard p.core p.slot none p.instr = false
      (ready → p.was = none → runs w p.instr) ∧
      (ready → ∀ q, p.was = some q → step s = (match issued (w.putSr p.core p.slot q) p.instr with
        | .next t => .next (t.putSr p.core p.slot (w.srIs p.core p.slot q)) | .fault f => .fault f | .refused r => .refused r)) ∧
      (¬ ready → step s = .next w)) ∧
    ∀ (c i : Nat) (bs : List Byte), s.pairNext = none → s.agenda = [] → s.forced = none → s.nextIssue = some (c, i) →
      (s.slotOf c i).age < 4096 → (s.choose c i).entryFault = none →
      let w := (s.choose c i).beginUnit
      let pc := (s.slotOf c i).pc
      let k := pcSlot pc
      let lw := lineWord bs
      k ≤ 4 → (s.choose c i).fetchLine c i pc false = .ok bs → lparOk lw = true → sparOk bs k = true → lineOk lw = true →
      (∀ ins, (k = 4 ∨ lwBit lw (5 + k) = false) → decode (slotWord bs k) = .instr ins → runs w ins) ∧
      ∀ ins j, k < 4 → lwBit lw (5 + k) = true → sparOk bs (k + 1) = true → decode (slotWord bs k) = .instr ins →
        decode (slotWord bs (k + 1)) = .instr j → pairOk ins j = true →
        runs { w with pairNext := some ⟨c, i, j, w.srOf j, w.srWas ins⟩ } ins

/-- R36 to R45, R50 and the worked encodings of the chapters: words that the spec writes out decode to the instructions that it names; an
opcode of no instruction and a field that must be zero do not. -/
def Obligations.DecodeWords : Prop :=
  let g : Guard := ⟨false, 0⟩
  decode 0#96 = .illegalInstruction ∧ decode 0xFF0000000000000000000000#96 = .illegalInstruction ∧
  decode 0xAA0000000000000000000001#96 = .illegalEncoding ∧
  decode 0x1000C4000000800000000064#96 = .instr (.add g 3 4 (.imm 100)) ∧
  decode 0x630105086800008000000000#96 = .instr (.vfma g .f32 false .rtz ⟨0, false⟩ 4 (.reg 5) (.vec (.reg 2)) (.reg 6)) ∧
  decode 0x3810000000000000FFFFFFFA#96 = .instr (.br ⟨false, 1⟩ 0xFFFFFFFA) ∧
  decode 0x2901C200000100000000070C#96 = .instr (.bfx g true 7 2 12 7) ∧
  decode 0x300083100002000000000000#96 = .instr (.cmp g .lt 2 3 (.reg 4)) ∧
  decode 0x360040000001800000000003#96 = .instr (.ptadv g true 1 (.imm 3)) ∧
  decode 0xA20004149002480C00000001#96 = .instr (.mxldv g (some 9) true 1 4 5 ⟨.pkg, true, false⟩) ∧
  decode 0xAA0000000000000000000000#96 = .instr (.mxwait g)

/-- R36 to R45, R50: the encoding names its instruction. Every well-formed instruction that has a word decodes from it, with every operand
at every value that the encoding admits; and a word that decodes is the word of what it decodes to. -/
def Obligations.DecodeEncode : Prop :=
  (∀ (i : Instr) (w : IWord), wellFormed i = true → encode i = some w → decode w = .instr i) ∧
  ∀ (i : Instr) (w : IWord), decode w = .instr i → encode i = some w ∧ wellFormed i = true

/-- R45, R46, R112: an instruction whose guard does not act completes with no effect, and counts as retired; a command with a token
register gives it 0. For every instruction that has a word. -/
def Obligations.GuardOffPasses : Prop :=
  ∀ (s : State) (i : Instr) (f : Fields), encodeFields i = some f → s.me.acts (guardOf i) = false →
    s.me.pending .pred (guardOf i).p.val = false →
    (f.tok = false → Gives i s (fun t => Passed s t)) ∧
    (f.tok = true → Gives i s (fun t => WroteS s t (Fin.ofNat 64 f.c.toNat) 0))

/-- R381: every step of a package that has not tripped answers a next state; one that has tripped has stopped. -/
def Obligations.EveryStepAnswers : Prop :=
  ∀ s : State, (s.fe.trip = false → ∃ t, step s = .next t) ∧ (s.fe.trip = true → step s = .fault .packageStopped)

/-- Log 17: every step keeps the memories and the table of tiles in their canonical form: addresses rise, and no entry repeats what an
unlisted address reads as. The form is the model's own; it makes equal memories equal data. -/
def Obligations.MemoryStaysCanonical : Prop :=
  ∀ s t : State, step s = .next t →
    Memory.wf s.hbm → HostMemory.wf s.hostMem → (∀ c, Memory.wf (s.coreOf c).localMem) → smWf (fun _ => {}) s.tiles →
    Memory.wf t.hbm ∧ HostMemory.wf t.hostMem ∧ (∀ c, Memory.wf (t.coreOf c).localMem) ∧ smWf (fun _ => {}) t.tiles
/-- R41, R43, R98, R99: the scalar instructions whose result is written in the next clock, for every register number, s0 as a
destination included, and both forms of the second operand; counts of bits, extensions, bit fields, constants and SEL. -/
def Obligations.ScalarResults : Prop :=
  (∀ (s : State) (g : Guard) (d a : Sreg) (b : Src), s.me.acts g = true →
    let x := s.me.s a
    let y := match b with | .reg r => s.me.s r | .imm v => v.signExtend 64
    let n := y.toNat % 64
    Gives (.add g d a b) s (fun t => WroteS s t d (x + y)) ∧
    Gives (.sub g d a b) s (fun t => WroteS s t d (x - y)) ∧
    Gives (.and g d a b) s (fun t => WroteS s t d (x &&& y)) ∧
    Gives (.or g d a b) s (fun t => WroteS s t d (x ||| y)) ∧
    Gives (.xor g d a b) s (fun t => WroteS s t d (x ^^^ y)) ∧
    Gives (.andn g d a b) s (fun t => WroteS s t d (x &&& ~~~y)) ∧
    Gives (.shl g d a b) s (fun t => WroteS s t d (BitVec.ofNat 64 (x.toNat * 2 ^ n))) ∧
    Gives (.shr g d a b) s (fun t => WroteS s t d (BitVec.ofNat 64 (x.toNat / 2 ^ n))) ∧
    Gives (.sar g d a b) s (fun t => WroteS s t d (BitVec.ofInt 64 (x.toInt / 2 ^ n))) ∧
    Gives (.rot g d a b) s (fun t => WroteS s t d (x.rotateLeft n)) ∧
    Gives (.min g d a b) s (fun t => WroteS s t d (if x.toInt ≤ y.toInt then x else y)) ∧
    Gives (.max g d a b) s (fun t => WroteS s t d (if x.toInt ≥ y.toInt then x else y)) ∧
    Gives (.minu g d a b) s (fun t => WroteS s t d (if x.toNat ≤ y.toNat then x else y)) ∧
    Gives (.maxu g d a b) s (fun t => WroteS s t d (if x.toNat ≥ y.toNat then x else y))) ∧
  ∀ (s : State) (g : Guard) (d a : Sreg), s.me.acts g = true →
    let x := s.me.s a
    (∃ n : Nat, Gives (.clz g d a) s (fun t => WroteS s t d (BitVec.ofNat 64 n)) ∧
      n ≤ 64 ∧ (∀ i, i < n → x.getLsbD (63 - i) = false) ∧ (n < 64 → x.getLsbD (63 - n) = true)) ∧
    (∃ n : Nat, Gives (.ctz g d a) s (fun t => WroteS s t d (BitVec.ofNat 64 n)) ∧
      n ≤ 64 ∧ (∀ i, i < n → x.getLsbD i = false) ∧ (n < 64 → x.getLsbD n = true)) ∧
    Gives (.popc g d a) s (fun t =>
      WroteS s t d (BitVec.ofNat 64 ((List.range 64).filter (fun i => x.getLsbD i)).length)) ∧
    (∀ ty : Ty, ty.isInt = true → Gives (.ext g ty d a) s (fun t =>
      WroteS s t d (if ty.isSigned then (x.setWidth ty.width).signExtend 64 else (x.setWidth ty.width).setWidth 64))) ∧
    (∀ (sg : Bool) (p l : Fin 64), p.val + l.val + 1 ≤ 64 → Gives (.bfx g sg d a p l) s (fun t =>
      let v := x.toNat / 2 ^ p.val % 2 ^ (l.val + 1)
      WroteS s t d (if sg then BitVec.ofInt 64 (if v < 2 ^ l.val then (v : Int) else v - 2 ^ (l.val + 1)) else BitVec.ofNat 64 v))) ∧
    (∀ p l : Fin 64, p.val + l.val + 1 ≤ 64 → ∃ v : Word, Gives (.bfi g d a p l) s (fun t => WroteS s t d v) ∧
      ∀ i, i < 64 → v.getLsbD i = if p.val ≤ i ∧ i ≤ p.val + l.val then x.getLsbD (i - p.val) else (s.me.s d).getLsbD i) ∧
    (∀ imm : BitVec 32,
      Gives (.li g false d imm) s (fun t => WroteS s t d (imm.signExtend 64)) ∧
      Gives (.li g true d imm) s (fun t => WroteS s t d (imm.setWidth 64)) ∧
      Gives (.lih g d imm) s (fun t => WroteS s t d (BitVec.ofNat 64 (imm.toNat * 2 ^ 32 + (s.me.s d).toNat % 2 ^ 32)))) ∧
    (∀ (p : Fin 8) (b : Src), Gives (.sel g d p a b) s (fun t =>
      WroteS s t d (if s.me.p p then x else match b with | .reg r => s.me.s r | .imm v => v.signExtend 64)))

/-- R98, R93: multiplication and division, with the corners of DivS and RemS, for results that land at once (the model's
relaxed running, log 10, is the subject of LateResultsWait). -/
def Obligations.MultiplyDivideResults : Prop :=
  ∀ (s : State) (g : Guard) (d a : Sreg) (b : Src), s.me.acts g = true → s.relaxed = false →
    let x := s.me.s a
    let y := match b with | .reg r => s.me.s r | .imm v => v.signExtend 64
    Gives (.mul g d a b) s (fun t => WroteS s t d (x * y)) ∧
    Gives (.mulh g d a b) s (fun t => WroteS s t d (BitVec.ofInt 64 (x.toInt * y.toInt / 2 ^ 64))) ∧
    Gives (.mulhu g d a b) s (fun t => WroteS s t d (BitVec.ofNat 64 (x.toNat * y.toNat / 2 ^ 64))) ∧
    Gives (.divu g d a b) s (fun t =>
      WroteS s t d (if y = 0 then BitVec.allOnes 64 else BitVec.ofNat 64 (x.toNat / y.toNat))) ∧
    Gives (.remu g d a b) s (fun t =>
      WroteS s t d (if y = 0 then x else BitVec.ofNat 64 (x.toNat - y.toNat * (x.toNat / y.toNat)))) ∧
    Gives (.div g d a b) s (fun t =>
      WroteS s t d (if y = 0 then BitVec.allOnes 64
        else if x.toInt = -2 ^ 63 ∧ y.toInt = -1 then x
        else BitVec.ofInt 64 (x.toInt.tdiv y.toInt))) ∧
    Gives (.rem g d a b) s (fun t =>
      WroteS s t d (if y = 0 then x
        else if x.toInt = -2 ^ 63 ∧ y.toInt = -1 then 0
        else BitVec.ofInt 64 (x.toInt - y.toInt * x.toInt.tdiv y.toInt)))

/-- R90, R100 to R103, R109: compares, predicate logic, predicate moves and mask tests; the mask instructions; m0 reads as ones and
discards writes. -/
def Obligations.PredicateAndMaskResults : Prop :=
  (∀ (s : State) (g : Guard) (d : Fin 8), s.me.acts g = true →
    (∀ (c : Cond) (a : Sreg) (b : Src),
      let x := s.me.s a
      let y := match b with | .reg r => s.me.s r | .imm v => v.signExtend 64
      Gives (.cmp g c d a b) s (fun t => WroteP s t d (match c with
        | .eq => decide (x = y) | .ne => decide (x ≠ y)
        | .lt => decide (x.toInt < y.toInt) | .ge => decide (x.toInt ≥ y.toInt)
        | .ltu => decide (x.toNat < y.toNat) | .geu => decide (x.toNat ≥ y.toNat)
        | .tst => decide (x &&& y ≠ 0) | .ntst => decide (x &&& y = 0)))) ∧
    (∀ (op : POp) (a b : Fin 8),
      let x := s.me.p a
      let y := s.me.p b
      Gives (.plog g op d a b) s (fun t => WroteP s t d (match op with
        | .and => x && y | .or => x || y | .xor => x ^^ y | .andn => x && !y | .nand => !(x && y) | .nor => !(x || y)))) ∧
    (∀ a : Fin 8, Gives (.pmov g (.mov d a)) s (fun t => WroteP s t d (s.me.p a)) ∧
      Gives (.pmov g (.not d a)) s (fun t => WroteP s t d (!s.me.p a)) ∧
      ∀ r : Sreg, Gives (.pmov g (.get r a)) s (fun t => WroteS s t r (if s.me.p a then 1 else 0))) ∧
    (∀ a : Sreg, Gives (.pmov g (.nz d a)) s (fun t => WroteP s t d (decide (s.me.s a ≠ 0)))) ∧
    (∀ v : Bool, Gives (.pmov g (.imm d v)) s (fun t => WroteP s t d v)) ∧
    (∀ (c : MCond) (ty : Ty) (m : Fin 8), ty.isMaskTy = true →
      let bit := fun i => (s.me.m m).getLsbD i
      Gives (.tstm g c ty d m) s (fun t => WroteP s t d (match c with
        | .any => decide (∃ i, i < ty.lanes ∧ bit i = true)
        | .all => decide (∀ i, i < ty.lanes → bit i = true)
        | .none => decide (∀ i, i < ty.lanes → bit i = false))))) ∧
  ∀ (s : State) (g : Guard) (d a b : Fin 8), s.me.acts g = true →
    let x := s.me.m a
    Gives (.mkand g d a b) s (fun t => WroteM s t d (x &&& s.me.m b)) ∧
    Gives (.mkor g d a b) s (fun t => WroteM s t d (x ||| s.me.m b)) ∧
    Gives (.mkxor g d a b) s (fun t => WroteM s t d (x ^^^ s.me.m b)) ∧
    Gives (.mknot g d a) s (fun t => WroteM s t d (~~~x)) ∧
    (∀ r : Sreg, Gives (.mkset g d (.reg r)) s (fun t => WroteM s t d (s.me.s r)) ∧
      Gives (.mkget g r a) s (fun t => WroteS s t r x)) ∧
    (∀ v : BitVec 32, Gives (.mkset g d (.imm v)) s (fun t => WroteM s t d (v.signExtend 64))) ∧
    ∀ (ty : Ty) (r : Sreg), ty.isMaskTy = true →
      Gives (.mkpop g ty r a) s (fun t =>
        WroteS s t r (BitVec.ofNat 64 ((List.range ty.lanes).filter (fun i => x.getLsbD i)).length)) ∧
      ∃ n : Nat, Gives (.mkfst g ty r a) s (fun t => WroteS s t r (BitVec.ofNat 64 n)) ∧
        n ≤ ty.lanes ∧ (∀ i, i < n → x.getLsbD i = false) ∧ (n < ty.lanes → x.getLsbD n = true)

/-- R104 to R107: setting, reading and advancing pointers; CUR wraps at LIMIT, also from below. -/
def Obligations.PointerResults : Prop :=
  ∀ (s : State) (g : Guard) (d : Fin 8) (a : Sreg), s.me.acts g = true →
    let p := s.me.ptr d
    let x := s.me.s a
    let wrap := fun (limit : BitVec 32) (n : Int) => if limit = 0 then BitVec.ofInt 64 n else BitVec.ofInt 64 (n % (limit.toNat : Int))
    (∀ b : Src,
      let y := match b with | .reg r => s.me.s r | .imm v => v.signExtend 64
      Gives (.ptset g (.all b) d a) s (fun t => WrotePtr s t d ⟨x, 0, y.setWidth 32, BitVec.ofNat 32 (y.toNat / 2 ^ 32)⟩) ∧
      Gives (.ptadv g false d b) s (fun t => WrotePtr s t d { p with cur := wrap p.limit (p.cur.toNat + y.toInt) }) ∧
      Gives (.ptadv g true d b) s (fun t => WrotePtr s t d { p with cur := wrap p.limit (p.cur.toNat + y.toInt * p.step.toInt) })) ∧
    Gives (.ptset g .base d a) s (fun t => WrotePtr s t d { p with base := x }) ∧
    Gives (.ptset g .cur d a) s (fun t => WrotePtr s t d { p with cur := wrap p.limit x.toNat }) ∧
    Gives (.ptset g .step d a) s (fun t => WrotePtr s t d { p with step := x.setWidth 32 }) ∧
    Gives (.ptset g .limit d a) s (fun t =>
      WrotePtr s t d { p with limit := x.setWidth 32, cur := wrap (x.setWidth 32) p.cur.toNat }) ∧
    ∀ (f : PtGet) (e : Sreg) (q : Fin 8), Gives (.ptget g f e q) s (fun t => WroteS s t e (match f with
      | .addr => (s.me.ptr q).base + (s.me.ptr q).cur
      | .base => (s.me.ptr q).base
      | .cur => (s.me.ptr q).cur
      | .step => (s.me.ptr q).step.signExtend 64
      | .limit => (s.me.ptr q).limit.setWidth 64))

/-- R81, R86: NOP has no effect; PRIO sets LEVEL under the ceiling and answers the old level. -/
def Obligations.NopAndPrio : Prop :=
  ∀ (s : State) (g : Guard), s.me.acts g = true →
    Gives (.nop g) s (fun t => Passed s t) ∧
    ∀ (d : Sreg) (b : Src),
      let req := match b with | .reg r => (s.me.s r).toNat | .imm v => v.toNat
      Gives (.prio g d b) s (fun t => OnlySlot s t ∧ Retired s t ∧
        t.me.level = Nat.min req s.me.ceil ∧ ScalarSet s t d (BitVec.ofNat 64 s.me.level) ∧
        { t.me with pc := s.me.pc, sregs := s.me.sregs, level := s.me.level } = s.me)

/-- R32, R82, R83, R85: branches, calls and LOOP to a target that passes its check; a call links the next PC; LOOP counts down,
saturates at zero and falls through at zero. -/
def Obligations.BranchesTaken : Prop :=
  ∀ (s : State) (g : Guard) (imm : BitVec 32), s.me.acts g = true →
    let pc := s.me.pc
    let target := (pc &&& ~~~(0x3F#64)) + (imm.sshiftRight 3).signExtend 64 * 64 + BitVec.ofNat 64 (imm.toNat % 8)
    let next := if pc.toNat % 64 < 4 then pc + 1 else (pc &&& ~~~(0x3F#64)) + 64
    let ok := fun (a : Word) => s.checkTarget s.cur.1 s.cur.2 a = .ok ()
    (ok target →
      Gives (.br g imm) s (fun t => OnlySlot s t ∧ Jumped s t target ∧ { t.me with pc := pc } = s.me) ∧
      (∀ d : Sreg, Gives (.jal g d imm) s (fun t => OnlySlot s t ∧ Jumped s t target ∧ ScalarSet s t d next ∧
        { t.me with pc := pc, sregs := s.me.sregs } = s.me)) ∧
      (∀ d : Sreg, 1 < (s.me.s d).toNat → Gives (.loop g d imm) s (fun t => OnlySlot s t ∧ Jumped s t target ∧
        ScalarSet s t d (s.me.s d - 1) ∧ { t.me with pc := pc, sregs := s.me.sregs } = s.me))) ∧
    (∀ d a : Sreg, ok (s.me.s a + imm.signExtend 64) →
      Gives (.jalr g d a imm) s (fun t => OnlySlot s t ∧ Jumped s t (s.me.s a + imm.signExtend 64) ∧ ScalarSet s t d next ∧
        { t.me with pc := pc, sregs := s.me.sregs } = s.me)) ∧
    (∀ d : Sreg, (s.me.s d).toNat ≤ 1 → Gives (.loop g d imm) s (fun t => WroteS s t d 0))

/-- R32, R83, R85, R362: BR, JAL, JALR and a LOOP that goes on, whose target has a slot number above 4, is not canonical, or lies in a line
whose parity holds and whose TGT bit for the slot is clear, take the branch-target fault, with the target in FAULT_ADDR, and write no register. Outside the
porter, in an activation of no gang. -/
def Obligations.BranchTargetFaults : Prop :=
  ∀ (s : State) (g : Guard) (d a : Sreg) (imm : BitVec 32), s.me.acts g = true → s.cur.2 ≠ 4 → s.me.act.bind (·.gang) = none →
    let bad := fun (target : Word) => 5 ≤ target.toNat % 64 ∨ canonical target = false ∨
      ∃ line, s.fetchLine s.cur.1 s.cur.2 target false = .ok line ∧ lparOk (lineWord line) = true ∧ lwBit (lineWord line) (target.toNat % 64) = false
    let near := (s.me.pc &&& ~~~(0x3F#64)) + (imm.sshiftRight 3).signExtend 64 * 64 + BitVec.ofNat 64 (imm.toNat % 8)
    let far := s.me.s a + imm.signExtend 64
    (bad far → Gives (.jalr g d a imm) s (fun t => Aborted s t 0x03 far false)) ∧
    (bad near → Gives (.br g imm) s (fun t => Aborted s t 0x03 near false) ∧ Gives (.jal g d imm) s (fun t => Aborted s t 0x03 near false) ∧
      (1 < (s.me.s d).toNat → Gives (.loop g d imm) s (fun t => Aborted s t 0x03 near false)))

/-- R5, R6, R48, R86, R93, R110, R112 to R114, R122: MFSR reads the register's value at issue, the second instruction of a pair the one
from before the pair; here the registers of the slot, the counters, and the registers of the core that software reads most. CORE_ID is the
global index of R15, whose package id is a constant of the model (log 5). Results land at once (log 10 for the model's relaxed running).
MTSR to the registers of the slot writes their RW fields, to PRIO LEVEL alone, FLAGS with the bits that engine commands have set in this
clock, a reserved RMODE value is not stored, and nothing else changes; MTSR to a register marked system from an activation that is none
takes a protection fault and writes nothing. -/
def Obligations.SpecialRegisters : Prop :=
  (∀ (s : State) (g : Guard) (d : Sreg), s.me.acts g = true → s.relaxed = false →
    let reads := fun (n : BitVec 12) (v : Word) => Gives (.mfsr g d n) s (fun t => WroteS s t d v)
    (∀ n v, s.me.act.bind (·.pairSr) = some v → reads n v) ∧
    (s.me.act.bind (·.pairSr) = none →
    (∀ n, sregAssigned n.toNat = true → reads n (s.readSr n.toNat)) ∧
    reads 0x000 (BitVec.ofNat 64 (Config.pkg * 4096 + s.cur.1)) ∧ reads 0x001 (BitVec.ofNat 64 s.cur.2) ∧
    reads 0x002 s.cycle ∧ reads 0x003 s.myCore.retired ∧
    reads 0x010 s.me.msgId ∧ reads 0x011 s.me.msgSrc ∧ reads 0x012 s.me.msgKind ∧ reads 0x013 s.me.msgLen ∧ reads 0x014 s.me.msgBase ∧
    reads 0x020 s.me.txnNum ∧ reads 0x021 s.me.tileMap ∧ reads 0x030 s.myCore.bankRole ∧
    reads 0x031 (BitVec.ofNat 64 (s.me.ceil % 32 * 2 ^ 10 + Nat.max s.me.level s.me.inherited % 32 * 2 ^ 5 + s.me.level % 32)) ∧
    reads 0x032 (BitVec.ofNat 64 (s.me.budget % 2 ^ 33)) ∧
    reads 0x040 (s.me.flags.setWidth 64) ∧ reads 0x041 (s.me.rmode.setWidth 64) ∧ reads 0x042 (s.me.srseed.setWidth 64) ∧
    reads 0x050 s.me.frec.cause ∧ reads 0x051 s.me.frec.addr ∧ reads 0x052 s.me.frec.pc ∧ reads 0x053 s.me.frec.msg ∧
    reads 0x054 s.me.frec.sb ∧ reads 0x134 s.me.frec.rpc ∧
    reads 0x080 (s.me.detRound.setWidth 64) ∧ reads 0x081 s.me.detSpill ∧ reads 0x101 s.me.gangInfo ∧
    reads 0x118 (s.me.asid.setWidth 64) ∧ reads 0x119 s.myCore.qasidLo ∧ reads 0x11A s.myCore.qasidHi ∧
    reads 0x11F s.me.launchInfo ∧ reads 0x138 (s.myCore.brkEn.setWidth 64) ∧
    reads 0x137 (BitVec.ofNat 64 (s.myCore.cntLate.toNat * 2 ^ 48 + s.myCore.cntErr.toNat * 2 ^ 32 + s.myCore.cntAbort.toNat)))) ∧
  ∀ (s : State) (g : Guard) (a : Sreg), s.me.acts g = true →
    let v := s.me.s a
    let writes := fun (n : BitVec 12) (f : Slot → Slot) =>
      Gives (.mtsr g n a) s (fun t => OnlySlot s t ∧ Retired s t ∧ { t.me with pc := s.me.pc } = f s.me)
    writes 0x031 (fun x => { x with level := Nat.min (v.toNat % 32) x.ceil }) ∧
    writes 0x040 (fun x => { x with flags := v.setWidth 10 ||| x.engFlags }) ∧
    writes 0x041 (fun x => { x with rmode := if v.toNat % 8 ≤ 4 then v.setWidth 3 else x.rmode }) ∧
    writes 0x042 (fun x => { x with srseed := v.setWidth 32 }) ∧
    writes 0x080 (fun x => { x with detRound := v.setWidth 32 }) ∧
    writes 0x103 (fun x => { x with cbRow := v.setWidth 8 }) ∧
    writes 0x136 (fun x => { x with cmapSel := v.setWidth 6 }) ∧
    writes 0x002 (fun x => x) ∧
    ∀ n : BitVec 12, n = 0x030 ∨ n = 0x109 ∨ n = 0x119 ∨ n = 0x11A ∨ n = 0x120 ∨ n = 0x138 → s.isSystem = false →
      s.me.act.bind (·.gang) = none → Gives (.mtsr g n a) s (fun t => Aborted s t 0x07 0 false)

/-- R50, R60, R69, R362, R368, R376: TRAP ends the activation by the aborting fault 0x0E with Zext(IMM, 32) in FAULT_ADDR, in an activation
of no gang; one of the porter ends its activation, where it has one, and forwards a fault it was serving. The illegal-instruction trap ends the
activation by the aborting fault 0x01 with FAULT_ADDR 0. -/
def Obligations.TrapsAbort : Prop :=
  (∀ (s : State) (g : Guard) (noretry : Bool) (imm : BitVec 32), s.me.acts g = true →
    (s.cur.2 ≠ 4 → s.me.act.bind (·.gang) = none →
      Gives (.trap g noretry imm) s (fun t => Aborted s t 0x0E (imm.setWidth 64) noretry)) ∧
    (s.cur.2 = 4 → Gives (.trap g noretry imm) s (fun t => t.myCore.serving = none ∧
      t.myCore.cntAbort = satInc s.myCore.cntAbort ∧ t.me.frec.cause = BitVec.ofNat 64 (4 * 2 ^ 32 + 0x0E) ∧
      t.me.frec.addr = imm.setWidth 64 ∧ t.me.frec.pc = s.me.pc ∧
      (s.me.act.isSome = true → t.me.mode = .draining ∧ t.me.act.map (·.ending) = some (some (.fault 0x0E false))) ∧
      ∀ i, s.myCore.serving = some (.service i) → t.myCore.work = .forward i :: s.myCore.work))) ∧
  ∀ s : State, s.cur.2 ≠ 4 → s.me.act.bind (·.gang) = none → Gives .illegalInstructionTrap s (fun t => Aborted s t 0x01 0 false)

/-- R364, R377, R378: BRK stops a slot of a queue whose BRK_EN bit is set, with the unit after it as the restart point; otherwise it acts
as NOP, in the porter too. RESUME by a system activation or the porter of another slot in fault service none of whose saved entries
keeps a failure: the slot runs again at its restart point with the entries that have no value yet back in its scoreboard; after a row fault
of its MXLDV (cause 0x11) the matrix engine goes on too. A RESUME of a slot or an engine that holds no fault answers 1. RESUME.abort turns
causes 0x10 and 0x11 into the aborting cause 0x0F, leaves another cause and the rest of the record, and ends the MXLDV of a row fault with
status 0x03. An engine named by bit 3 of the operand goes on by RESUME with its head command; RESUME.abort ends that command, with status
0x03 where it is no copy, and a copy that ends then has that status too. An issuer that is no system activation, and an operand that names
nothing, take a protection fault. -/
def Obligations.BreakAndResume : Prop :=
  (∀ (s : State) (g : Guard) (code : BitVec 16), s.me.acts g = true →
    let en := match s.me.act.bind (·.queue) with | some q => s.myCore.brkEn.getLsbD q | none => false
    (en = true ∧ s.cur.2 ≠ 4 → Gives (.brk g code) s (fun t =>
      Stopped s t s.cur.1 s.cur.2 0x12 (code.setWidth 64) s.me.pc (nextPc s.me.pc))) ∧
    (en = false ∨ s.cur.2 = 4 → Gives (.brk g code) s (fun t => Passed s t))) ∧
  ∀ (s : State) (g : Guard) (d a : Sreg), s.me.acts g = true →
    let i := (s.me.s a).toNat
    let x := s.slotOf s.cur.1 i
    (s.isSystem = true → i ≤ 3 → x.mode ≠ .faultService →
      Gives (.resume g d a) s (fun t => WroteS s t d 1) ∧ Gives (.resumeAbort g d a) s (fun t => WroteS s t d 1)) ∧
    let ldv := fun (h : EngCmd) => match h.instr with | .mxldv _ _ _ _ _ _ _ => true | _ => false
    let row := x.frec.cause.toNat % 256 = 0x11 ∧ s.rowFaultOf s.cur.1 i = true
    (s.isSystem = true → i ≤ 3 → i ≠ s.cur.2 → x.mode = .faultService →
      (x.frec.saved.all (fun e => e.fail.isNone) = true →
        Gives (.resume g d a) s (fun t => Retired s t ∧ ScalarSet s t d 0 ∧
          (t.slotOf s.cur.1 i).mode = .running ∧ (t.slotOf s.cur.1 i).pc = x.frec.rpc ∧
          ((∀ e ∈ x.frec.saved, e.kind = .pred → e.value = none) →
            (t.slotOf s.cur.1 i).sb = x.frec.saved.filter (fun e => e.value.isNone) ∧ SameMemory s t ∧
            (row → t.myCore.matrix.fault = none ∧ t.myCore.rowProg.held = false ∧ t.myCore.matrix.q = s.myCore.matrix.q)))) ∧
      (x.act.bind (·.gang) = none → (row → ∃ h rest, s.myCore.matrix.q = h :: rest ∧ ldv h = true) →
        Gives (.resumeAbort g d a) s (fun t => Retired s t ∧ ScalarSet s t d 0 ∧ (t.slotOf s.cur.1 i).mode = .draining ∧
          (t.slotOf s.cur.1 i).frec =
            { x.frec with saved := [], cause := (x.frec.cause &&& ~~~(0x800000FF#64)) |||
                (if x.frec.cause.toNat % 256 = 0x10 ∨ x.frec.cause.toNat % 256 = 0x11 then 0x0F else x.frec.cause &&& 0xFF) } ∧
          (row → t.myCore.matrix.fault = none ∧ t.myCore.rowProg.held = false ∧ t.myCore.matrix.running.map (·.status) = some 3)))) ∧
    (s.isSystem = true → ∀ e : Engine, i = (match e with | .copy => 8 | .matrix => 24) →
      let q := s.myCore.eng e
      (q.fault.all (fun f => f.raised != 2) = true →
        Gives (.resume g d a) s (fun t => WroteS s t d 1) ∧ Gives (.resumeAbort g d a) s (fun t => WroteS s t d 1)) ∧
      ∀ f, q.fault = some f → f.raised = 2 →
        Gives (.resume g d a) s (fun t => Retired s t ∧ ScalarSet s t d 0 ∧ SameMemory s t ∧ t.myCore.eng e = { q with fault := none, frec := {} } ∧
          (e = .matrix → t.myCore.rowProg.held = false)) ∧
        let u := s.endEngFault s.cur.1 e
        Gives (.resumeAbort g d a) s (fun t => t = (u.modMe (fun x => x.setS d 0)).complete) ∧
        ∀ h rest, q.q = h :: rest →
          ((match h.instr with
            | .cpy _ _ _ _ _ _ _ | .cpy2d _ _ _ _ _ _ | .cpyt _ _ _ _ _ _ | .ringcfg _ _ _ _ _ | .rsend _ _ _ _ _ _ _ _ => False | _ => True) →
            ((u.coreOf s.cur.1).eng e).fault = none ∧ ((u.coreOf s.cur.1).eng e).q = q.q ∧
            ((u.coreOf s.cur.1).eng e).running.map (fun r => (r.status, r.addr)) = some (3, f.addr)) ∧
          (((u.coreOf s.cur.1).eng e).running = none ∨ ((u.coreOf s.cur.1).eng e).running.map (·.status) = some 3)) ∧
    (s.isSystem = true → s.cur.2 ≠ 4 → s.me.act.bind (·.gang) = none →
      (32 ≤ i ∨ (i / 8 % 2 = 0 ∧ (3 < i % 8 ∨ i / 16 % 2 = 1)) ∨ (i / 8 % 2 = 1 ∧ i % 8 ≠ 0)) →
      Gives (.resume g d a) s (fun t => Aborted s t 0x07 0 false) ∧ Gives (.resumeAbort g d a) s (fun t => Aborted s t 0x07 0 false)) ∧
    (s.isSystem = false → s.me.act.bind (·.gang) = none →
      Gives (.resume g d a) s (fun t => Aborted s t 0x07 0 false) ∧ Gives (.resumeAbort g d a) s (fun t => Aborted s t 0x07 0 false))

/-- R87, R250: a memory wait whose condition holds at its first read, or whose limit has passed by then since it began, completes with
the value read; another waits with what it captured at issue, its limit and the scope of its acquire among it; wait.clk of 0 completes at
once and of another limit waits. The wake, the 2,048-clock reread and the limit end a wait of slot i of core c, with the last value read,
when the condition holds or the limit has passed; a clock wait ends when its limit has passed. With an acquire wider than the core the
lines of the core's cache role go as it ends. That the PC of a slot stays at its WAIT meanwhile and passes it at the end is the model's
(log 21). In a running slot. -/
def Obligations.WaitsBeginAndEnd : Prop :=
  (∀ (s : State) (g : Guard) (cond : WCond) (d a b c : Sreg) (imm : BitVec 32) (sp : Space) (o : Order) (bs : List Byte),
    s.me.acts g = true →
    let addr := s.me.s a + imm.signExtend 64
    let v := BitVec.ofNat 64 (wordOfBytes bs)
    let cmp := s.me.s b
    let holds := match cond with | .eq => v = cmp | .ne => v ≠ cmp | .ltu => v.toNat < cmp.toNat | .geu => cmp.toNat ≤ v.toNat
    let lim := s.me.s c
    let t0 := (s.me.act.bind (·.waitT0)).getD s.cycle
    let late := lim ≠ 0 ∧ lim.toNat ≤ (s.cycle - t0).toNat
    (addr.toNat % 8 = 0 → s.readMem sp addr 8 = .ok bs →
      (holds ∨ late → Gives (.wait g cond d a b c imm sp o) s (fun t => Retired s t ∧ ScalarSet s t d v ∧ t.me.wait = .none ∧ SameMemory s t ∧
        (o.acq = true → o.scope ≠ .none → o.scope ≠ .core → t.myCore.cacheLines = []))) ∧
      (¬ (holds ∨ late) → Gives (.wait g cond d a b c imm sp o) s (fun t =>
        t.me.wait = .mem d cond addr cmp lim t0 (s.cycle + 2048) sp (if o.acq then o.scope else .none) ∧ t.me.pc = s.me.pc ∧
        { t.me with wait := s.me.wait } = s.me ∧ SameMemory s t))) ∧
    (s.me.s c = 0 → Gives (.waitClk g c) s (fun t => Passed s t)) ∧
    (s.me.s c ≠ 0 → Gives (.waitClk g c) s (fun t => OnlySlot s t ∧ t.me.wait = .clk (s.me.s c) s.cycle ∧
      { t.me with wait := s.me.wait } = s.me))) ∧
  ∀ (s : State) (c i : Nat) (d : Sreg) (cond : WCond) (addr cmp lim t0 poll : Word) (sp : Space) (acq : Scope) (bs : List Byte),
    (s.slotOf c i).mode = .running →
    let v := BitVec.ofNat 64 (wordOfBytes bs)
    let holds := match cond with | .eq => v = cmp | .ne => v ≠ cmp | .ltu => v.toNat < cmp.toNat | .geu => cmp.toNat ≤ v.toNat
    let late := lim ≠ 0 ∧ lim.toNat ≤ (s.cycle - t0).toNat
    let ended := fun (t : State) => (t.slotOf c i).wait = .none ∧ (t.slotOf c i).pc = nextPc (s.slotOf c i).pc ∧
      (t.slotOf c i).s d = (if d = 0 then 0 else v) ∧ (t.coreOf c).retired = (s.coreOf c).retired + 1 ∧ SameMemory s t ∧
      (acq ≠ .none → acq ≠ .core → (t.coreOf c).cacheLines = [])
    ((s.slotOf c i).wait = .mem d cond addr cmp lim t0 poll sp acq → addr.toNat % 8 = 0 →
      { s with cur := (c, i) }.readMem sp addr 8 = .ok bs →
      ((∃ w ∈ s.watches, w.core = c ∧ w.slot = i ∧ w.fired = true) → holds ∨ late → Gives (.waitWake c i) s ended) ∧
      (poll.toNat ≤ s.cycle.toNat → holds ∨ late → Gives (.waitPoll c i) s ended) ∧
      (late → Gives (.waitTimeout c i) s ended)) ∧
    ((s.slotOf c i).wait = .clk lim t0 → lim.toNat ≤ (s.cycle - t0).toNat →
      Gives (.waitTimeout c i) s (fun t => (t.slotOf c i).wait = .none ∧ (t.slotOf c i).pc = nextPc (s.slotOf c i).pc ∧
        (t.coreOf c).retired = (s.coreOf c).retired + 1 ∧ SameMemory s t))

/-- R167, R227, R245: what a load of the issuing slot reads: the bytes of its core's local memory at the offset modulo 256 KiB where
no bank is off or a cache, nothing is filling and no error lies, and the bytes of HBM at the physical address of a plain access. -/
def Obligations.LoadsSeeMemory : Prop :=
  ∀ (s : State) (a : Word) (n : Nat),
    (s.myCore.locBad (a.toNat % 262144) n = false → s.myCore.locErr (a.toNat % 262144) n = false →
      s.readMem .loc a n = .ok ((List.range n).map (fun i => locByte s s.cur.1 (a.toNat % 262144 + i)))) ∧
    ∀ pa, Plain s a n .read pa → s.readMem .glob a n = .ok ((List.range n).map (fun i => s.rd8 (pa + i)))

/-- R170, R40, R104: a load whose bytes are read gives its register their little-endian value, extended by the signedness of the
type, advances the pointer of a post-increment mode, and changes no byte of memory; one without an acquire changes nothing else. -/
def Obligations.ScalarLoads : Prop :=
  ∀ (s : State) (g : Guard) (t : Ty) (d : Sreg) (m : AMode) (sp : Space) (o : Order) (bs : List Byte),
    s.me.acts g = true → s.relaxed = false →
    let a := s.me.addr (t.width / 8) m
    let v := (bs.mapIdx (fun i b => b.toNat * 256 ^ i)).sum
    s.readMem sp a (t.width / 8) = .ok bs →
    Gives (.ld g t d m sp o) s (fun t' =>
      LoadedS s t' m d (if t.isSigned then (BitVec.ofNat t.width v).signExtend 64 else (BitVec.ofNat t.width v).setWidth 64) ∧
      SameMemory s t' ∧ (o.acq = false → OnlySlot s t'))

/-- R170, R167, R168, R245: a store puts the low bytes of its register, lowest first, at its address, local or global, changes no
other byte of memory and nothing of its slot but the PC and the pointer of a post-increment mode. -/
def Obligations.ScalarStores : Prop :=
  ∀ (s : State) (g : Guard) (t : Ty) (m : AMode) (c : Sreg) (o : Order), s.me.acts g = true → NoPending s o →
    let n := t.width / 8
    let a := s.me.addr n m
    let bs := (List.range n).map (fun i => BitVec.ofNat 8 ((s.me.s c).toNat / 256 ^ i))
    (s.relaxed = false → smGet (fun _ => []) s.clusterBuf (clusterOf s.cur.1) = [] →
      s.myCore.locBad (a.toNat % 262144) n = false → Gives (.st g t m c .loc o) s (fun t' =>
        Bumped s t' m ∧ StoredLoc s t' s.cur.1 (a.toNat % 262144) bs)) ∧
    ∀ pa, Plain s a n .write pa → Gives (.st g t m c .glob o) s (fun t' => Bumped s t' m ∧ Stored s t' pa bs)

/-- R162, R166, R226, R231, R364: the faults of loads and stores: a local access past the local memory, to a bank that is off or a
cache, or to a filling reservation aborts with cause 0x06 and the offset; a load of a
local atom that holds an uncorrectable error aborts with cause 0x09; an address that is not canonical aborts with cause 0x07; a
translation fault of a load stops the slot at that load. Outside the porter, in an activation of no gang. -/
def Obligations.AccessFaults : Prop :=
  ∀ (s : State) (g : Guard) (t : Ty) (d : Sreg) (m : AMode) (o : Order), s.me.acts g = true → o.rel = false → s.cur.2 ≠ 4 →
    s.me.act.bind (·.gang) = none →
    let n := t.width / 8
    let a := s.me.addr n m
    let off := a.toNat % 262144
    (s.myCore.locBad off n = true →
      Gives (.ld g t d m .loc o) s (fun t' => Aborted s t' 0x06 (BitVec.ofNat 64 off) false) ∧
      Gives (.st g t m d .loc o) s (fun t' => Aborted s t' 0x06 (BitVec.ofNat 64 off) false)) ∧
    (s.myCore.locBad off n = false → s.myCore.locErr off n = true →
      Gives (.ld g t d m .loc o) s (fun t' => Aborted s t' 0x09 (BitVec.ofNat 64 off) false)) ∧
    (canonical a = false →
      Gives (.ld g t d m .glob o) s (fun t' => Aborted s t' 0x07 a false) ∧
      Gives (.st g t m d .glob o) s (fun t' => Aborted s t' 0x07 a false)) ∧
    (s.translate s.cur.1 s.me.asid.toNat a .read = .error (.trans a) →
      Gives (.ld g t d m .glob o) s (fun t' => Stopped s t' s.cur.1 s.cur.2 0x10 a s.me.pc s.me.pc))

/-- R171, R140, R40: the vector loads: the active lanes below the width of the register take the elements read at Addr(i), in order,
the others are kept or zeroed, and no byte of memory changes; with an acquire wider than the core the lines of the core's cache role go
(R250). Of an instruction that no fault has interrupted. -/
def Obligations.VectorLoads : Prop :=
  ∀ (s u : State) (g : Guard) (t it : Ty) (d : Vreg) (m : AMode) (b : VSrc) (st : Sreg) (z : MaskZ) (sp : Space) (o : Order)
    (vs ps : List Vec) (bs : Nat → List Byte), s.me.acts g = true → u.relaxed = false →
    (u.me.act.map (·.lanesDone)).getD 0 = 0 → (u.me.act.map (·.lanesVal)).getD 0 = 0 →
    let n := t.width / 8
    let a := u.me.addr n m
    let reads := fun (at' : Nat → Word) => ∀ i, i < t.lanes → (u.me.m z.msk).getLsbD i = true → u.readMem sp (at' i) n = .ok (bs i)
    let out := fun (t' : State) => Retired u t' ∧ SameMemory u t' ∧
      LanesSet u t' d t.width t.lanes (u.me.m z.msk) z.zro (fun i => (wordOfBytes (bs i), 0)) ∧
      { t'.me with pc := u.me.pc, vregs := u.me.vregs, act := u.me.act } = u.me.bump m ∧
      (o.acq = true → o.scope ≠ .none → o.scope ≠ .core → t'.myCore.cacheLines = [])
    (s.me.leaseOf [d.val] = none → s.takeSrcs [] = .ok vs ps u →
      (reads (fun i => a + BitVec.ofNat 64 (i * n)) → Gives (.vld g t d m z sp o) s out) ∧
      (reads (fun i => a + BitVec.ofNat 64 i * u.me.s st) → Gives (.vlds g t d m st z sp o) s out)) ∧
    (s.me.leaseOf (vregsOf [b] ++ [d.val]) = none → s.takeSrcs [b] = .ok vs ps u →
      reads (fun i => a + BitVec.ofInt 64 (tyInt it (Machine.laneOf it.width (vs.getD 0 0) i)) * BitVec.ofNat 64 n) →
      Gives (.vgth g t it d m b z sp o) s out)

/-- R171, R241, R245: the vector stores write the active lanes at Addr(i), one after the other in increasing order, each as a store of
one element, and change nothing of the slot but the PC and the pointer; a VST at a global address that is a multiple of 64 writes the
active lanes of each atom as one store, and in plain memory the bytes of the active lanes and no other. With a release (R249, R255) the
cluster's buffer has drained before the first lane, every lane's store carries the release's scope, and a release that still waits for a
store of its slot is not the subject here. Of an instruction that no fault has interrupted. -/
def Obligations.VectorStores : Prop :=
  ∀ (s u v : State) (g : Guard) (t it : Ty) (m : AMode) (b c : VSrc) (st : Sreg) (k : Fin 8) (sp : Space) (o : Order)
    (vs ps : List Vec), s.me.acts g = true → (u.me.act.map (·.lanesDone)).getD 0 = 0 →
    let rel := if o.rel then o.scope else Scope.none
    let r := if rel = .none then (s, false) else s.releasePrep rel false
    r.2 = false → (rel ≠ .none → r.1.me.act.bind Activation.pendingFault = none) →
    let n := t.width / 8
    let a := u.me.addr n m
    let lanes := (List.range t.lanes).filter (fun i => (u.me.m k).getLsbD i)
    let writes := fun (data : Vec) (at' : Nat → Word) =>
      lanes.foldlM (fun w i => w.writeMem sp (at' i) rel (bytesOf n (Machine.laneOf t.width data i))) u = .ok v
    let out := fun (w t' : State) => Retired w t' ∧ SameMemory w t' ∧ { t'.me with pc := w.me.pc, act := w.me.act } = w.me.bump m
    (r.1.me.leaseOf (vregsOf [c]) = none → r.1.takeSrcs [c] = .ok vs ps u →
      (¬ (sp = .glob ∧ a.toNat % 64 = 0) → writes (vs.getD 0 0) (fun i => a + BitVec.ofNat 64 (i * n)) →
        Gives (.vst g t m c k sp o) s (out v)) ∧
      (a.toNat % 64 = 0 → lanes = [] → Gives (.vst g t m c k .glob o) s (out u)) ∧
      (∀ first pa, a.toNat % 64 = 0 → lanes.head? = some first → pa % 64 = 0 →
        Plain u (a + BitVec.ofNat 64 (first * n)) (64 - first * n) .write (pa + first * n) →
        Gives (.vst g t m c k .glob o) s (fun t' => Retired u t' ∧ { t'.me with pc := u.me.pc, act := u.me.act } = u.me.bump m ∧
          (∀ x, t'.rd8 x = if pa ≤ x ∧ x < pa + 64 ∧ (u.me.m k).getLsbD ((x - pa) / n) = true
            then BitVec.ofNat 8 ((vs.getD 0 0).toNat / 256 ^ (x - pa)) else u.rd8 x) ∧
          (∀ off, hostCell t' off = hostCell u off) ∧ ∀ d off, locByte t' d off = locByte u d off)) ∧
      (writes (vs.getD 0 0) (fun i => a + BitVec.ofNat 64 i * u.me.s st) → Gives (.vsts g t m st c k sp o) s (out v))) ∧
    (r.1.me.leaseOf (vregsOf [b, c]) = none → r.1.takeSrcs [b, c] = .ok vs ps u →
      writes (vs.getD 1 0) (fun i => a + BitVec.ofInt 64 (tyInt it (Machine.laneOf it.width (vs.getD 0 0) i)) * BitVec.ofNat 64 n) →
      Gives (.vsct g t it m b c k sp o) s (out v))

/-- R167, R168: a write of the issuing slot to local memory, which VectorStores chains: its bytes and no other. -/
def Obligations.LocalWrites : Prop :=
  ∀ (s : State) (a : Word) (rel : Scope) (bs : List Byte),
    let off := a.toNat % 262144
    (s.myCore.locBad off bs.length = false → ∃ t, s.writeMem .loc a rel bs = .ok t ∧ StoredLoc s t s.cur.1 off bs ∧ t.cur = s.cur ∧
      t.me = s.me ∧ ∀ o n, t.myCore.locBad o n = s.myCore.locBad o n) ∧
    (s.myCore.locBad off bs.length = true → s.writeMem .loc a rel bs = .error (.abort 0x06 (BitVec.ofNat 64 off)))

/-- R258 to R260: AMO and AMOCAS at an aligned address: one read and one write of the location, the old value in the register, and
for AMOCAS the outcome in the predicate and a write only on a match; in local memory and in plain global memory. At an address that is
not a multiple of its size an atomic takes the local-address fault for SPACE 0 and the protection fault for SPACE 1, outside the porter,
in an activation of no gang. -/
def Obligations.IntegerAtomics : Prop :=
  (∀ (s : State) (g : Guard) (t : Ty) (d c : Sreg) (p : Fin 8) (m : AMode) (o : Order), s.me.acts g = true → s.relaxed = false →
    t.isInt = true → 32 ≤ t.width → NoPending s o → smGet (fun _ => []) s.clusterBuf (clusterOf s.cur.1) = [] →
    let n := t.width / 8
    let a := s.me.addr n m
    let off := a.toNat % 262144
    let x := (s.me.s c).toNat % 2 ^ t.width
    let want := (s.me.s d).toNat % 2 ^ t.width
    let wide := fun (v : Nat) => if t.isSigned then (BitVec.ofNat t.width v).signExtend 64 else (BitVec.ofNat t.width v).setWidth 64
    let new := fun (op : AmoOp) (old : Nat) => match op with
      | .add => (old + x) % 2 ^ t.width
      | .and => old &&& x
      | .or => old ||| x
      | .xor => old ^^^ x
      | .min => if tyInt t old ≤ tyInt t x then old else x
      | .max => if tyInt t x ≤ tyInt t old then old else x
      | .swap => x
    let locOld := wordOfBytes ((List.range n).map (fun i => locByte s s.cur.1 (off + i)))
    let globOld := fun (pa : Nat) => wordOfBytes ((List.range n).map (fun i => s.rd8 (pa + i)))
    let cas := fun (old : Nat) (t' : State) => Retired s t' ∧
      ScalarSet s t' d (wide old) ∧ t'.me.p p = (if p = 0 then true else decide (old = want)) ∧
      { t'.me with pc := s.me.pc, sregs := s.me.sregs, pregs := s.me.pregs } = s.me.bump m
    a.toNat % n = 0 →
    (s.myCore.locBad off n = false → s.myCore.locErr off n = false → ∀ op,
      Gives (.amo g op t d m c .loc o) s (fun t' => LoadedS s t' m d (wide locOld) ∧
        StoredLoc s t' s.cur.1 off (bytesOf n (new op locOld)))) ∧
    (s.myCore.locBad off n = false → s.myCore.locErr off n = false →
      Gives (.amocas g t p m d c .loc o) s (fun t' => cas locOld t' ∧
        StoredLoc s t' s.cur.1 off (bytesOf n (if locOld = want then x else locOld)))) ∧
    (∀ pa, Plain s a n .atomic pa → ∀ op,
      Gives (.amo g op t d m c .glob o) s (fun t' => LoadedS s t' m d (wide (globOld pa)) ∧
        Stored s t' pa (bytesOf n (new op (globOld pa))))) ∧
    (∀ pa, Plain s a n .atomic pa →
      Gives (.amocas g t p m d c .glob o) s (fun t' => cas (globOld pa) t' ∧
        Stored s t' pa (bytesOf n (if globOld pa = want then x else globOld pa))))) ∧
  ∀ (s : State) (g : Guard) (op : AmoOp) (t : Ty) (d c : Sreg) (p : Fin 8) (m : AMode) (o : Order), s.me.acts g = true → o.rel = false →
    s.cur.2 ≠ 4 → s.me.act.bind (·.gang) = none →
    let a := s.me.addr (t.width / 8) m
    a.toNat % (t.width / 8) ≠ 0 →
    Gives (.amo g op t d m c .loc o) s (fun t' => Aborted s t' 0x06 (BitVec.ofNat 64 (a.toNat % 262144)) false) ∧
    Gives (.amo g op t d m c .glob o) s (fun t' => Aborted s t' 0x07 a false) ∧
    Gives (.amocas g t p m d c .loc o) s (fun t' => Aborted s t' 0x06 (BitVec.ofNat 64 (a.toNat % 262144)) false) ∧
    Gives (.amocas g t p m d c .glob o) s (fun t' => Aborted s t' 0x07 a false)

/-- R261, R262, R267, R268: AMOF without .det reads and writes one FP32 element with the flags of the operation; AMOF with .det
writes no memory and puts its update, tagged with round, issuer and sequence, into a basket of its home slice; VAMOF does one AMOF
.add per active lane in increasing order, with its acquire and its release, and with an acquire waits for lanes that are held at their
homes, its PC behind it (that is the model's, log 21). -/
def Obligations.FloatingAtomics : Prop :=
  (∀ (s : State) (g : Guard) (op : FOp) (d c : Sreg) (m : AMode) (o : Order) (pa : Nat), s.me.acts g = true → NoPending s o →
    let a := s.me.addr 4 m
    let x := (s.me.s c).toNat % 2 ^ 32
    let old := wordOfBytes ((List.range 4).map (fun i => s.rd8 (pa + i)))
    let new := match op with
      | .add =>
        let e := fsum false 0 [fp32.val old, fp32.val x]
        ((roundTo fp32 0 0 false e.1).1, e.2 ||| (roundTo fp32 0 0 false e.1).2)
      | .min => (fminC fp32 old x, 0)
      | .max => (fmaxC fp32 old x, 0)
    a.toNat % 4 = 0 → Plain s a 4 .atomic pa →
    Gives (.amof g op false d m c o) s (fun t' => Retired s t' ∧ ScalarSet s t' d (BitVec.ofNat 64 old) ∧
      Stored s t' pa (bytesOf 4 new.1) ∧ t'.me.flags = s.me.flags ||| new.2 ∧
      { t'.me with pc := s.me.pc, sregs := s.me.sregs, flags := s.me.flags } = s.me.bump m) ∧
    ((∃ pg, s.translate s.cur.1 s.me.asid.toNat a .atomic = .ok pg ∧ pg.det = true) → s.me.detSpill.toNat % 32 = 0 →
      s.det.closed.contains s.me.detRound.toNat = false → s.det.spilled = [] → s.det.baskets = [] →
      Gives (.amof g op true d m c o) s (fun t' => Retired s t' ∧ SameMemory s t' ∧
        t'.det.baskets = [⟨pa / 32, s.me.detRound.toNat, [⟨pa, s.me.detRound.toNat, globalCore s.cur.1 * 64,
          (s.me.act.map (·.detSeq)).getD 0, op, BitVec.ofNat 32 x, none⟩]⟩] ∧
        t'.me.act.map (·.detSeq) = s.me.act.map (fun e => e.detSeq + 1) ∧
        { t'.me with pc := s.me.pc, act := s.me.act } = s.me.bump m))) ∧
  ∀ (s u v : State) (g : Guard) (it : Ty) (m : AMode) (b e : VSrc) (k : Fin 8) (det : Bool) (o : Order) (vs ps : List Vec),
    s.me.acts g = true →
    let rel := if o.rel then o.scope else Scope.none
    let acq := if o.acq then o.scope else Scope.none
    let r := if rel = .none then (s, false) else s.releasePrep rel false
    r.2 = false → (rel ≠ .none → r.1.me.act.bind Activation.pendingFault = none) →
    r.1.takeSrcs [b, e] = .ok vs ps u → r.1.me.leaseOf (vregsOf [b, e]) = none → (u.me.act.map (·.lanesDone)).getD 0 = 0 →
    let at' := fun (i : Nat) => u.me.addr 4 m + BitVec.ofInt 64 (tyInt it (Machine.laneOf it.width (vs.getD 0 0) i)) * 4
    let lane := fun (w : State) (i : Nat) =>
      if det then w.detSend .add (at' i) rel (BitVec.ofNat 32 (Machine.laneOf 32 (vs.getD 1 0) i)) i
      else (w.atomicMe .glob (at' i) 4 false rel (.amof .add (Machine.laneOf 32 (vs.getD 1 0) i)) (.slot none none .n32 acq)).map
        (fun r => match r with | .done x _ _ f => x.orFlags f | .later x => x)
    ((List.range 16).filter (fun i => (u.me.m k).getLsbD i)).foldlM lane u = .ok v →
    Gives (.vamof g det it m b e k o) s (fun t' => Retired v t' ∧ SameMemory v t' ∧ t'.det = v.det ∧
      t'.me.wait = (if v.lanesHeld then .lanes else v.me.wait) ∧
      { t'.me with pc := v.me.pc, act := v.me.act, wait := v.me.wait } = v.me.bump m ∧
      (acq ≠ .none → acq ≠ .core → t'.myCore.cacheLines = []))

/-- R263 to R265, R97: futures at a cell of plain memory. LDF and LDFT of a full cell take an entry with the value and one with true,
and LDFT empties the cell; of an empty cell they leave a deferred request, with the scope of their acquire, and wait, their PC behind them
(that is the model's, log 21). STF of an empty cell fills it and answers true, with its release; where a slot waits for it, its entry has
the value and it goes on, and where that was an LDFT the cell is empty again. STF of a full cell writes nothing and answers false. Any
other state is a protection fault. -/
def Obligations.Futures : Prop :=
  ∀ (s : State) (g : Guard) (d c : Sreg) (p : Fin 8) (m : AMode) (o : Order) (key : Nat), s.me.acts g = true → key < 2 ^ 56 - 16 →
    let a := s.me.addr 8 m
    let acq := if o.acq then o.scope else Scope.none
    let value := wordOfBytes ((List.range 8).map (fun i => s.rd8 (key + i)))
    let st := wordOfBytes ((List.range 8).map (fun i => s.rd8 (key + 8 + i)))
    let i := s.me.sbNext
    let entries := fun (v b : Option Vec) (cell : Option Nat) =>
      s.me.sb ++ [⟨i, .atomic, .scalar, d.val, s.me.pc, a, false, v, none, cell, 0⟩,
        ⟨i + 1, .pred, .pred, p.val, s.me.pc, a, false, b, none, none, 0⟩]
    s.me.act.isSome = true → (∀ e ∈ s.me.sb, e.id < i) → Plain s a 16 .read key → Plain s a 16 .atomic key → a.toNat % 16 = 0 →
    (st = 1 →
      Gives (.ldf g d p m o) s (fun t' => Retired s t' ∧ SameMemory s t' ∧ t'.me.sb = entries (some (BitVec.ofNat 512 value)) (some 1) none) ∧
      Gives (.ldft g d p m o) s (fun t' => Retired s t' ∧ Stored s t' key (bytesOf 8 value ++ bytesOf 8 0) ∧
        t'.me.sb = entries (some (BitVec.ofNat 512 value)) (some 1) (some key)) ∧
      Gives (.stf g p m c o) s (fun t' => Retired s t' ∧ SameMemory s t' ∧
        t'.me.sb = s.me.sb ++ [⟨i, .pred, .pred, p.val, s.me.pc, a, false, some 0, none, none, 0⟩])) ∧
    (st = 0 → s.deferred = [] → ∀ take : Bool, Gives (if take then .ldft g d p m o else .ldf g d p m o) s (fun t' => Retired s t' ∧
      SameMemory s t' ∧ t'.me.sb = entries none none none ∧ t'.me.wait = .future i ∧
      t'.deferred = [⟨s.cur.1, s.cur.2, (s.me.act.map (·.serial)).getD 0, i, i + 1, key, take, acq, s.me.asid.toNat, a, none⟩])) ∧
    (st = 0 → NoPending s o → s.deferred = [] → Gives (.stf g p m c o) s (fun t' => Retired s t' ∧ Stored s t' key (bytesOf 8 (s.me.s c).toNat ++ bytesOf 8 1) ∧
      t'.me.sb = s.me.sb ++ [⟨i, .pred, .pred, p.val, s.me.pc, a, false, some 1, none, none, 0⟩])) ∧
    (st = 0 → NoPending s o → ∀ d, s.deferred = [d] → d.pa = key → d.far = none → (d.core, d.slot) ≠ s.cur → (s.writerAct d.who).isSome = true →
      Gives (.stf g p m c o) s (fun t' => Retired s t' ∧ t'.deferred = [] ∧
        Stored s t' key (bytesOf 8 (s.me.s c).toNat ++ bytesOf 8 (if d.take then 0 else 1)) ∧
        (∀ e ∈ (t'.slotOf d.core d.slot).sb, (e.id = d.sbVal → d.sbVal ≠ d.sbPred → e.value = some ((s.me.s c).setWidth 512)) ∧
          (e.id = d.sbPred → e.value = some 1)) ∧
        ((s.slotOf d.core d.slot).wait = .future d.sbVal → (t'.slotOf d.core d.slot).wait = .none))) ∧
    (1 < st → s.cur.2 ≠ 4 → s.me.act.bind (·.gang) = none →
      Gives (.ldf g d p m o) s (fun t' => Aborted s t' 0x07 a false) ∧ Gives (.ldft g d p m o) s (fun t' => Aborted s t' 0x07 a false) ∧
      Gives (.stf g p m c o) s (fun t' => Aborted s t' 0x07 a false))

/-- R95, R249, R255, R266, R270: FENCE passes and changes no byte of memory where nothing is buffered in its cluster, no store of the
slot waits at its home or, at pod scope, for an acknowledgement, no fault waits for it and no copy or ring command has failed; it waits
for such stores, and takes the fault of an earlier store or the one of a failed command. DRCLOSE applies every update of the round at this
package in the order of issuer and sequence, empties the baskets, and answers the status bits, at pod scope too while no other package is
a member; with other members it sends them the close and the status they answer is not known here (log 6). It waits while an update of
the round is on its way or an element is under tenure, and for an element in a line that the host holds. That the close at pod scope is
made here and sent to the other packages is the model's (log 53), and that the PC stays at a FENCE or DRCLOSE that waits (log 21). -/
def Obligations.FenceAndClose : Prop :=
  (∀ (s : State) (g : Guard) (scope : Scope), s.me.acts g = true → smGet (fun _ => []) s.clusterBuf (clusterOf s.cur.1) = [] →
    let posted := (s.me.act.map (·.posted)).getD []
    let strong := s.remoteOut.any (fun b => s.strongOwn b.who)
    let held := s.heldOf s.cur.1 s.cur.2 ((s.me.act.map (·.serial)).getD 0) (decide (scope = .pkg ∨ scope = .pod))
    let free := (∀ h ∈ s.heldStores, h.who.core ≠ s.cur.1 ∨ h.who.slot ≠ s.cur.2) ∧ (scope = .pod → posted = [] ∧ strong = false)
    let errs := ((s.me.act.map (·.errs)).getD []).filter (fun e => e.unit == 1 || e.unit == 2)
    (free → s.me.act.bind Activation.pendingFault = none → errs = [] →
      Gives (.fence g scope) s (fun t' => Bumped s t' (.base 0 0) ∧ SameMemory s t')) ∧
    (scope ≠ .none → (held = true ∨ scope = .pod ∧ (posted ≠ [] ∨ strong = true)) →
      Gives (.fence g scope) s (fun t' => t'.me.wait = .home ∧ { t'.me with wait := s.me.wait } = s.me ∧ SameMemory s t')) ∧
    (∀ f, free → scope ≠ .none → s.me.act.bind Activation.pendingFault = some f → s.cur.2 ≠ 4 → s.me.act.bind (·.gang) = none →
      Gives (.fence g scope) s (fun t' => t'.me.mode = .draining ∧ t'.me.frec.addr = f.addr ∧ t'.me.frec.pc = s.me.pc ∧
        t'.me.frec.cause = BitVec.ofNat 64 (s.cur.2 % 8 * 2 ^ 32 + f.cause % 256))) ∧
    (∀ e rest, free → s.me.act.bind Activation.pendingFault = none → errs = e :: rest → s.cur.2 ≠ 4 → s.me.act.bind (·.gang) = none →
      Gives (.fence g scope) s (fun t' => t'.me.mode = .draining ∧ t'.me.frec.addr = e.addr ∧ t'.me.frec.pc = e.pc))) ∧
  ∀ (s : State) (g : Guard) (scope : Scope) (d a : Sreg), s.me.acts g = true → s.relaxed = false → (scope = .pkg ∨ scope = .pod) →
    let round := (s.me.s a).toNat % 2 ^ 32
    let us := detSort (((s.det.baskets.filter (fun b => b.round == round)).flatMap (·.ups)) ++ s.detRecords round)
    let r := us.foldl (fun (x : State × Flags) u => ((x.1.detApply u).1, x.2 ||| (x.1.detApply u).2)) (s, (0 : Flags))
    (s.detBlocked round = true → Gives (.drclose g d a scope) s (fun t' => t'.me.wait = .home ∧ { t'.me with wait := s.me.wait } = s.me ∧
      SameMemory s t')) ∧
    (∀ l, s.detBlocked round = false → s.detLine s.cur.1 round = some l → Gives (.drclose g d a scope) s (fun t' => t'.me.wait = .line l ∧
      { t'.me with wait := s.me.wait } = s.me ∧ SameMemory s t')) ∧
    (s.detBlocked round = false → s.detLine s.cur.1 round = none → Gives (.drclose g d a scope) s (fun t' => Retired s t' ∧ SameMemory r.1 t' ∧
      (∀ b ∈ t'.det.baskets, b.round ≠ round) ∧ (∀ b ∈ s.det.baskets, b.round ≠ round → b ∈ t'.det.baskets) ∧
      t'.det.closed.contains round = true ∧
      (∃ st : Nat, ScalarSet s t' d (BitVec.ofNat 64 st) ∧ st < 8 ∧
        ((scope = .pkg ∨ s.otherMember = false) → st % 2 = (s.det.lost.any (fun x => x.2 == round)).toNat ∧
          st / 2 % 2 = (if scope = .pod then s.det.latePod else s.det.latePk).toNat ∧
          st / 4 = (s.det.areas.any (fun x => x.2.1 == round && s.keyBad x.2.2.1) || (s.recordKeys round).any (fun k => s.keyBad k.2) ||
            r.1.det.errs.any (fun x => x.2 == round)).toNat ∧
          t'.me.flags = s.me.flags ||| r.2 ||| (if st % 4 = 0 then 0 else fDETLOST))) ∧
      (scope = .pod → s.otherMember = true → .detClose round ∈ t'.outbox)))

/-- R92, R93, R96, R97, R194: in the relaxed running (log 10) a late result takes a scoreboard entry and its register keeps its value; the
entry lands in its register, once, when its event runs, in a scalar, a vector or a predicate register, and the lease that the entry of an
MXRD holds on its register ends with it; a predicate here one that no engine command waits for. A result whose producer has not answered
stays. -/
def Obligations.LateResultsWait : Prop :=
  ∀ (s : State),
    (∀ (g : Guard) (d a : Sreg) (b : Src), s.me.acts g = true → s.relaxed = true →
      Gives (.mul g d a b) s (fun t => Retired s t ∧ t.me.sregs = s.me.sregs ∧ ∃ e : SbEntry, t.me.sb = s.me.sb ++ [e] ∧
        e.cls = .scalar ∧ e.reg = d.val ∧ e.value = some ((s.me.s a * (match b with | .reg r => s.me.s r | .imm v => v.signExtend 64)).setWidth 512))) ∧
    ∀ (c i id : Nat) (e : SbEntry) (v : Vec), (s.slotOf c i).mode = .running → (s.slotOf c i).sb.find? (fun x => x.id == id) = some e → e.fail = none →
      let after := fun (t : State) => ∀ x ∈ (t.slotOf c i).sb, x.id ≠ id
      (e.value = some v → e.cls = .scalar → e.reg < 64 → (e.kind = .token → Gives (.tokenLands c i id) s (fun t => after t ∧
          (t.slotOf c i).s (Fin.ofNat 64 e.reg) = (if e.reg = 0 then 0 else v.setWidth 64))) ∧
        (e.kind ≠ .token → e.kind ≠ .pred → Gives (.scoreboardWriteLands c i id) s (fun t => after t ∧
          (t.slotOf c i).s (Fin.ofNat 64 e.reg) = (if e.reg = 0 then 0 else v.setWidth 64)))) ∧
      (e.value = some v → e.cls = .vector → e.kind ≠ .token → e.kind ≠ .pred → e.reg < 32 →
        Gives (.scoreboardWriteLands c i id) s (fun t => after t ∧ (t.slotOf c i).v (Fin.ofNat 32 e.reg) = v ∧
          ((∀ x ∈ (s.slotOf c i).sb, x.id ≠ id → x.lease = true → x.reg ≠ e.reg) → (t.slotOf c i).leased e.reg = false))) ∧
      (e.value = some v → e.cls = .pred → e.kind = .pred → e.reg < 8 →
        (∀ en : Engine, ∀ h ∈ ((s.coreOf c).eng en).q, h.guard = none) → Gives (.predicateResolves c i id) s (fun t => after t ∧
          (t.slotOf c i).p (Fin.ofNat 8 e.reg) = (if e.reg = 0 then true else v.getLsbD 0))) ∧
      (e.value = none → Gives (.scoreboardWriteLands c i id) s (fun t => t.slotOf c i = s.slotOf c i))
/-- R142 to R144, R138 to R140: lane by lane, VADD, VSUB, VMUL, VFMA, VFMS, VMIN, VMAX, VABS and VNEG. Sources are read by R108 (the
subject of VectorSources), lanes merge by R140, and results land at once. -/
def Obligations.VectorArithmetic : Prop :=
  ∀ (s u : State) (g : Guard) (t : Ty) (sat : Bool) (r : Rnd) (z : MaskZ) (d : Vreg) (a : VSrc) (b : VOp) (c : VSrc) (vs ps : List Vec),
    s.me.acts g = true → u.relaxed = false →
    let A := fun i => Machine.laneOf t.width (vs.getD 0 0) i
    let B := fun i => VOp.lane b t vs i
    let C := fun i => Machine.laneOf t.width (vs.getD (1 + (VOp.srcs b).length) 0) i
    let I := fun x => tyInt t x
    let m := u.me.modeOf r
    let dr := fun i => srDraw (seedOf u r) i
    let int := fun (x : Int) => if sat then clampTo t x else (truncInt x t.width, 0)
    let flt := fun (i : Nat) (e : Fmt → FVal × Flags) (x : Int) => match tyFmt t with
      | some f => ((roundTo f m (dr i) false (e f).1).1, (e f).2 ||| (roundTo f m (dr i) false (e f).1).2)
      | none => int x
    let out := fun (q : Rnd) (f : Nat → Nat × Flags) (t' : State) => WroteV u t' q d t.width t.lanes (u.me.m z.msk) z.zro f
    (s.me.leaseOf (vregsOf (a :: VOp.srcs b) ++ [d.val]) = none → s.takeSrcs (a :: VOp.srcs b) = .ok vs ps u →
      Gives (.vadd g t sat r z d a b) s (out r (fun i => flt i (fun f => fsum false m [f.val (A i), f.val (B i)]) (I (A i) + I (B i)))) ∧
      Gives (.vsub g t sat r z d a b) s (out r (fun i => flt i (fun f => fsum false m [f.val (A i), (f.val (B i)).negate]) (I (A i) - I (B i)))) ∧
      Gives (.vmul g t sat r z d a b) s (out r (fun i => flt i (fun f => fmul (f.val (A i)) (f.val (B i))) (I (A i) * I (B i)))) ∧
      Gives (.vmin g t z d a b) s (out .rne (fun i => (match tyFmt t with
        | some f => fminC f (A i) (B i) | none => if I (B i) < I (A i) then B i else A i, 0))) ∧
      Gives (.vmax g t z d a b) s (out .rne (fun i => (match tyFmt t with
        | some f => fmaxC f (A i) (B i) | none => if I (A i) < I (B i) then B i else A i, 0)))) ∧
    (s.me.leaseOf (vregsOf (a :: VOp.srcs b ++ [c]) ++ [d.val]) = none → s.takeSrcs (a :: VOp.srcs b ++ [c]) = .ok vs ps u →
      ∀ neg : Bool, Gives (if neg then .vfms g t sat r z d a b c else .vfma g t sat r z d a b c) s (out r (fun i =>
        flt i (fun f =>
            let p := fmul (f.val (A i)) (f.val (B i))
            let q := fsum false m [p.1, if neg then (f.val (C i)).negate else f.val (C i)]
            (q.1, p.2 ||| q.2))
          (I (A i) * I (B i) + (if neg then -I (C i) else I (C i)))))) ∧
    (s.me.leaseOf (vregsOf [a] ++ [d.val]) = none → s.takeSrcs [a] = .ok vs ps u → t.isInt = true →
      Gives (.vabs g t sat z d a) s (out .rne (fun i => int (I (A i)).natAbs)) ∧
      Gives (.vneg g t sat z d a) s (out .rne (fun i => int (-I (A i))))) ∧
    (s.me.leaseOf (vregsOf [a] ++ [d.val]) = none → s.takeSrcs [a] = .ok vs ps u → ∀ f, tyFmt t = some f →
      Gives (.vabs g t sat z d a) s (out .rne (fun i => (if f.val (A i) = .nan then f.nan else A i % 2 ^ (f.eb + f.m), 0))) ∧
      Gives (.vneg g t sat z d a) s (out .rne (fun i =>
        (if f.val (A i) = .nan then f.nan else A i % 2 ^ (f.eb + f.m) + (if A i < 2 ^ (f.eb + f.m) then 2 ^ (f.eb + f.m) else 0), 0))))

/-- R145, R152: the four functions and VSCALE: each active lane is the exact value of the function rounded once, with the
flags of the function and of the rounding. That the exact value of 1 / sqrt a, 2 to the a and the logarithm is taken to 400 bits and
then rounded is the model's reading (log 11). -/
def Obligations.VectorFunctions : Prop :=
  ∀ (s u : State) (g : Guard) (t : Ty) (f : Fmt) (r : Rnd) (z : MaskZ) (d : Vreg) (a : VSrc) (b : VOp) (k : Fin 16) (vs ps : List Vec),
    s.me.acts g = true → u.relaxed = false → tyFmt t = some f →
    let x := fun i => f.val (Machine.laneOf t.width (vs.getD 0 0) i)
    let rnd := fun (i : Nat) (e : FVal × Flags) =>
      ((roundTo f (u.me.modeOf r) (srDraw (seedOf u r) i) false e.1).1, e.2 ||| (roundTo f (u.me.modeOf r) (srDraw (seedOf u r) i) false e.1).2)
    let out := fun (h : FVal → FVal × Flags) (t' : State) =>
      WroteV u t' r d t.width t.lanes (u.me.m z.msk) z.zro (fun i => rnd i (h (x i)))
    (s.me.leaseOf (vregsOf [a] ++ [d.val]) = none → s.takeSrcs [a] = .ok vs ps u →
      Gives (.vrcp g t r z d a) s (out (fun v => fdiv (.fin false 1 1 0) v)) ∧
      Gives (.vrsq g t r z d a) s (out fRsq) ∧ Gives (.vexp2 g t r z d a) s (out fExp2) ∧ Gives (.vlog2 g t r z d a) s (out fLog2)) ∧
    (s.me.leaseOf (vregsOf (a :: VOp.srcs b) ++ [d.val]) = none → s.takeSrcs (a :: VOp.srcs b) = .ok vs ps u →
      Gives (.vscale g t k r z d a b) s (fun t' => WroteV u t' r d t.width t.lanes (u.me.m z.msk) z.zro (fun i =>
        rnd i (fmul (x i) (e8m0Val (match b with
          | .imm v => v.toNat % 256
          | .vec _ => Machine.laneOf 8 (vs.getD 1 0) (if t.lanes ≤ 2 ^ k.val then 0 else i / 2 ^ k.val)))))))

/-- R146: the bit operations and shifts of lanes; a shift uses its count modulo the lane width. -/
def Obligations.VectorBits : Prop :=
  ∀ (s u : State) (g : Guard) (t : Ty) (z : MaskZ) (d : Vreg) (a : VSrc) (b : VOp) (vs ps : List Vec),
    s.me.acts g = true → u.relaxed = false → s.me.leaseOf (vregsOf (a :: VOp.srcs b) ++ [d.val]) = none →
    s.takeSrcs (a :: VOp.srcs b) = .ok vs ps u →
    let A := fun i => Machine.laneOf t.width (vs.getD 0 0) i
    let B := fun i => VOp.lane b t vs i
    let out := fun (f : Nat → Nat) (t' : State) => WroteV u t' .rne d t.width t.lanes (u.me.m z.msk) z.zro (fun i => (f i, 0))
    Gives (.vand g t z d a b) s (out (fun i => A i &&& B i)) ∧
    Gives (.vor g t z d a b) s (out (fun i => A i ||| B i)) ∧
    Gives (.vxor g t z d a b) s (out (fun i => A i ^^^ B i)) ∧
    Gives (.vshl g t z d a b) s (out (fun i => A i * 2 ^ (B i % t.width))) ∧
    Gives (.vshr g t z d a b) s (out (fun i => A i / 2 ^ (B i % t.width))) ∧
    Gives (.vsar g t z d a b) s (out (fun i => truncInt (sextInt (A i) t.width / 2 ^ (B i % t.width)) t.width))

/-- R147, R148, R153, R156: VCMP writes a mask, VSEL takes each lane from one of two sources, VRED and VEXT write a scalar. -/
def Obligations.VectorSelections : Prop :=
  ∀ (s u : State) (g : Guard) (t : Ty) (z : MaskZ) (a b : VSrc) (vs ps : List Vec), s.me.acts g = true → u.relaxed = false →
    let A := fun i => Machine.laneOf t.width (vs.getD 0 0) i
    (∀ (cond : VCond) (k : Fin 8) (w : VOp), s.me.leaseOf (vregsOf (a :: VOp.srcs w)) = none → s.takeSrcs (a :: VOp.srcs w) = .ok vs ps u →
      Gives (.vcmp g cond t z k a w) s (fun t' => ∃ m : Word, WroteM u t' k m ∧ (∀ i, t.lanes ≤ i → m.getLsbD i = false) ∧
        ∀ i, i < t.lanes → m.getLsbD i =
          if (u.me.m z.msk).getLsbD i then vcondHolds cond t (A i) (VOp.lane w t vs i) else if z.zro then false else (u.me.m k).getLsbD i)) ∧
    (∀ (d : Vreg) (k : Fin 8), s.me.leaseOf (vregsOf [a, b] ++ [d.val]) = none → s.takeSrcs [a, b] = .ok vs ps u →
      Gives (.vsel g t k d a b) s (fun t' => WroteV u t' .rne d t.width t.lanes (BitVec.allOnes 64) false (fun i =>
        (if (u.me.m k).getLsbD i then A i else Machine.laneOf t.width (vs.getD 1 0) i, 0)))) ∧
    (∀ (e : Sreg) (n : LaneSel), s.me.leaseOf (vregsOf [a]) = none → s.takeSrcs [a] = .ok vs ps u →
      let k := match n with | .imm n => n.val | .reg q => (u.me.s q).toNat
      Gives (.vext g t e a n) s (fun t' => WroteS u t' e (if k < t.lanes then
        (if t.isInt then BitVec.ofInt 64 (tyInt t (A k)) else BitVec.ofNat 64 (A k)) else 0))) ∧
    (∀ (op : RedOp) (r : Rnd) (k : Fin 8) (e : Sreg), s.me.leaseOf (vregsOf [a]) = none → s.takeSrcs [a] = .ok vs ps u →
      let js := (List.range t.lanes).filter (fun i => (u.me.m k).getLsbD i)
      let xs := js.map A
      let ends := fun (v : Word) (fl : Flags) (t' : State) => OnlySlot u t' ∧ Retired u t' ∧ SeedAfter u t' r ∧ ScalarSet u t' e v ∧
        t'.me.flags = u.me.flags ||| fl ∧
        { t'.me with pc := u.me.pc, sregs := u.me.sregs, flags := u.me.flags, srseed := u.me.srseed } = u.me
      (t.isInt = true → Gives (.vred g op t r k e a) s (fun t' => ∃ v : Nat, ends (BitVec.ofInt 64 (tyInt t v)) 0 t' ∧ (match op with
        | .add => v = xs.foldl (· + ·) 0 % 2 ^ t.width
        | .min => (xs = [] ∧ tyInt t v = tyHi t) ∨ (v ∈ xs ∧ ∀ y ∈ xs, tyInt t v ≤ tyInt t y)
        | .max => (xs = [] ∧ tyInt t v = tyLo t) ∨ (v ∈ xs ∧ ∀ y ∈ xs, tyInt t y ≤ tyInt t v)
        | .and => v = xs.foldl (· &&& ·) (2 ^ t.width - 1)
        | .or => v = xs.foldl (· ||| ·) 0
        | .xor => v = xs.foldl (· ^^^ ·) 0))) ∧
      (∀ f, tyFmt t = some f →
        let sum := fsum true (u.me.modeOf r) (xs.map f.val)
        let q := roundTo f (u.me.modeOf r) (srDraw (seedOf u r) 0) false sum.1
        let one := fun (op : Nat → Nat → Nat) (e : Nat) => match xs with
          | [] => e
          | x :: rest => let y := rest.foldl op x; if f.val y = .nan then f.nan else y
        Gives (.vred g .add t r k e a) s (ends (BitVec.ofNat 64 q.1) (sum.2 ||| q.2)) ∧
        Gives (.vred g .min t r k e a) s (ends (BitVec.ofNat 64 (one (fminC f) (f.infCode false))) 0) ∧
        Gives (.vred g .max t r k e a) s (ends (BitVec.ofNat 64 (one (fmaxC f) (f.infCode true))) 0)))

/-- R155 to R158: the instructions that move lanes. -/
def Obligations.VectorMoves : Prop :=
  ∀ (s u : State) (g : Guard) (t : Ty) (z : MaskZ) (d : Vreg) (a b : VSrc) (vs ps : List Vec), s.me.acts g = true → u.relaxed = false →
    let n := t.lanes
    let A := fun i => Machine.laneOf t.width (vs.getD 0 0) i
    let B := fun i => Machine.laneOf t.width (vs.getD 1 0) i
    let AB := fun j => if j < n then A j else B (j - n)
    let out := fun (v : State) (f : Nat → Nat) (t' : State) => WroteV v t' .rne d t.width n (v.me.m z.msk) z.zro (fun i => (f i, 0))
    (s.me.leaseOf (vregsOf [a, b] ++ [d.val]) = none → s.takeSrcs [a, b] = .ok vs ps u →
      Gives (.vperm g t z d a b none) s (out u (fun i => if B i < n then A (B i) else 0)) ∧
      (∀ part : Bool, Gives (.vzip g t part z d a b) s (out u (fun i =>
          let j := (if part then n / 2 else 0) + i / 2
          if i % 2 = 0 then A j else B j)) ∧
        Gives (.vunzip g t part z d a b) s (out u (fun i => AB (2 * i + if part then 1 else 0)))) ∧
      ∀ k : Fin 65, Gives (.vslide g t k z d a b) s (out u (fun i => AB (i + k.val)))) ∧
    (∀ c : VSrc, s.me.leaseOf (vregsOf [a, b, c] ++ [d.val]) = none → s.takeSrcs [a, b, c] = .ok vs ps u →
      Gives (.vperm g t z d a b (some c)) s (out u (fun i =>
        if B i < n then A (B i) else if B i < 2 * n then Machine.laneOf t.width (vs.getD 2 0) (B i - n) else 0))) ∧
    (s.me.leaseOf (vregsOf [a] ++ [d.val]) = none → s.takeSrcs [a] = .ok vs ps u →
      Gives (.vmov g t z d a) s (out u A) ∧ ∀ k : Fin 64, Gives (.vbcast g t z d (.lane a k)) s (out u (fun _ => A k.val))) ∧
    (s.me.leaseOf [d.val] = none → ∀ u0, s.takeSrcs [] = .ok [] [] u0 → u0.relaxed = false →
      (∀ q : Sreg, Gives (.vbcast g t z d (.scalar q)) s (out u0 (fun _ => (u0.me.s q).toNat)) ∧
        (∀ imm : BitVec 32, Gives (.vldi g t z d q imm) s (out u0 (fun i => (u0.me.s q + BitVec.ofNat 64 i * imm.signExtend 64).toNat))) ∧
        ∀ k : LaneSel, Gives (.vins g t d q k) s (fun t' => WroteV u0 t' .rne d t.width n (BitVec.allOnes 64) false (fun i =>
          (if i = (match k with | .imm j => j.val | .reg p => (u0.me.s p).toNat) then (u0.me.s q).toNat
            else Machine.laneOf t.width (u0.me.v d) i, 0)))) ∧
      ∀ imm : BitVec 32, Gives (.vbcast g t z d (.imm imm)) s (out u0 (fun _ =>
        if t = .i64 then (imm.signExtend 64).toNat else imm.toNat)))

/-- R149 to R151, R154, R159, R160: conversions, quantising, VSCAN, VDOT and VSAT: the lanes that are written, what each holds,
and the flags they set. That VSCAN keeps a start of -0 where it takes in no lane is the model's choice (log 61). -/
def Obligations.VectorConversions : Prop :=
  ∀ (s u : State) (g : Guard) (t t2 : Ty) (sat : Bool) (r : Rnd) (z : MaskZ) (d : Vreg) (a b c : VSrc) (vs ps : List Vec),
    s.me.acts g = true → u.relaxed = false →
    let m := u.me.modeOf r
    let dr := fun i => srDraw (seedOf u r) i
    let A := fun i => Machine.laneOf t.width (vs.getD 0 0) i
    let mask := u.me.m z.msk
    let I := fun x => tyInt t x
    let rnd := fun (f : Fmt) (i : Nat) (e : FVal × Flags) => ((roundTo f m (dr i) false e.1).1, e.2 ||| (roundTo f m (dr i) false e.1).2)
    -- R149: a source lane x of type t2 as a lane of type t
    let conv1 := fun (i x : Nat) => if t = t2 then (x, 0) else match tyFmt t, tyFmt t2 with
      | some f, some f2 => roundTo f m (dr i) sat (f2.val x)
      | some f, none => roundTo f m (dr i) sat (FVal.ofInt (tyInt t2 x))
      | none, some f2 => roundToInt t m (dr i) (f2.val x)
      | none, none => if sat then clampTo t (tyInt t2 x) else (truncInt (tyInt t2 x) t.width, 0)
    -- R160: a lane x of type t held within the range of t2
    let limit := fun (x : Nat) => match tyFmt t, tyFmt t2 with
      | some f, some f2 =>
        let top := fun neg => (f.signBit neg + (roundTo f 1 0 false (f2.val f2.maxCode)).1, fSAT)
        (match f.val x with
         | .nan => (f.nan, 0)
         | .inf neg => top neg
         | .fin neg n q e => if flt (f2.val f2.maxCode) (.fin false n q e) then top neg else (x, 0))
      | _, _ => if I x < tyLo t2 then (truncInt (tyLo t2) t.width, fSAT) else if tyHi t2 < I x then (truncInt (tyHi t2) t.width, fSAT)
          else (truncInt (I x) t.width, 0)
    -- R154: the start value x and then the lanes xs
    let scan := fun (op : FOp) (i x : Nat) (xs : List Nat) => match op, tyFmt t with
      | .add, some f => rnd f i (fsum false m ((x :: xs).map f.val))
      | .add, none => ((x :: xs).sum % 2 ^ t.width, 0)
      | .min, some f => (if f.val (xs.foldl (fminC f) x) = .nan then f.nan else xs.foldl (fminC f) x, 0)
      | .max, some f => (if f.val (xs.foldl (fmaxC f) x) = .nan then f.nan else xs.foldl (fmaxC f) x, 0)
      | .min, none => (xs.foldl (fun a y => if I y < I a then y else a) x, 0)
      | .max, none => (xs.foldl (fun a y => if I a < I y then y else a) x, 0)
    (s.me.leaseOf (vregsOf [a] ++ [d.val]) = none → s.takeSrcs [a] = .ok vs ps u →
      Gives (.vsat g t t2 z d a) s (fun t' => WroteV u t' .rne d t.width t.lanes mask z.zro (fun i => limit (A i))) ∧
      (∀ part : Fin 8,
        let n := 512 / Nat.max t2.width t.width
        let base := if t.width < t2.width then part.val * n else 0
        let src := if t2.width < t.width then part.val * n else 0
        let conv := fun i => conv1 i (Machine.laneOf t2.width (vs.getD 0 0) (src + i))
        Gives (.vcvt g t t2 part sat r z d a) s (fun t' => OnlySlot u t' ∧ Retired u t' ∧ SeedAfter u t' r ∧
          (∀ k, k < 10 → t'.me.flags.getLsbD k = (u.me.flags.getLsbD k ||
            decide (∃ i, i < n ∧ base + i < 512 / t.width ∧ mask.getLsbD i = true ∧ (conv i).2.getLsbD k = true))) ∧
          { t'.me with pc := u.me.pc, vregs := u.me.vregs, flags := u.me.flags, srseed := u.me.srseed } = u.me ∧
          (∀ q, q ≠ d → t'.me.v q = u.me.v q) ∧
          ∀ j, j < 512 / t.width → Machine.laneOf t.width (t'.me.v d) j =
            if base ≤ j ∧ j < base + n then
              (if mask.getLsbD (j - base) then (conv (j - base)).1 % 2 ^ t.width
               else if z.zro then 0 else Machine.laneOf t.width (u.me.v d) j)
            else Machine.laneOf t.width (u.me.v d) j)) ∧
      (∀ part : Fin 16, Gives (.vdeq g t t2 part z d a) s (fun t' => WroteV u t' .rne d t.width t.lanes mask z.zro (fun i =>
        let e := part.val * (512 / t.width)
        let idx := Machine.laneOf 16 (vs.getD 0 0) (e / 8 + i / 8)
        (match tyFmt t, tyFmt t2 with
         | some f, some f2 => (roundTo f 0 0 false (f2.val (Machine.laneOf 8 (vs.getD 0 0) (e + i)))).1
         | some f, none => (roundTo f 0 0 false (cbDecode (u.myCore.cbRowOf (idx / 256 % 256)) idx (i % 8))).1
         | none, _ => 0, 0)))) ∧
      ∀ (op : FOp) (ex : Bool) (q : Src),
        let start := match q with | .reg p => (u.me.s p).toNat % 2 ^ t.width | .imm v => laneImm t v
        Gives (.vscan g op ex t r z d a q) s (fun t' => WroteV u t' r d t.width t.lanes mask z.zro (fun i =>
          scan op i start (((List.range (if ex then i else i + 1)).filter (fun j => mask.getLsbD j)).map A)))) ∧
    (s.me.leaseOf (vregsOf [a, b, c] ++ [d.val]) = none → s.takeSrcs [a, b, c] = .ok vs ps u →
      Gives (.vdot g t sat r z d a b c) s (fun t' => WroteV u t' r d 32 16 mask z.zro (fun j =>
        let k := 32 / t.width
        let X := fun n => A (k * j + n)
        let Y := fun n => Machine.laneOf t.width (vs.getD 1 0) (k * j + n)
        let C := Machine.laneOf 32 (vs.getD 2 0) j
        match tyFmt t with
        | some f =>
          let prods := (List.range k).map (fun n => fmul (f.val (X n)) (f.val (Y n)))
          let q := fsum true m (prods.map (·.1) ++ [fp32.val C])
          rnd fp32 j (q.1, prods.foldl (fun fl p => fl ||| p.2) q.2)
        | none =>
          let rt := if t.isSigned then Ty.i32 else .n32
          let sum := ((List.range k).map (fun n => I (X n) * I (Y n))).sum + tyInt rt C
          if sat then clampTo rt sum else (truncInt sum 32, 0)))) ∧
    (s.me.leaseOf (vregsOf [a, b] ++ [d.val]) = none → s.takeSrcs [a, b] = .ok vs ps u →
      ∀ (part : Bool) (e : Sreg), t = .e4m3 ∨ t = .e5m2 →
      let xs := (List.range 32).map (fun i => fp32.val (Machine.laneOf 32 (vs.getD (i / 16) 0) (i % 16)))
      let q := if t = .e5m2 then quantise e5m2 15 xs else quantise e4m3 8 xs
      Gives (.vqnt g t part d a b e) s (fun t' => OnlySlot u t' ∧ Retired u t' ∧ ScalarSet u t' e (BitVec.ofNat 64 q.2.1) ∧
        t'.me.flags = u.me.flags ||| q.2.2 ∧
        { t'.me with pc := u.me.pc, sregs := u.me.sregs, vregs := u.me.vregs, flags := u.me.flags } = u.me ∧
        (∀ v, v ≠ d → t'.me.v v = u.me.v v) ∧
        ∀ j, j < 64 → Machine.laneOf 8 (t'.me.v d) j =
          if (if part then 32 else 0) ≤ j ∧ j < (if part then 64 else 32) then q.1.getD (j % 32) 0 % 256 else Machine.laneOf 8 (u.me.v d) j))

/-- R108, R96: reading vector sources. A register gives its value and changes nothing but what a restart had kept; a bound channel
with an entry gives its oldest entry, which leaves the channel. An unbound channel takes a protection fault, a channel without
its entry makes the instruction wait with nothing changed, and a register under lease takes a lease fault that names it, also where
the destination is under lease too (that FAULT_ADDR then names the source is the model's choice, log 61). -/
def Obligations.VectorSources : Prop :=
  ∀ s : State,
    (∀ rs : List Vreg, (s.me.act.map (·.popped)).getD [] = [] →
      s.takeSrcs (rs.map .reg) = .ok (rs.map s.me.v) [] (s.modMyAct (fun a => { a with popped := [] }))) ∧
    (∀ (c : Fin 8) (e : ChanEntry) (rest : List ChanEntry), (s.me.act.map (·.popped)).getD [] = [] → s.me.chanTagOf c ≠ 0 →
      s.me.chan c.val = e :: rest → ∃ u, s.takeSrcs [.chan c] = .ok [e.data] [e.data] u ∧ u.cur = s.cur ∧ u.me.chan c.val = rest ∧
        ∀ j : Fin 8, j ≠ c → u.me.chan j.val = s.me.chan j.val) ∧
    ∀ (g : Guard) (t : Ty) (z : MaskZ) (d : Vreg), s.me.acts g = true →
      (∀ (c : Fin 8), s.me.leased d.val = false → s.me.chanTagOf c ≠ 0 → s.me.chan c.val = [] →
        (s.me.act.map (·.popped)).getD [] = [] → Gives (.vmov g t z d (.chan c)) s (fun t' => t' = s)) ∧
      (∀ (c : Fin 8), s.me.leased d.val = false → s.me.chanTagOf c = 0 → s.cur.2 ≠ 4 → s.me.act.bind (·.gang) = none →
        Gives (.vmov g t z d (.chan c)) s (fun t' => Aborted s t' 0x07 0 false)) ∧
      (∀ a : Vreg, s.me.leased a.val = true → s.cur.2 ≠ 4 → s.me.act.bind (·.gang) = none →
        Gives (.vmov g t z d (.reg a)) s (fun t' => Aborted s t' 0x05 (BitVec.ofNat 64 a.val) false))

/-- R46, R181, R185 to R201: a matrix command under a guard that acts and is not pending goes to the end of the matrix queue with what
it captures: its scalars, its scale vectors, its rounding mode and draw; MXRD takes leases, MXWAIT makes its slot wait. That MXWAIT has retired,
its PC behind it, while it waits is the model's reading (log 21). -/
def Obligations.MatrixCommandsQueue : Prop :=
  ∀ (s : State) (g : Guard) (tok : Tok) (a b : Sreg) (o : Order), s.me.acts g = true → s.me.pending .pred g.p.val = false →
    let q := fun (i : Instr) (tok : Tok) (ops : List Word) => Gives i s (fun t => Queued s t .matrix tok [] (mkCmd i ops) id)
    let x := s.me.s a
    let y := s.me.s b
    q (.mxcfgAscale g tok (.reg a)) tok [x] ∧ (∀ v : BitVec 32, q (.mxcfgAscale g tok (.imm v)) tok [v.setWidth 64]) ∧
    q (.mxcfgAreset g tok) tok [] ∧ (∀ f, q (.mxld g tok f a b o) tok [x, y]) ∧ (∀ h k, q (.mxldv g tok h k a b o) tok [x, y]) ∧
    (∀ ta tb h d u v, q (.mxmma g tok ta tb h d u v o) tok
      [match u with | .slot _ => 0 | .loc r => s.me.s r, match v with | .slot _ => 0 | .loc r => s.me.s r]) ∧
    (∀ m, q (.mxzero g tok m) tok []) ∧ (∀ k n, q (.mxattn g tok k a b n o) tok [x, y]) ∧ q (.mxafin g tok a b o) tok [x, y] ∧
    q (.mxprg g tok) tok [] ∧
    Gives (.mxwait g) s (fun t => Queued s t .matrix none [] (mkCmd (.mxwait g) []) (fun z => { z with wait := .mx })) ∧
    (∀ (d : Vreg) (k : Fin 8) (row : Fin 16) (lg : Fin 8), Gives (.mxrd g tok d k row lg) s (fun t =>
      Queued s t .matrix tok ((List.range (2 ^ lg.val)).map (fun n => d.val + n)) (mkCmd (.mxrd g tok d k row lg) []) id)) ∧
    (∀ t sat r k sp, Gives (.mxst g tok t sat r k a b sp o) s (fun t' => Queued s t' .matrix tok []
      { mkCmd (.mxst g tok t sat r k a b sp o) [x, y] with rnd := s.me.modeOf r, seed := seedOf s r }
      (fun z => { z with srseed := seedOf s r }))) ∧
    ∀ (ts ta : Ty) (d k : Fin 8) (va vb : VSrc) (vs ps : List Vec) (u : State), s.me.leaseOf (vregsOf [va, vb]) = none →
      s.takeSrcs [va, vb] = .ok vs ps u → u.me.pending .pred g.p.val = false →
      Gives (.mxsca g tok ts ta d k va vb) s (fun t => Queued u t .matrix tok []
        { mkCmd (.mxsca g tok ts ta d k va vb) [] with vecs := vs } id)

/-- R46, R174, R175, R331: the copy commands and RINGCFG, RINGCFG .off and RFREE under a guard that acts and is not pending go to the end of
the copy queue; CPY2D and RINGCFG read their descriptor at issue; RINGCFG is for system activations. -/
def Obligations.CopyCommandsQueue : Prop :=
  ∀ (s : State) (g : Guard) (tok : Tok) (d a : Sreg) (o : Order) (imm : BitVec 32) (sp : Space) (bs : List Byte),
    s.me.acts g = true → s.me.pending .pred g.p.val = false →
    let q := fun (i : Instr) (x : EngCmd) => Gives i s (fun t => Queued s t .copy tok [] x id)
    let at' := s.me.s a + imm.signExtend 64
    (∀ (dir : Fin 4) (b : Src), q (.cpy g tok dir d a b o) (mkCmd (.cpy g tok dir d a b o)
      [s.me.s d, s.me.s a, match b with | .reg r => s.me.s r | .imm v => v.setWidth 64])) ∧
    (∀ pack, q (.cpyt g tok pack d a o) (mkCmd (.cpyt g tok pack d a o) [s.me.s d, s.me.s a])) ∧
    (at'.toNat % 64 = 0 → s.readMem sp at' 64 = .ok bs → q (.cpy2d g tok a imm sp o) { mkCmd (.cpy2d g tok a imm sp o) [at'] with data := bs }) ∧
    (∀ r : Fin 16, q (.rfree g tok r a) (mkCmd (.rfree g tok r a) [s.me.s a])) ∧
    (s.isSystem = true →
      (at'.toNat % 64 = 0 → s.readMem sp at' 1088 = .ok bs → q (.ringcfg g tok a imm sp) { mkCmd (.ringcfg g tok a imm sp) [at'] with data := bs }) ∧
      ∀ r : Fin 16, q (.ringcfgOff g tok r) (mkCmd (.ringcfgOff g tok r) [])) ∧
    (s.isSystem = false → s.cur.2 ≠ 4 → s.me.act.bind (·.gang) = none →
      Gives (.ringcfg g tok a imm sp) s (fun t => Aborted s t 0x07 0 false) ∧
      ∀ r : Fin 16, Gives (.ringcfgOff g tok r) s (fun t => Aborted s t 0x07 0 false))

/-- R332: RSEND and RFWD on a ring in order take the next block number, give it to their register and queue their command when the
credit allows; without credit they keep the number and wait; on a ring that is not set up they queue a command that fails with
status 7 and give 0. -/
def Obligations.RingSendsQueue : Prop :=
  ∀ (s : State) (g : Guard) (tok : Tok) (glob : Bool) (d a b : Sreg) (ring : Fin 16) (o : Order) (r : Ring),
    s.me.acts g = true → s.me.pending .pred g.p.val = false → s.me.act.bind (·.ringNum) = none →
    let send := Instr.rsend g tok glob d ring a b o
    let fwd := Instr.rfwd g tok d ring a
    let cmd := mkCmd send [s.me.s a, s.me.s b]
    let clean := fun (x : Slot) => { x with act := x.act.map (fun (e : Activation) => { e with ringNum := none }) }
    let good := smGet (fun _ => none) s.rings ring.val = some r ∧ r.err = false ∧ r.lost = false
    (good → 1 ≤ (s.me.s b).toNat → (s.me.s b).toNat ≤ r.csize →
      (r.outn < r.credit → Gives send s (fun t =>
        Queued s t .copy tok [] { cmd with blk := r.outn } (fun x => (clean x).setS d (BitVec.ofNat 64 (r.outn % 2 ^ 32))) ∧
        smGet (fun _ => none) t.rings ring.val = some { r with outn := r.outn + 1 })) ∧
      (r.credit ≤ r.outn → Gives send s (fun t => t.me.pc = s.me.pc ∧ SameMemory s t ∧ t.myCore.copy.q = s.myCore.copy.q ∧
        smGet (fun _ => none) t.rings ring.val = some { r with outn := r.outn + 1 } ∧
        t.me.act = s.me.act.map (fun (e : Activation) => { e with ringNum := some (ring.val, r.outn) })))) ∧
    (good → (s.me.s b).toNat = 0 ∨ r.csize < (s.me.s b).toNat → Gives send s (fun t =>
      Queued s t .copy tok [] { cmd with pre := some 8 } (fun x => (clean x).setS d 0))) ∧
    (smGet (fun _ => none) s.rings ring.val = none →
      Gives send s (fun t => Queued s t .copy tok [] { cmd with pre := some 7 } (fun x => (clean x).setS d 0)) ∧
      Gives fwd s (fun t => Queued s t .copy tok [] { mkCmd fwd [s.me.s a, BitVec.ofNat 64 (((s.myCore.crateHeld ring.val (s.me.s a).toNat).map (fun z => z.blk)).getD 0)]
        with pre := some 7 } (fun x => (clean x).setS d 0))) ∧
    (∀ x : Reservation, good → (r.lands.head?.map (·.1)) = some s.cur.1 → (s.me.s a).toNat < r.s →
      s.myCore.crateHeld ring.val (s.me.s a).toNat = some x → r.outn < r.credit →
      Gives fwd s (fun t => Queued s t .copy tok [] { mkCmd fwd [s.me.s a, BitVec.ofNat 64 x.blk] with blk := r.outn }
        (fun z => (clean z).setS d (BitVec.ofNat 64 (r.outn % 2 ^ 32)))))

/-- R46, R97: a command under a pending guard waits in its queue bound to the producer; when the producer answers, the command stays, free
of its guard, if the guard then acts, and is discarded if it does not. -/
def Obligations.GuardedCommandsWait : Prop :=
  (∀ (s : State) (g : Guard) (tok : Tok) (m : BitVec 8) (e : SbEntry), g.p ≠ 0 → s.me.sb.find? (fun x => x.cls == .pred && x.reg == g.p.val) = some e →
    Gives (.mxzero g tok m) s (fun t => Retired s t ∧ SameMemory s t ∧ ∃ x, t.myCore.matrix.q = s.myCore.matrix.q ++ [x] ∧
      x.instr = .mxzero g tok m ∧ x.guard = some (e.id, !g.neg))) ∧
  ∀ (s : State) (c i id : Nat) (e : SbEntry) (v : Vec) (x : EngCmd) (b : Bool),
    (s.slotOf c i).sb.find? (fun e => e.id == id && e.kind == .pred) = some e → e.value = some v → e.fail = none →
    (s.slotOf c i).mode = .running → x.slot = i → x.serial = ((s.slotOf c i).act.map (·.serial)).getD 0 → x.guard = some (id, b) →
    (s.coreOf c).matrix.q = [x] → (s.coreOf c).copy.q = [] →
    Gives (.predicateResolves c i id) s (fun t => (t.coreOf c).matrix.q = if v.getLsbD 0 = b then [{ x with guard := none }] else [])

/-- R180, R184, R186 to R188, R191 to R194, R196, R201: what the matrix engine does when it starts the command at the head of its queue:
the scale, the attention reset, the tiles zeroed, the operand slot or tile loaded from local memory and global rows, the product sums,
the scaled sums, the rows read; an operand of MXMMA comes from a slot or from local memory
(R186, R191), CB8 weights are decoded from their columns (R120); operands that are not 64-byte aligned end it with status 8, and a command that reads an array with an
uncorrectable error ends with status 4 (R371). -/
def Obligations.MatrixCommandEffects : Prop :=
  ∀ (s : State) (c : Nat) (h : EngCmd) (g : Guard) (tok : Tok) (a b : Sreg) (o : Order), MayStart s c .matrix h →
    let k := s.coreOf c
    ((∃ n ∈ mxReads h.instr, n ∈ k.badArrays) → Gives (.matrixCommandStart c) s (fun t => Ran t c .matrix 4 0 [] ∧ SameMemory s t)) ∧
    ((∀ n ∈ mxReads h.instr, n ∉ k.badArrays) →
    let acc := fun (k : Core) (t i j : Nat) => smGet (fun _ => 0) k.tiles (256 * t + 16 * i + j)
    let ends := fun (P : Core → Prop) => Gives (.matrixCommandStart c) s (fun t =>
      (∃ fl rs, Ran t c .matrix 0 fl rs) ∧ SameMemory s t ∧ P (t.coreOf c))
    let x := h.ops.getD 0 0
    let y := h.ops.getD 1 0
    let off := fun (i : Nat) => (x + BitVec.ofNat 64 i * y).toNat % 262144
    (∀ v, h.instr = .mxcfgAscale g tok v → ends (fun k' => k'.ascale = x.setWidth 32 ∧ k'.tiles = k.tiles ∧ k'.oslots = k.oslots)) ∧
    (h.instr = .mxcfgAreset g tok → ends (fun k' => (∀ t i j, acc k' t i j = 0) ∧ (∀ i, k'.attnM i = 0xFF800000 ∧ k'.attnL i = 0) ∧
      k'.oslots = k.oslots)) ∧
    (h.instr = .mxprg g tok → ends (fun k' => (∀ t i j, acc k' t i j = 0) ∧ (∀ i, k'.attnM i = 0xFF800000 ∧ k'.attnL i = 0) ∧
      ∀ q n m, k'.slotBytes q n m = List.replicate m 0)) ∧
    (∀ m, h.instr = .mxzero g tok m → ends (fun k' => ∀ t i j, t < 8 → i < 16 → j < 16 →
      acc k' t i j = if m.getLsbD t then 0 else acc k t i j)) ∧
    (∀ d t row lg, h.instr = .mxrd g tok d t row lg → Gives (.matrixCommandStart c) s (fun t' => SameMemory s t' ∧
      Ran t' c .matrix 0 0 ((List.range (2 ^ lg.val)).map (fun n => k.accRow t.val (row.val + n))))) ∧
    (∀ f, h.instr = .mxld g tok f a b o → x.toNat % 64 = 0 → y.toNat % 64 = 0 →
      let rb := match f with | .full _ => 256 | .r64 _ | .acc _ => 64
      (∀ i, i < 16 → k.locBad (off i) rb = false ∧ k.locErr (off i) rb = false) → ends (fun k' => match f with
        | .full q | .r64 q => ∀ i n, i < 16 → n < 256 → k'.slotBytes q.val (256 * i + n) 1 = [if n < rb then locByte s c (off i + n) else 0]
        | .acc t => ∀ i j, i < 16 → j < 16 → acc k' t.val i j =
            BitVec.ofNat 32 (wordOfBytes ((List.range 4).map (fun n => locByte s c (off i + 4 * j + n)))))) ∧
    (∀ f, h.instr = .mxld g tok f a b o → ¬ (x.toNat % 64 = 0 ∧ y.toNat % 64 = 0) →
      Gives (.matrixCommandStart c) s (fun t => Ran t c .matrix 8 0 [] ∧ SameMemory s t)) ∧
    (∀ (r64 : Bool) q (bs : Nat → List Byte), h.instr = .mxldv g tok r64 q a b o → x.toNat % 64 = 0 → y.toNat % 64 = 0 →
      (∀ (u : State) i, i < 16 → { u with cores := s.cores, cur := s.cur, agenda := s.agenda, choice := s.choice } = s → u.cur = (c, engSlot .matrix) →
        u.readEng c h.asid.toNat true (x + BitVec.ofNat 64 i * y) (if r64 then 64 else 256) = .ok (bs i)) →
      (∀ i, (bs i).length = if r64 then 64 else 256) →
      ends (fun k' => k'.rowProg.rows = 16 ∧ ∀ i n, i < 16 → n < 256 → k'.slotBytes q.val (256 * i + n) 1 = [(bs i).getD n 0])) ∧
    -- an operand in local memory lies in the main banks without an error; its n bytes for row or column i, step bytes apart
    let fits := fun (u : MxOp) (z : Word) (n : Nat) => match u with
      | .slot _ => True
      | .loc _ => k.locBad (z.toNat % 262144) n = false ∧ k.locErr (z.toNat % 262144) n = false
    let part := fun (u : MxOp) (z : Word) (step i n : Nat) => match u with
      | .slot q => k.slotBytes q.val (256 * i) n
      | .loc _ => (List.range n).map (fun m => locByte s c (z.toNat % 262144 + step * i + m))
    (∀ ta tb (h16 : Bool) d p q f, h.instr = .mxmma g tok ta tb h16 d p q o → tyFmt ta = some f → (tb = .cb8 ∨ (tyFmt tb).isSome = true) →
      x.toNat % 64 = 0 → y.toNat % 64 = 0 → fits p x 4096 → fits q y (if tb = .cb8 then 1024 else 4096) →
      let row := fun (i : Nat) => rowVals f (part p x 256 i 256)
      let col := fun (j : Nat) => match tyFmt tb with
        | some f2 => rowVals f2 (part q y 256 j 256)
        | none => (List.range 256).map (fun e =>
          let idx := wordOfBytes (((part q y 64 j 64).drop (2 * (e / 8))).take 2)
          cbDecode (k.cbRowOf (idx / 256 % 256)) idx (e % 8))
      ends (fun k' => ∀ t i j, t < 8 → i < 16 → j < 16 → acc k' t i j = if t = d.val then
        BitVec.ofNat 32 (matrixSum (if h16 then .fp16 else .fp32) (acc k t i j).toNat (row i) (col j)).1 else acc k t i j)) ∧
    (∀ tb (h16 : Bool) d p q, h.instr = .mxmma g tok .i8 tb h16 d p q o → tb ≠ .cb8 → x.toNat % 64 = 0 → y.toNat % 64 = 0 →
      fits p x 4096 → fits q y 4096 →
      ends (fun k' => ∀ t i j, t < 8 → i < 16 → j < 16 → acc k' t i j = if t = d.val then
        BitVec.ofNat 32 (matrixSumInt (acc k t i j).toNat ((part p x 256 i 256).map (·.toInt))
          ((part q y 256 j 256).map (·.toInt))).1 else acc k t i j)) ∧
    (∀ ts ta d t va vb, h.instr = .mxsca g tok ts ta d t va vb → ends (fun k' => ∀ u i j, u < 8 → i < 16 → j < 16 → acc k' u i j =
      if u = d.val then BitVec.ofNat 32 (scaElem (fp32.val (acc k u i j).toNat)
        (if ta = .i32 then FVal.ofInt (acc k t.val i j).toInt else fp32.val (acc k t.val i j).toNat)
        (scaleOf ts (h.vecs.getD 0 0) i) (scaleOf ts (h.vecs.getD 1 0) j)).1 else acc k u i j)))

/-- R195, R198, R199: MXST writes its 16 rows one after the other, MXATTN updates m, l and the outputs row by row from the local keys and
values, and MXAFIN writes the outputs and the sums to local memory and resets the attention state. -/
def Obligations.AttentionAndStores : Prop :=
  ∀ (s : State) (c : Nat) (h : EngCmd) (g : Guard) (tok : Tok) (a b : Sreg) (o : Order), MayStart s c .matrix h →
    let k := s.coreOf c
    (∀ n ∈ mxReads h.instr, n ∉ k.badArrays) →
    let x := h.ops.getD 0 0
    let y := h.ops.getD 1 0
    x.toNat % 64 = 0 → y.toNat % 64 = 0 →
    (∀ t sat r ti sp (u : State), h.instr = .mxst g tok t sat r ti a b sp o →
      (List.range 16).foldlM (fun (w : State) i => w.writeEng (h.who c (x + BitVec.ofNat 64 i * y)) h.system (decide (sp = .glob))
        (mxstRow k h t sat ti.val i).1) (started s c .matrix) = .ok u →
      (u.coreOf c).matrix.running = some { status := 0 } →
      Gives (.matrixCommandStart c) s (fun t' => SameMemory u t' ∧ ∃ fl, Ran t' c .matrix 0 fl [])) ∧
    (∀ q nm1, h.instr = .mxattn g tok q a b nm1 o →
      let n := nm1.val + 1
      k.locBad (x.toNat % 262144) (256 * n) = false → k.locBad (y.toNat % 262144) (256 * n) = false →
      k.locErr (x.toNat % 262144) (256 * n) = false → k.locErr (y.toNat % 262144) (256 * n) = false →
      let cut := fun (z : Word) => (List.range n).map (fun j => rowVals bf16 (k.rdLoc (z.toNat % 262144 + 256 * j) 256))
      let row := fun (i : Nat) => attnRow (rowVals bf16 (k.slotBytes q.val (256 * i) 256)) (cut x) (cut y) k.ascale.toNat
        (k.attnM i).toNat (k.attnL i).toNat ((List.range 128).map (fun d => (k.acc (d / 16) i (d % 16)).toNat))
      Gives (.matrixCommandStart c) s (fun t' => SameMemory s t' ∧ (∃ fl, Ran t' c .matrix 0 fl []) ∧ ∀ i, i < 16 →
        (t'.coreOf c).attnM i = BitVec.ofNat 32 (row i).m ∧ (t'.coreOf c).attnL i = BitVec.ofNat 32 (row i).l ∧
        ∀ d, d < 128 → (t'.coreOf c).acc (d / 16) i (d % 16) = BitVec.ofNat 32 ((row i).o.getD d 0))) ∧
    (h.instr = .mxafin g tok a b o → k.locBad (x.toNat % 262144) 4096 = false → k.locBad (y.toNat % 262144) 64 = false →
      x.toNat % 262144 + 4096 ≤ y.toNat % 262144 →
      Gives (.matrixCommandStart c) s (fun t' => (∃ fl, Ran t' c .matrix 0 fl []) ∧ (t'.coreOf c).tiles = [] ∧ (t'.coreOf c).mxm = [] ∧
        (t'.coreOf c).mxl = [] ∧ ∀ i, i < 16 →
          (t'.coreOf c).rdLoc (x.toNat % 262144 + 256 * i) 256 = (afinRow k i).1 ∧
          (t'.coreOf c).rdLoc (y.toNat % 262144 + 4 * i) 4 = (afinRow k i).2.1))

/-- R172 to R177: what the copy engine does when it starts a copy: CPY reads its bytes and writes them, CPY2D and CPYT copy their pieces in
order; a copy within one space whose bytes meet ends with status 8 and writes nothing. That the walks of the pages read stay in the TLBs
(acqSpan) is of the relaxed running (log 10); that rows of no bytes move nothing is the model's choice (log 61). -/
def Obligations.CopyCommandEffects : Prop :=
  ∀ (s u : State) (c : Nat) (h : EngCmd) (g : Guard) (tok : Tok) (d a : Sreg) (o : Order), MayStart s c .copy h →
    (u.coreOf c).copy.running = some { status := 0 } →
    let s1 := started s c .copy
    let done := fun (t : State) => SameMemory u t ∧ Ran t c .copy 0 0 []
    let dst := h.ops.getD 0 0
    let src := h.ops.getD 1 0
    let n := (h.ops.getD 2 0).toNat
    (∀ (dir : Fin 4) (b : Src) (bs : List Byte), h.instr = .cpy g tok dir d a b o → n ≤ 2 ^ 32 →
      let dg := decide (2 ≤ dir.val)
      let sg := dir.val % 2 == 1
      (dg ≠ sg ∨ src.toNat + n ≤ dst.toNat ∨ dst.toNat + n ≤ src.toNat) → s1.readEng c h.asid.toNat sg src n = .ok bs →
      (s1.acqSpan c h sg src n).writeEng (h.who c dst) h.system dg bs = .ok u → Gives (.copyCommandStart c) s done) ∧
    (∀ (dir : Fin 4) (b : Src), h.instr = .cpy g tok dir d a b o → (dir = 0 ∨ dir = 3) → 0 < n → src.toNat < dst.toNat + n → dst.toNat < src.toNat + n →
      Gives (.copyCommandStart c) s (fun t => SameMemory s t ∧ Ran t c .copy 8 0 [])) ∧
    (∀ (imm : BitVec 32) (sp : Space) (p : Copy), h.instr = .cpy2d g tok a imm sp o → copyOfDesc h.data = some p → p.rb * p.rows ≤ 2 ^ 32 →
      (p.dglob ≠ p.sglob ∨ p.meet = false) →
      s1.copyAll c h p.dglob p.sglob 0 ((List.range p.rows).map (fun r =>
        (p.dst + BitVec.ofNat 64 r * p.ds, p.src + BitVec.ofNat 64 r * p.ss, p.rb))) = .ok u → Gives (.copyCommandStart c) s done) ∧
    (∀ (imm : BitVec 32) (sp : Space), h.instr = .cpy2d g tok a imm sp o → copyOfDesc h.data = none →
      Gives (.copyCommandStart c) s (fun t => SameMemory s t ∧ Ran t c .copy 8 0 [])) ∧
    (∀ (pack : Bool) (td : TileDesc), h.instr = .cpyt g tok pack d a o → s1.tileForCopy h src.toNat = .ok td →
      dst.toNat % 262144 + tileBytes td ≤ 262144 →
      s1.copyAll c h pack (!pack) 0 ((elemAddrs td).zipIdx.map (fun e =>
        let l := BitVec.ofNat 64 (dst.toNat % 262144 + 2 ^ td.esz * e.2)
        if pack then (e.1, l, 2 ^ td.esz) else (l, e.1, 2 ^ td.esz))) = .ok u → Gives (.copyCommandStart c) s done)

/-- R182, R94, R95: the completion of the head command of a running activation: it leaves its queue, its flags are set if it has not failed, its token gets 0 or
UNIT and CODE, and an error without a token waits for the activation; an MXRD's rows land in its vector registers in the same clock, or none
of them if it has failed, and its leases end (R96, R194); a completed MXWAIT lets its slot go on, which has passed it already (log 21), and
the slot's matrix commands before it are joined (R254). -/
def Obligations.CommandsComplete : Prop :=
  (∀ (s : State) (c : Nat) (e : Engine) (h : EngCmd) (rest : List EngCmd) (r : EngRun) (a : Activation),
    ((s.coreOf c).eng e).q = h :: rest → ((s.coreOf c).eng e).running = some r → r.waitHeld = false → r.waitAck = none →
    (s.slotOf c h.slot).mode = .running → (s.slotOf c h.slot).act = some a → a.serial = h.serial → h.dests = [] →
    cmdUnit h.instr ≤ 2 → (∀ g tok d k q, h.instr ≠ .rfwd g tok d k q) → (∀ g, h.instr ≠ .mxwait g) →
    let unit := cmdUnit h.instr
    Gives (.commandCompletion c e) s (fun t => ((t.coreOf c).eng e).q = rest ∧ ((t.coreOf c).eng e).running = none ∧
      (r.status = 0 ∨ e = .copy → SameMemory s t) ∧
      ((∀ y ∈ (s.slotOf c h.slot).sb, h.tok = some y.id → y.flags = 0) →
        (t.slotOf c h.slot).flags = if r.status = 0 then (s.slotOf c h.slot).flags ||| r.flags else (s.slotOf c h.slot).flags) ∧
      (∀ id x, h.tok = some id → (s.slotOf c h.slot).sb.find? (fun y => y.id == id) = some x → x.cls = .scalar → x.reg < 64 → x.reg ≠ 0 →
        (t.slotOf c h.slot).s (Fin.ofNat 64 x.reg) = if r.status = 0 then 0 else BitVec.ofNat 64 (unit * 256 + r.status)) ∧
      (h.tok = none → (t.slotOf c h.slot).act.map (·.errs) = some (if r.status = 0 then a.errs else
        a.errs ++ [⟨if unit = 0 then .matrix else .copy, unit, r.status, h.pc, r.addr⟩])))) ∧
  (∀ (s : State) (c : Nat) (h : EngCmd) (rest : List EngCmd) (r : EngRun) (a : Activation) (g : Guard) (tok : Tok) (d : Vreg) (k : Fin 8)
      (row : Fin 16) (lg : Fin 8), (s.coreOf c).matrix.q = h :: rest → (s.coreOf c).matrix.running = some r → r.waitHeld = false →
    r.waitAck = none → (s.slotOf c h.slot).mode = .running → (s.slotOf c h.slot).act = some a → a.serial = h.serial →
    h.instr = .mxrd g tok d k row lg → h.dests.Nodup → d.val + h.dests.length ≤ 32 → r.results.length = h.dests.length →
    let find := fun (id : Nat) => (s.slotOf c h.slot).sb.find? (fun y => y.id == id)
    (∀ n, n < h.dests.length → find (h.dests.getD n 0) = some ⟨h.dests.getD n 0, .arith, .vector, d.val + n, h.pc, 0, true, none, none, none, 0⟩) →
    (∀ id, h.tok = some id → id ∉ h.dests ∧ ∀ y, find id = some y → y.cls = .scalar) →
    Gives (.commandCompletion c .matrix) s (fun t => (t.coreOf c).matrix.q = rest ∧ (t.coreOf c).matrix.running = none ∧ SameMemory s t ∧
      (∀ y ∈ (t.slotOf c h.slot).sb, y.id ∉ h.dests) ∧
      (∀ q : Vreg, (t.slotOf c h.slot).v q = if r.status = 0 ∧ d.val ≤ q.val ∧ q.val < d.val + h.dests.length then
        r.results.getD (q.val - d.val) 0 else (s.slotOf c h.slot).v q) ∧
      ((∀ y ∈ (s.slotOf c h.slot).sb, y.lease = true → y.id ∈ h.dests) → ∀ n, (t.slotOf c h.slot).leased n = false) ∧
      (h.tok = none → (t.slotOf c h.slot).act.map (·.errs) = some (if r.status = 0 then a.errs else
        a.errs ++ [⟨.matrix, 0, r.status, h.pc, r.addr⟩])))) ∧
  ∀ (s : State) (c : Nat) (g : Guard) (h : EngCmd) (rest : List EngCmd) (a : Activation), (s.coreOf c).matrix.q = h :: rest →
    (s.coreOf c).matrix.running = some { status := 0 } → h.instr = .mxwait g → h.tok = none → h.dests = [] →
    (s.slotOf c h.slot).mode = .running → (s.slotOf c h.slot).wait = .mx → (s.slotOf c h.slot).act = some a → a.serial = h.serial →
    a.errs = [] → Gives (.commandCompletion c .matrix) s (fun t => (t.slotOf c h.slot).wait = .none ∧
      (t.slotOf c h.slot).pc = (s.slotOf c h.slot).pc ∧ (t.coreOf c).matrix.q = rest ∧
      (t.slotOf c h.slot).act.map (·.joined) = some (a.joined ++ (a.cmds.filter (·.matrix)).map (·.ord)))

/-- R326 to R329, R332, R333: what reaches the ring unit. A set-up notice that matches is answered so; one that comes early is kept; a match of
the successor gives S credits, a refusal puts the ring in error; a block that may come (its crate has been released, and it has not come
before) lands in its crate on every landing core, padded with zeros, with an acknowledgement, and its arrival message is placed once those of
all blocks before it have been (R326, R327), with those of blocks that waited for it behind it; another changes nothing (log 58); a release adds a credit; a skipped block and a freed crate are released in order; an
acknowledgement is kept for its command; a teardown takes the credits. -/
def Obligations.RingTraffic : Prop :=
  ∀ (s : State) (n : Nat),
    let ring := fun (t : State) => smGet (fun _ => none) t.rings n
    (ring s = none →
      (∀ p peer k cs, Gives (.ringSetupNotice n p peer k cs) s (fun t => t.ringPend = s.ringPend ++ [⟨n, p, peer, k, cs⟩])) ∧
      ∀ blk org data, Gives (.ringBlockArrival n blk org data) s (fun t => t.outbox = s.outbox ++ [.ringAck n blk false] ∧ SameMemory s t)) ∧
    ∀ r, ring s = some r →
      (Gives (.ringSetupNotice n true r.pred r.s r.csize) s (fun t => t.outbox = s.outbox ++ [.ringAnswer n false true] ∧ ring t = some r)) ∧
      (∀ k cs, (k ≠ r.s ∨ cs ≠ r.csize) → Gives (.ringSetupNotice n true r.pred k cs) s (fun t =>
        t.outbox = s.outbox ++ [.ringAnswer n false false] ∧ ring t = some { r with err := true })) ∧
      (r.succMatch = false → Gives (.ringSetupAnswer n true true) s (fun t => ring t = some { r with succMatch := true, credit := r.s })) ∧
      (∀ p, Gives (.ringSetupAnswer n p false) s (fun t => ring t = some { r with err := true })) ∧
      (∀ c base blk org data x, r.lands = [(c, base)] → data.length ≤ r.csize → blk < 2 ^ 32 - 1 → r.awaits blk = true → 2 ≤ r.s →
        (s.coreOf c).res.find? (fun y => decide (y.owner = .crate n (blk % r.s))) = some x → r.skipped = [] → r.inNext ≤ r.told →
        let arrives := fun (k : Nat) (m : Message) => m.queue = r.queue ∧ m.hid = r.hid ∧ m.kind = .crate ∧ m.msgid = k
        Gives (.ringBlockArrival n blk org data) s (fun t => t.outbox = s.outbox ++ [.ringAck n blk true] ∧
          StoredLoc s t c (base * 1024 + blk % r.s * r.csize) (data ++ List.replicate (r.csize - data.length) 0) ∧
          (blk = r.told → r.waiting = [] → ∃ m, t.agenda = s.agenda ++ [.messageArrival c m] ∧ arrives blk m) ∧
          (∀ y, blk = r.told → r.waiting = [blk + 1] →
            (s.coreOf c).res.find? (fun z => decide (z.owner = .crate n ((blk + 1) % r.s)) && z.landed && z.blk == blk + 1) = some y →
            ∃ m m', t.agenda = s.agenda ++ [.messageArrival c m, .messageArrival c m'] ∧ arrives blk m ∧ arrives (blk + 1) m') ∧
          (r.told < blk → r.waiting.contains r.told = false → t.agenda = s.agenda ∧
            ∃ r', ring t = some r' ∧ r'.told = r.told ∧ r'.waiting = r.waiting ++ [blk]))) ∧
      (∀ blk org data, r.awaits blk = false → Gives (.ringBlockArrival n blk org data) s (fun t => t = s)) ∧
      ((r.skipped.contains r.inNext || r.lands.all (fun l => r.freed.contains (r.inNext, l.1))) = false →
        Gives (.ringReleaseArrival n) s (fun t => ring t = some { r with credit := r.credit + 1, awaitRel := r.awaitRel.drop 1 }) ∧
        (∀ blk ok, Gives (.ringBlockAck n blk ok) s (fun t => ring t = some { r with acks := r.acks ++ [(blk, ok)] })) ∧
        Gives (.ringTeardownNotice n) s (fun t => ring t = some { r with credit := 0, err := true })) ∧
      (r.inNext = r.arrived → r.told = r.inNext → 0 < r.s → r.skipped = [] → r.waiting = [] → r.forwarding = [] → r.freed = [] → r.lands ≠ [] →
        Gives (.ringSkipNotice n r.inNext) s (fun t => t.outbox = s.outbox ++ [.ringRelease n] ∧
          ring t = some { r with inNext := r.inNext + 1, arrived := r.arrived + 1, told := r.told + 1 })) ∧
      ∀ c i (x : Reservation), (s.coreOf c).res.find? (fun y => decide (y.owner = .crate n i) && y.state == .held) = some x →
        r.skipped = [] → r.waiting = [] → r.inNext ≤ r.told → (r.lands.all (fun l => (r.freed ++ [(x.blk, c)]).contains (r.inNext, l.1))) = false →
        Gives (.crateRelease n c i) s (fun t => ring t = some { r with freed := r.freed ++ [(x.blk, c)] } ∧
          ∀ y ∈ (t.coreOf c).res, y.owner = .crate n i → y.state = .filling)

/-- R190: the fault of a row of MXLDV stops its running issuer with cause 0x11, its record naming the command and the time of the fault, and its restart point the
next instruction to issue; with the issuer gone, fault service serves the engine. -/
def Obligations.RowFaultStops : Prop :=
  ∀ (s : State) (c : Nat) (h : EngCmd) (rest : List EngCmd) (f : EngFault), (s.coreOf c).matrix.q = h :: rest →
    (s.coreOf c).matrix.fault = some f → f.raised = 0 →
    (∀ a, (s.slotOf c h.slot).mode = .running → (s.slotOf c h.slot).act = some a → a.serial = h.serial →
      Gives (.mxldvRowFault c) s (fun t => (t.slotOf c h.slot).mode = .faultService ∧ (t.slotOf c h.slot).frec.pc = h.pc ∧
        (t.slotOf c h.slot).frec.rpc = (s.slotOf c h.slot).pc ∧ (t.slotOf c h.slot).frec.addr = f.addr ∧
        (t.slotOf c h.slot).frec.cycle = f.cycle ∧ (t.slotOf c h.slot).frec.since = f.since ∧
        (t.slotOf c h.slot).frec.cause = BitVec.ofNat 64 (h.slot % 8 * 2 ^ 32 + 2 ^ 31 + 0x11) ∧
        (t.slotOf c h.slot).sregs = (s.slotOf c h.slot).sregs ∧
        (t.coreOf c).work = (s.coreOf c).work ++ [.service h.slot] ∧ (t.coreOf c).matrix.fault = some { f with raised := 1 })) ∧
    ((s.slotOf c h.slot).act = none → Gives (.mxldvRowFault c) s (fun t =>
      (t.coreOf c).work = (s.coreOf c).work ++ [.engService .matrix] ∧ (t.coreOf c).matrix.fault = some { f with raised := 2 }))

/-- R207, R208, R213, R217, R218: the messages a slot sends wait in the send buffer with the fields of their instruction; SEND, SENDC and SENDV
give the next id to D, REPLY takes the id and the sender of the message it answers; a destination beyond the pod is refused. HTSET sets
an entry and gives the old ATTR; entries below 16 are for system activations. QCFG answers 3 for a bad record, 1 for a queue in use, 2 when
the sizes pass 128, and else configures the queue. -/
def Obligations.MessagesSent : Prop :=
  ∀ (s : State) (g : Guard) (d a b c : Sreg) (v : Vreg) (hid : Fin 256) (q : Fin 8) (len : Fin 16) (lines : Fin 4) (bs : List Byte),
    s.me.acts g = true →
    let room := (s.myCore.sendBuf.filter (fun e => e.slot == s.cur.2 && !e.leaving)).length < 32
    let msg := fun (kind : MsgKind) (dest id n : Nat) (pl : List Byte) => ({
      dest := dest, queue := q.val, hid := hid.val, len := len.val, kind := kind, prio := s.me.level, clines := n
      src := Config.pkg * 4096 + s.cur.1, agent := s.isSystem, msgid := id, payload := pl } : Message)
    let buffered := fun (t : State) (m : Message) => OnlyCore s t ∧ SameMemory s t ∧ Retired s t ∧
      (∀ j, j ≠ s.cur.2 → t.myCore.slotOf j = s.myCore.slotOf j) ∧
      t.myCore.sendBuf = s.myCore.sendBuf ++ [⟨m, s.cur.2, (s.me.act.map (·.serial)).getD 0, false⟩]
    let sends := fun (i : Instr) (m : Message) => Gives i s (fun t => buffered t m ∧ t.myCore.nextId = s.myCore.nextId + 1 ∧
      ScalarSet s t d (s.myCore.nextId.setWidth 64) ∧ { t.me with pc := s.me.pc, sregs := s.me.sregs } = s.me)
    let dest := (s.me.s a).toNat
    let id := s.myCore.nextId.toNat
    let loc := (len.val = 0 ∧ bs = []) ∨ (len.val ≠ 0 ∧ s.readL s.cur.1 (localOff (s.me.s b)) (16 * len.val) = .ok bs)
    let regs := (List.range ((len.val + 3) / 4)).map (v.val + ·)
    (room → dest < 2 ^ 22 →
      (loc → sends (.send g d a b hid q len) (msg .plain dest id 0 bs) ∧
        sends (.sendc g d a b hid q len lines) (msg .code dest id lines.val bs)) ∧
      (s.me.leaseOf regs = none → sends (.sendv g d a v hid q len)
        (msg .plain dest id 0 ((regs.flatMap (fun r => vecBytes (s.me.v (Fin.ofNat 32 r)))).take (16 * len.val))))) ∧
    (room → loc → s.me.msgSrc.getLsbD 22 = false → s.me.msgKind.toNat % 8 ≤ 1 → Gives (.reply g b hid q len) s (fun t =>
      buffered t (msg .reply (s.me.msgSrc.toNat % 2 ^ 22) s.me.msgId.toNat 0 bs) ∧ { t.me with pc := s.me.pc } = s.me)) ∧
    (s.cur.2 ≠ 4 → s.me.act.bind (·.gang) = none →
      (2 ^ 22 ≤ dest → Gives (.send g d a b hid q len) s (fun t => Aborted s t 0x07 0 false)) ∧
      (hid.val < 16 → s.isSystem = false → Gives (.htset g d a b c hid) s (fun t => Aborted s t 0x07 0 false)) ∧
      (localOff (s.me.s a) % 32 ≠ 0 → q ≠ 0 → Gives (.qcfg g d a q) s (fun t =>
        Aborted s t 0x06 (BitVec.ofNat 64 (localOff (s.me.s a))) false))) ∧
    (16 ≤ hid.val ∨ s.isSystem = true → (s.me.s c).toNat < 8 → Gives (.htset g d a b c hid) s (fun t =>
      OnlyCore s t ∧ SameMemory s t ∧ Retired s t ∧ ScalarSet s t d (s.myCore.handlerOf hid.val).attr ∧
      t.myCore.handlerOf hid.val = ⟨s.me.s a, s.me.s b, s.me.s c⟩ ∧ (∀ n, n ≠ hid.val → t.myCore.handlerOf n = s.myCore.handlerOf n) ∧
      { t.me with pc := s.me.pc, sregs := s.me.sregs } = s.me)) ∧
    (q ≠ 0 ∨ s.isSystem = true → localOff (s.me.s a) % 32 = 0 → s.readL s.cur.1 (localOff (s.me.s a)) 32 = .ok bs → s.relaxed = false →
      let x := s.myCore.queueOf q.val
      let inUse := x.msgs ≠ [] ∨ 0 < x.heapCount ∨ x.run = true ∨ x.held = true
      let st := if qcfgOk bs = false then 3 else if inUse then 1 else if 128 < s.myCore.otherSizes q.val + fieldOf bs 0 2 then 2 else 0
      Gives (.qcfg g d a q) s (fun t => OnlyCore s t ∧ SameMemory s t ∧ Retired s t ∧ ScalarSet s t d (BitVec.ofNat 64 st) ∧
        (∀ j, j ≠ q.val → t.myCore.queueOf j = s.myCore.queueOf j) ∧
        let y := t.myCore.queueOf q.val
        (st ≠ 0 → y = x) ∧
        (st = 0 → y.size = fieldOf bs 0 2 ∧ y.spill = (fieldOf bs 2 1 % 2 == 1) ∧ y.code = (fieldOf bs 2 1 / 2 % 2 == 1) ∧
          y.budget = (if fieldOf bs 8 8 = 0 then 2 ^ 24 else fieldOf bs 8 8) ∧ y.heapBase = BitVec.ofNat 64 (fieldOf bs 16 8) ∧
          y.heapCap = fieldOf bs 24 4 ∧ y.msgs = x.msgs ∧ y.refused = x.refused)))

/-- R209, R210, R211, R215, R76, R77: what reaches an inbox. A message that passes every check and fits is placed at the tail of its
queue; one to a queue without a heap that has no room is refused FULL, one that no entry serves NOHANDLER; an agent's message waits at a
full agent port, and in the port while its queue is full. What has left the send buffer goes on its way in order. A heap is replayed once
its queue is below half. A pre-emption holds a queue at once, or after the activation that runs. That the COUNT of a held queue leaves out
its heap (log 61) and that an agent's message which has waited is judged where it is placed (log 42) are the model's. -/
def Obligations.MessagesArrive : Prop :=
  ∀ (s : State) (c : Nat) (m : Message),
    let k := s.coreOf c
    let q := k.queueOf m.queue
    let passes := fromPacket m = false ∧ k.svc = .inService ∧ q.size ≠ 0 ∧ s.entryServes c m = true ∧ 1 ≤ m.queue ∧ 16 ≤ m.hid
    let refusal := fun (n : Nat) => ({ dest := m.src, queue := (s.coreOf (m.src % 4096)).rqueue.toNat, hid := (s.coreOf (m.src % 4096)).rhid.toNat
                                       len := 2, kind := .refusal, prio := m.prio, clines := 0, src := Config.pkg * 4096 + c, agent := false
                                       msgid := m.msgid, payload := bytesOf 16 (headerNat m) ++ bytesOf 4 n ++ bytesOf 12 0 } : Message)
    let placedAt := fun (t : State) => ((t.coreOf c).queueOf m.queue).msgs = q.msgs ++ [m] ∧ SameMemory s t
    (m.kind = .plain → m.agent = false → passes →
      (q.heapCount = 0 → k.spilling m.queue = 0 → k.agentWaits m.queue = false → q.used + msgSize m ≤ q.size * 256 →
        Gives (.messageArrival c m) s placedAt) ∧
      (q.size * 256 < q.used + msgSize m → q.spill = false → m.src / 4096 = Config.pkg → Gives (.messageArrival c m) s (fun t =>
        t.agenda = s.agenda ++ [.messageArrival (m.src % 4096) (refusal 1)] ∧
        ((t.coreOf c).queueOf m.queue).refused = Nat.min (q.refused + 1) 0xFFFF ∧ ((t.coreOf c).queueOf m.queue).msgs = q.msgs)) ∧
      (q.size * 256 < q.used + msgSize m → q.spill = true → q.heapCount + k.spilling m.queue < q.heapCap → Gives (.messageArrival c m) s (fun t =>
        (t.coreOf c).work = k.work ++ [.spill m.queue m] ∧ ((t.coreOf c).queueOf m.queue).msgs = q.msgs))) ∧
    (m.kind = .plain → m.agent = false → fromPacket m = false → k.svc = .inService → q.size ≠ 0 → 1 ≤ m.queue → 16 ≤ m.hid → s.entryServes c m = false →
      m.src / 4096 = Config.pkg → Gives (.messageArrival c m) s (fun t =>
        t.agenda = s.agenda ++ [.messageArrival (m.src % 4096) (refusal 2)])) ∧
    (m.agent = true → 256 ≤ k.agentPort.length ∨ k.agentWait ≠ [] → Gives (.messageArrival c m) s (fun t => (t.coreOf c).agentWait = k.agentWait ++ [m])) ∧
    (fromPacket m = false → k.agentPort = [m] → q.used + msgSize m ≤ q.size * 256 → Gives (.agentPortPlacement c m.queue) s (fun t =>
      placedAt t ∧ (t.coreOf c).agentPort = [])) ∧
    (k.agentWait = [m] → k.agentPort.length < 256 → m.kind = .dispatch → s.coreUp c = true → q.size ≠ 0 → s.entryServes c m = true →
      k.agentWaits m.queue = false → q.used + msgSize m ≤ q.size * 256 → Gives (.agentPortRetry c) s (fun t =>
        placedAt t ∧ (t.coreOf c).agentWait = [])) ∧
    (∀ i serial, k.sendBuf = [⟨m, i, serial, true⟩] → m.dest / 4096 = Config.pkg → s.takes (m.dest % 4096) m = true → s.pkgDown Config.pkg = false →
      Gives (.sendBufferDeparture c i) s (fun t =>
        t.agenda = s.agenda ++ [.messageArrival (m.dest % 4096) m] ∧ (t.coreOf c).sendBuf = [])) ∧
    (q.spill = true → 0 < q.heapCount → q.replaying = false → q.used < q.size * 128 → Gives (.heapReplay c m.queue) s (fun t =>
      (t.coreOf c).work = k.work ++ [.replay m.queue] ∧ ((t.coreOf c).queueOf m.queue).replaying = true)) ∧
    (q.replaying = true → k.replayQueued m.queue = false → s.replayFits c m.queue = true → Gives (.heapReplayResume c m.queue) s (fun t =>
      (t.coreOf c).work = k.work ++ [.replay m.queue])) ∧
    (s.coreUp c = true → q.held = false → q.posted = false →
      (q.run = false → Gives (.preemptPost c m.queue) s (fun t => ((t.coreOf c).queueOf m.queue).held = true ∧
        t.fe.preemptState = 2 ∧ ((t.coreOf c).queueOf m.queue).heldCount = q.msgs.length ∧ t.fe.preemptCore = c ∧ t.fe.preemptQueue = m.queue)) ∧
      (q.run = true → Gives (.preemptPost c m.queue) s (fun t => ((t.coreOf c).queueOf m.queue).posted = true ∧
        ((t.coreOf c).queueOf m.queue).held = false ∧ t.fe.preemptState = 1))) ∧
    (s.coreUp c = true → q.held = true ∨ q.posted = true → Gives (.preemptWithdraw c m.queue) s (fun t =>
      ((t.coreOf c).queueOf m.queue).held = false ∧ ((t.coreOf c).queueOf m.queue).posted = false ∧ t.fe.preemptState = 3))

/-- R88, R220 to R223, R353, R355: BIND and UNBIND set and clear a tag; CHSEND takes a credit and sends its entry with the scope of its
release; an entry joins its channel and ends the CHTSTs of it; a credit returns, four at most; CHTST answers what the channel holds, or
waits with its limit, whose end answers false. BAR retires, its PC behind it, and then waits (the model's reading, log 21), once the stores
of its slot have been performed, failed ones among them (log 32); it waits for the members of its mask and the last of them frees all; a member that the
others wait for inherits the class of a waiter. SPAWN puts a task on the deque, counted in its launch; which entry
spills at a full deque, and its place in the ring, are the model's choice (log 16). -/
def Obligations.PipesBarriersTasks : Prop :=
  (∀ (s : State) (g : Guard) (n p : Fin 8) (a : Sreg), s.me.acts g = true →
    let x := s.me
    let tag := x.s a
    let old := fun (m : SMap Word) => smGet (fun _ => (0 : Word)) m n.val
    let fits := x.gid ≠ 0 ∧ bits tag.toNat 6 3 = 0 ∧ tagGid tag = x.gid
    let free := fun (now seen : Word) => (now = 0 ∨ now = tag) ∧ (seen = 0 ∨ seen = tag)
    (fits → tagCore tag = globalCore s.cur.1 → tagSlot tag = s.cur.2 → tagChan tag = n.val → free (old x.chanTag) (old x.chanSeen) →
      Gives (.bindIn g n a) s (fun t => OnlySlot s t ∧ Retired s t ∧ (∀ j, smGet (fun _ => 0) t.me.chanTag j =
        if j = n.val then tag else smGet (fun _ => 0) x.chanTag j) ∧
        { t.me with pc := x.pc, chanTag := x.chanTag, chanSeen := x.chanSeen } = x)) ∧
    (fits → free (old x.portTag) (old x.portSeen) → Gives (.bindOut g n a) s (fun t => OnlySlot s t ∧ Retired s t ∧
      (∀ j, smGet (fun _ => 0) t.me.portTag j = if j = n.val then tag else smGet (fun _ => 0) x.portTag j) ∧
      { t.me with pc := x.pc, portTag := x.portTag, portSeen := x.portSeen } = x)) ∧
    (x.gid = 0 → s.cur.2 ≠ 4 → x.act.bind (·.gang) = none → Gives (.bindIn g n a) s (fun t => Aborted s t 0x07 0 false)) ∧
    Gives (.unbindIn g n) s (fun t => OnlySlot s t ∧ Retired s t ∧ { t.me with pc := x.pc, chanTag := x.chanTag } = x ∧
      ∀ j, smGet (fun _ => 0) t.me.chanTag j = if j = n.val then 0 else smGet (fun _ => 0) x.chanTag j) ∧
    Gives (.unbindOut g n) s (fun t => OnlySlot s t ∧ Retired s t ∧ { t.me with pc := x.pc, portTag := x.portTag } = x ∧
      ∀ j, smGet (fun _ => 0) t.me.portTag j = if j = n.val then 0 else smGet (fun _ => 0) x.portTag j) ∧
    (∀ b : Src, old x.chanTag ≠ 0 →
      let lim := match b with | .reg r => x.s r | .imm v => v.setWidth 64
      let v : Option Vec := if x.chan n.val ≠ [] then some 1 else if lim = 0 then some 0 else none
      Gives (.chtst g p n b) s (fun t => OnlySlot s t ∧ Retired s t ∧
        t.me.sb = x.sb ++ [⟨x.sbNext, .pred, .pred, p.val, x.pc, 0, false, v, none, none, 0⟩] ∧
        t.me.tests = (if v = none then x.tests ++ [⟨x.sbNext, n.val, s.cycle, lim⟩] else x.tests) ∧
        { t.me with pc := x.pc, sb := x.sb, sbNext := x.sbNext, tests := x.tests } = x)) ∧
    ∀ (src : VSrc) (o : Order) (vs ps : List Vec) (u : State), x.leaseOf (vregsOf [src]) = none → s.takeSrcs [src] = .ok vs ps u →
      old x.portTag ≠ 0 → NoPending s o → smGet (fun _ => []) s.clusterBuf (clusterOf s.cur.1) = [] →
      let at' := old x.portTag
      let rel := if o.rel then o.scope else .none
      let w := globalCore s.cur.1 * 8 + s.cur.2
      Gives (.chsend g n src o) s (fun t => SameMemory u t ∧
        smGet (fun _ => 0) t.me.credits n.val = smGet (fun _ => 0) u.me.credits n.val - 1 ∧
        if tagCore at' / 4096 = Config.pkg then t.agenda = u.agenda ++ [.channelEntryArrival at' (vs.getD 0 0) rel w n.val]
        else t.outbox = u.outbox ++ [.channel at' (vs.getD 0 0) rel w n.val])) ∧
  (∀ (s : State) (tag : Word) (data : Vec) (rel : Scope) (w port : Nat), tagCore tag / 4096 = Config.pkg →
    let c := tagCore tag % 4096
    let x := s.slotOf c (tagSlot tag)
    (x.act.bind (·.gang) = some (tagGid tag) → x.mode ≠ .draining → Gives (.channelEntryArrival tag data rel w port) s (fun t =>
      (t.slotOf c (tagSlot tag)).chan (tagChan tag) = x.chan (tagChan tag) ++ [⟨data, rel, w, port⟩] ∧
      (t.slotOf c (tagSlot tag)).tests = x.tests.filter (fun (e : ChTest) => e.chan != tagChan tag) ∧ SameMemory s t)) ∧
    (x.act = none → exec (.channelEntryArrival tag data rel w port) s = .next s) ∧
    (∀ p gid, x.act.bind (·.gang) = some gid → Gives (.creditReturn c (tagSlot tag) ⟨gid, p⟩) s (fun t =>
      smGet (fun _ => 0) (t.slotOf c (tagSlot tag)).credits p = Nat.min 4 (smGet (fun _ => 0) x.credits p + 1))) ∧
    ∀ p gid, x.act.bind (·.gang) ≠ some gid → exec (.creditReturn c (tagSlot tag) ⟨gid, p⟩) s = .next s) ∧
  (∀ (s : State) (c i id n : Nat) (t0 lim : Word), (s.slotOf c i).tests = [⟨id, n, t0, lim⟩] → lim.toNat ≤ (s.cycle - t0).toNat →
    Gives (.chtstTimeout c i id) s (fun t => (t.slotOf c i).tests = [] ∧ ∀ e ∈ (t.slotOf c i).sb, e.id = id → e.value = some 0)) ∧
  (∀ (s : State) (g : Guard) (sc : Scope) (id : Fin 16) (b : Src) (gg : Gang), s.me.acts g = true →
    let x := s.me
    let mask := match b with | .reg r => (x.s r).toNat | .imm v => v.toNat
    let idx := x.gangInfo.toNat % 64
    let cur := smGet (fun _ => none) gg.bars id.val
    let arrived := (match cur with | some o => o.arrived | none => []) ++ [idx]
    let all := ∀ k, k < gg.members.length → mask.testBit k = true → k ∈ arrived
    x.gid ≠ 0 → s.gangOf x.gid = some gg → barRefused x gg s.cur.1 sc mask = false →
    (∀ o, cur = some o → o.mask = mask ∧ o.scope = sc) → smGet (fun _ => []) s.clusterBuf (clusterOf s.cur.1) = [] →
    s.heldStores = [] → (sc = .pod → (x.act.map (·.posted)).getD [] = [] ∧ ∀ e ∈ s.remoteOut, s.strongOwn e.who = false) →
    (¬ all → Gives (.bar g sc id b) s (fun t => Retired s t ∧ t.me.wait = .bar x.gid id.val ∧ SameMemory s t ∧
      (t.gangOf x.gid).map (fun (e : Gang) => smGet (fun _ => none) e.bars id.val) = some (some ⟨mask, sc, arrived⟩))) ∧
    (all → gg.members[idx]?.map (fun m => (m.core, m.slot)) = some (s.cur.1, some s.cur.2) → Gives (.bar g sc id b) s (fun t =>
      Retired s t ∧ t.me.wait = .none ∧ SameMemory s t ∧
      ∀ k m i, gg.members[k]? = some m → mask.testBit k = true → m.slot = some i → (t.slotOf m.core i).wait ≠ .bar x.gid id.val))) ∧
  (∀ (s : State) (gid i0 i1 : Nat) (gg : Gang) (m0 m1 : GMember) (id : Nat) (sc : Scope), s.gangOf gid = some gg → gg.members = [m0, m1] →
    gg.bars = [(id, some ⟨3, sc, [0]⟩)] → m0.slot = some i0 → m1.slot = some i1 → m1.started = true → m1.returned = false →
    (m0.core, i0) ≠ (m1.core, i1) →
    let l0 := (s.slotOf m0.core i0).level
    let l1 := (s.slotOf m1.core i1).level
    Gives (.barrierInheritance gid) s (fun t => SameMemory s t ∧
      (t.slotOf m1.core i1).inherited = if l1 / 8 < l0 / 8 then l0 / 8 * 8 + l1 % 8 else 0)) ∧
  ∀ (s : State) (g : Guard) (d : Sreg) (m : AMode) (sp : Space) (bs : List Byte), s.me.acts g = true → s.me.launchInfo.getLsbD 63 = true →
    s.readDesc sp (s.me.addr 1 m) 64 = .ok bs →
    let lid := s.me.launchInfo.toNat % 2 ^ 32
    let k := s.myCore
    let st := if taskOk bs = false then 2 else if k.dequeRoom ≤ k.deque.length + k.spillDeque.length then 1 else 0
    let e : DequeEntry := { desc := bs, prio := taskPrio bs s.me.ceil, launch := lid, held := some s.cur.2 }
    Gives (.spawn g d m sp) s (fun t => Retired s t ∧ ScalarSet s t d (BitVec.ofNat 64 st) ∧
      (st ≠ 0 → t.myCore.deque = k.deque ∧ t.myCore.spillDeque = k.spillDeque ∧ SameMemory s t) ∧
      (st = 0 → (∀ x ∈ k.deque, x.pos = none) →
        (k.deque.length < 64 → k.spillDeque = [] → t.myCore.deque = k.deque ++ [e] ∧ t.myCore.spillDeque = [] ∧ SameMemory s t) ∧
        (k.deque.length = 64 → k.spillDeque = [] → t.myCore.deque = k.deque ∧ t.myCore.spillDeque = [{ e with pos := some 0 }] ∧
          StoredLoc s t s.cur.1 (k.dqSpb.toNat * 2048) bs)) ∧
      (st = 0 → ∀ l, smGet (fun _ => none) s.launches lid = some l → ∃ l', smGet (fun _ => none) t.launches lid = some l' ∧
        smGet (fun _ => 0) l'.c (sgOf s.cur.1) = smGet (fun _ => 0) l.c (sgOf s.cur.1) + 1))
/-- R61, R62, R65, R68, R91, R204, R205, R309: the message that the inbox chooses starts in its slot: registers clear, the PC at its
handler, or at the restart address of a dispatch whose CHECK failed, or in the code it carries; LEVEL, budget, message registers and
window from the message; its queue runs it alone. A gang member starts in the slot reserved for it and knows its gang and its index (R67,
R68), a dispatch its transaction. -/
def Obligations.ActivationsStart : Prop :=
  ∀ (s : State) (c i q : Nat) (m : Message), s.nextStart c = some (i, q) → s.headOf c q = some m → s.entryServes c m = true →
    (s.queueOf c q).spoiled.contains m = false →
    let k := s.coreOf c
    let h := k.handlerOf m.hid
    let start := Instr.activationStart c i q
    let begun := fun (t : State) =>
      let x := t.slotOf c i
      x.mode = .running ∧ x.wait = .none ∧ x.level = m.prio % 32 ∧ x.ceil = m.prio % 32 ∧ x.budget = (k.queueOf q).budget ∧
      (∀ r, x.s r = 0) ∧ (∀ r, x.v r = 0) ∧ (∀ r, x.p r = decide (r = 0)) ∧ (∀ r, x.ptr r = {}) ∧ x.sb = [] ∧
      x.flags = 0 ∧ x.rmode = 0 ∧ x.srseed = 1 ∧ x.msgId = BitVec.ofNat 64 (m.msgid % 2 ^ 32) ∧
      x.msgSrc = BitVec.ofNat 64 (m.agent.toNat * 2 ^ 22 + m.src % 2 ^ 22) ∧ x.msgLen = BitVec.ofNat 64 (16 * m.len) ∧
      x.msgKind = BitVec.ofNat 64 (m.clines % 4 * 2 ^ 32 + m.prio % 32 * 2 ^ 24 + m.hid % 256 * 2 ^ 16 + m.queue % 8 * 2 ^ 8 + msgKindCode m.kind) ∧
      x.msgBase = BitVec.ofNat 64 (k.winb.toNat * 2048 + 256 * i) ∧
      (∀ j, j < 256 → locByte t c (k.winb.toNat * 2048 + 256 * i + j) = (padTo 256 (msgBytes m)).getD j 0) ∧
      ((t.coreOf c).queueOf q).run = true ∧ ((t.coreOf c).queueOf q).msgs = (k.queueOf q).msgs
    (m.kind ≠ .dispatch → m.kind ≠ .gang → Gives start s (fun t => begun t ∧
      (t.slotOf c i).pc = (if m.kind = .code then 0xFFFFFFFFFFFFFF00#64 else h.code) ∧ (t.slotOf c i).gangInfo = 0 ∧ (t.slotOf c i).txnNum = 0 ∧
      (t.slotOf c i).asid = BitVec.ofNat 16 (k.asidOf q))) ∧
    (∀ num tx, m.kind = .dispatch → s.dispatchTxn c m = some num → s.txnOf num = some tx → (tx.mismatch = true → h.restart ≠ 0) →
      Gives start s (fun t => begun t ∧ (t.slotOf c i).pc = (if tx.mismatch then h.restart else h.code) ∧
        (t.slotOf c i).txnNum = BitVec.ofNat 64 num ∧ (t.slotOf c i).tileMap = BitVec.ofNat 64 (tx.granted.length * 2 ^ 18 + tx.map) ∧
        (t.slotOf c i).asid = BitVec.ofNat 16 tx.sub.asid ∧ (t.txnOf num).map (·.phase) = some .running)) ∧
    ∀ gg n, m.kind = .gang → s.gangOf m.msgid = some gg → gg.ended = false → (k.slotOf i).reserved = some (m.msgid, n) →
      Gives start s (fun t => begun t ∧ (t.slotOf c i).pc = h.code ∧ (∀ j, m.num = some j → j = n) ∧
      (t.slotOf c i).gangInfo = gangWord m.msgid n gg.members.length ∧
      ∀ p, p < 8 → smGet (fun _ => 0) (t.slotOf c i).credits p = if outTag m p = 0 then 0 else 4)

/-- R60, R74, R78, R215, R285, R365, R368, R369: how activations end. RETH drains the slot; in a transaction it asks for the commit of every
W tile and the release of every other. A drained slot is free and its message leaves the queue; the porter's is free too; after an
aborting fault the message stays for another try, and leaves at the third. A budget that has run out ends the activation. The porter takes
the head of its work list: bookkeeping that the firmware's entry serves changes nothing more, a replaced entry starts, and a fault that is
forwarded with no driver queue ends. That bookkeeping is an item of the list and that a replaced entry runs in slot 4 are the model's (logs
23, 62), as are commits and releases that leave at RETH as events in the order of the tiles (logs 24, 28). -/
def Obligations.ActivationsEnd : Prop :=
  (∀ (s : State) (g : Guard) (a : Activation), s.me.acts g = true → s.cmdError (fun _ => true) = none →
    s.me.act.bind Activation.pendingFault = none → smGet (fun _ => []) s.clusterBuf (clusterOf s.cur.1) = [] →
    s.me.act = some a → a.posted = [] →
    let drains := fun (t : State) => t.me.mode = .draining ∧ Retired s t ∧ t.me.act.map (·.ending) = some (some .reth) ∧ SameMemory s t
    (a.txn = none → Gives (.reth g) s drains) ∧
    ∀ num tx, a.txn = some num → s.txnOf num = some tx → s.ownOut = false →
      (∀ k, k < tx.ranges.length → handlePkg (txnEntry tx.sub.desc k).handle = Config.pkg) → Gives (.reth g) s (fun t => drains t ∧
        (t.txnOf num).map (·.phase) = some .committing ∧
        t.agenda = s.agenda ++ (List.range tx.ranges.length).map (fun k =>
          let e := txnEntry tx.sub.desc k
          if e.w && !(a.abortMark || a.rstMark || a.restart) then .commitGrant num ⟨e.handle, none⟩ else .tenureRelease num e.handle))) ∧
  (∀ (s : State) (c i q : Nat) (a : Activation) (e : Ending), (s.slotOf c i).mode = .draining → (s.slotOf c i).act = some a → a.ending = some e →
    s.drained c i a = true → a.txn = none → a.gang = none → a.launch = none → a.storeFail = none → s.relaxed = false →
    a.msg.kind = .plain →
    let x := (s.coreOf c).queueOf q
    let done := fun (t : State) => (t.slotOf c i).mode = .free ∧ (t.slotOf c i).act = none ∧ ((t.coreOf c).queueOf q).run = false
    (e = .reth → a.queue = some q → Gives (.drainComplete c i) s (fun t => done t ∧ ((t.coreOf c).queueOf q).msgs = x.msgs.tail ∧
      t.seq.intake = s.seq.intake ++ a.heldSubs ∧ t.agenda = s.agenda ++ [.sendBufferDeparture c i] ∧
      ((s.coreOf c).spillDeque = [] → (s.coreOf c).deque.length ≤ 64 → SameMemory s t))) ∧
    (e = .reth → a.queue = none → i = 4 → Gives (.drainComplete c i) s (fun t => (t.slotOf c i).mode = .free ∧ (t.slotOf c i).act = none ∧
      t.seq.intake = s.seq.intake ++ a.heldSubs ∧ t.agenda = s.agenda ++ [.sendBufferDeparture c 4] ∧ SameMemory s t)) ∧
    ∀ cause noretry, e = .fault cause noretry → a.queue = some q → s.coreUp c = true →
      (noretry = false → x.aborts < 2 → Gives (.drainComplete c i) s (fun t => done t ∧ ((t.coreOf c).queueOf q).msgs = x.msgs ∧
        ((t.coreOf c).queueOf q).aborts = x.aborts + 1)) ∧
      (noretry = true ∨ 2 ≤ x.aborts → Gives (.drainComplete c i) s (fun t => done t ∧ ((t.coreOf c).queueOf q).msgs = x.msgs.tail ∧
        (t.coreOf c).cntErr = satInc (s.coreOf c).cntErr))) ∧
  (∀ (s : State) (c i : Nat) (a : Activation), (s.slotOf c i).mode = .running → (s.slotOf c i).budget = 0 → (s.slotOf c i).act = some a →
    i ≠ 4 → a.gang = none → a.txn = none → Gives (.budgetTrap c i) s (fun t => (t.slotOf c i).mode = .draining ∧
      (t.slotOf c i).frec.cause = BitVec.ofNat 64 (i % 8 * 2 ^ 32 + 0x0C) ∧ (t.slotOf c i).frec.pc = (s.slotOf c i).pc ∧
      (t.slotOf c i).act.map (·.ending) = some (some (.fault 0x0C false)))) ∧
  ∀ (s : State) (c : Nat) (w : WorkItem) (rest : List WorkItem), (s.coreOf c).work = w :: rest → (s.slotOf c 4).mode = .free →
    (s.coreOf c).serving = none →
    let runs := fun (id : Nat) (asid : BitVec 16) => Gives (.porterActivation c) s (fun t => (t.slotOf c 4).mode = .running ∧
      (t.slotOf c 4).pc = ((s.coreOf c).handlerOf id).code ∧ (t.slotOf c 4).level = 31 ∧ (t.slotOf c 4).asid = asid ∧
      (t.coreOf c).serving = some w ∧ (t.coreOf c).work = rest)
    (w = .bookkeeping → (s.coreOf c).firmwareEntry 2 = true →
      Gives (.porterActivation c) s (fun t => (t.coreOf c).work = rest ∧ SameMemory s t)) ∧
    (w = .bookkeeping → (s.coreOf c).firmwareEntry 2 = false → runs 2 0) ∧
    ∀ i, i < 4 → (s.slotOf c i).mode = .faultService → (s.slotOf c i).act.bind (·.gang) = none →
      (w = .forward i → s.fe.fsqLog2 = 0 → (s.slotOf c i).frec.cause.toNat % 256 = 0x10 → Gives (.porterActivation c) s (fun t =>
        (t.slotOf c i).mode = .draining ∧
        (t.slotOf c i).frec.cause = (((s.slotOf c i).frec.cause &&& ~~~(0x800000FF#64)) ||| 0x0F#64))) ∧
      (w = .service i → (s.coreOf c).firmwareEntry 1 = false → runs 1 (s.slotOf c i).asid)

/-- R70, R246, R253, R255, R267, R268, R270, R353, R354: a slot ready for 4,096 clocks is chosen; a core takes the last visible task of
its deque and steals the first of another's; the second of two equal sweeps ends a launch. Stores on their way reach home or, posted, fail
at a package that refuses them; a scope miss is counted; the first update of an atom opens a basket, and another package's close of a round
waits while it is blocked here. That a steal within the own stack group leaves the launch counts as they are is the model's choice (log 44);
that another package's close comes as DET_UPDATE_ARRIVAL is its reading (log 53). -/
def Obligations.WorkAndReports : Prop :=
  ∀ (s : State) (c i : Nat),
    let plain := fun (l : List DequeEntry) => l.map (fun (e : DequeEntry) => { e with pos := none })
    let sound := fun (k : Core) => k.deque.length ≤ 64 ∧ ∀ e ∈ k.spillDeque, e.pos.isSome = true
    (s.slotReady c i = true → 4096 ≤ (s.slotOf c i).age → Gives (.forcedIssue c i) s (fun t => t.forced = some (c, i) ∧ SameMemory s t ∧
      (i < 5 → (t.slotOf c i).age = 0))) ∧
    (∀ n e, s.takeable c = some (n, e) → sound (s.coreOf c) → Gives (.taskTake c) s (fun t =>
      plain (t.coreOf c).tasks = plain ((s.coreOf c).tasks.eraseIdx n) ∧
      ∃ m, t.agenda = s.agenda ++ [.messageArrival c m] ∧ m.kind = .task ∧ m.msgid = e.launch ∧ m.prio = e.prio ∧ m.payload = e.desc ∧
        m.hid = (e.desc.getD 0 0).toNat ∧ m.queue = (e.desc.getD 1 0).toNat % 8)) ∧
    (∀ v own n e, s.stealFrom c = some (v, own, n, e) → v ≠ c → sound (s.coreOf v) → Gives (.taskSteal c) s (fun t =>
      plain (t.coreOf v).tasks = plain ((s.coreOf v).tasks.eraseIdx n) ∧
      ((s.coreOf c).spillDeque = [] → (s.coreOf c).deque.length < 64 →
        plain (t.coreOf c).tasks = plain ((s.coreOf c).tasks ++ [e])) ∧
      (own = true → t.launches = s.launches) ∧
      ∀ l, own = false → sgOf v ≠ sgOf c → smGet (fun _ => none) s.launches e.launch = some l →
        ∃ l', smGet (fun _ => none) t.launches e.launch = some l' ∧ smGet (fun _ => 0) l'.c (sgOf c) = smGet (fun _ => 0) l.c (sgOf c) + 1 ∧
          smGet (fun _ => 0) l'.c (sgOf v) = smGet (fun _ => 0) l.c (sgOf v) - 1)) ∧
    (∀ lid l, smGet (fun _ => none) s.launches lid = some l →
      (l.c ≠ [] → Gives (.terminationSweep lid) s (fun t => smGet (fun _ => none) t.launches lid = some { l with swept := none })) ∧
      (l.c = [] → l.swept ≠ some l.x → Gives (.terminationSweep lid) s (fun t =>
        smGet (fun _ => none) t.launches lid = some { l with swept := some l.x })) ∧
      (l.c = [] → l.swept = some l.x → Gives (.terminationSweep lid) s (fun t => smGet (fun _ => none) t.launches lid = none ∧
        (t.hq l.queue).started = (s.hq l.queue).started.map (fun (p : Started) =>
          if p.id = l.packet then { p with pending := p.pending - 1, fail := p.fail || l.fail } else p)))) ∧
    (∀ cl, smGet (fun _ => []) s.clusterBuf cl = [] → Gives (.homeAccess (.leave cl none)) s (fun t => SameMemory s t)) ∧
    (∀ cl pa v w, smGet (fun _ => []) s.clusterBuf cl = [⟨[(pa, v)], w, none⟩] →
      (s.hostWait (pa / 32 * 32) 32 = [] → s.homeFate pa = .now → s.offlineAt (pa / 32 * 32) = false →
        smGet (fun _ => false) s.poison (pa / 32) = false →
        Gives (.homeAccess (.leave cl none)) s (fun t => Stored s t pa [v] ∧ smGet (fun _ => []) t.clusterBuf cl = [])) ∧
      (s.hostWait (pa / 32 * 32) 32 ≠ [] → Gives (.homeAccess (.leave cl none)) s (fun t => SameMemory s t ∧
        t.heldStores = s.heldStores ++ [⟨.store [(pa, v)], w, .none⟩] ∧ smGet (fun _ => []) t.clusterBuf cl = []))) ∧
    (∀ cl pa v w id, smGet (fun _ => []) s.clusterBuf cl = [⟨[(pa, v)], w, some id⟩] → Gives (.homeAccess (.leave cl (some (pa / 32)))) s (fun t =>
      SameMemory s t ∧ t.remoteOut = s.remoteOut ++ [⟨[(pa, v)], { w with early := w.early.map (fun e => { e with out := some s.serial }) }, some id⟩] ∧ smGet (fun _ => []) t.clusterBuf cl = [])) ∧
    (∀ id (w : Who) (a : Activation) pa v, s.remoteOut = [⟨[(pa, v)], w, some id⟩] → w.ord = 0 → w.core < agentCore → s.writerAct w = some a → a.storeFail = none →
      a.posted = [(id, w.va)] → Gives (.remoteStoreResponse c i id false) s (fun t => t.remoteOut = [] ∧ SameMemory s t ∧
        (t.slotOf w.core w.slot).act.map (·.posted) = some [] ∧
        (t.slotOf w.core w.slot).act.map (·.storeFail) = some (some (0x0A, w.va, w.num)))) ∧
    (∀ serial atom, c < agentCore → (s.coreOf c).missTrap = false → Gives (.scopeMissReport c serial atom) s (fun t =>
      (t.coreOf c).missCount = satInc (s.coreOf c).missCount ∧ (t.coreOf c).missAddr = BitVec.ofNat 64 (atom * 32 % 2 ^ 56) ∧ SameMemory s t)) ∧
    (∀ cause addr pc, c < 4096 → s.fe.flogLog2 = 0 → Gives (.lateReport c cause addr pc) s (fun t =>
      (t.coreOf c).cntLate = satInc (s.coreOf c).cntLate ∧ SameMemory s t)) ∧
    (∀ round, s.detBlocked round = true → s.det.closing.contains round = false → Gives (.detUpdateArrival (.close round)) s (fun t =>
      t.det.closing = s.det.closing ++ [round] ∧ SameMemory s t)) ∧
    ∀ u : DetUpdate, s.det.closed.contains u.round = false → s.det.spilled = [] → s.det.baskets = [] → Gives (.detUpdateArrival (.update u)) s (fun t =>
      t.det.baskets = [⟨u.pa / 32, u.round, [if detOnHost u then { u with area := none } else u]⟩] ∧ SameMemory s t)

/-- R272, R276, R277, R280, R281, R288, R290 to R295: a tile instruction sends its operation home and its slot waits for the answer, which
it writes to D; a malformed handle is a tile fault. At home: THNEW makes an entry at the lowest free place or answers why not, THSPLIT
makes children, THJOIN and THFREE take entries away, THFRZ and THFRZ.thaw change the state, THINFO reads; a stale handle answers a tile
fault, another ASID a protection fault. A structural operation on a moving index waits until the move ends. That the PC stays at the
instruction while its slot waits (log 21), and that the request and its answer travel as events of the package (log 28), are the model's
readings. -/
def Obligations.TileOperations : Prop :=
  (∀ (s : State) (g : Guard) (d a : Sreg) (dim : Fin 4) (b : Src) (sel : ThSel), s.me.acts g = true →
    let h := s.me.s a
    let n := match b with | .reg r => (s.me.s r).toNat | .imm v => v.toNat
    let forms : List (Instr × TileOp) := [(.thsplit g dim d a b, .split h.toNat dim.val n), (.thjoin g d a, .join h.toNat),
      (.thfrz g d a, .freeze h.toNat), (.thfrzThaw g d a, .thaw h.toNat), (.thfree g d a, .free h.toNat), (.thinfo g sel d a, .info h.toNat sel)]
    ∀ e ∈ forms,
      (h.toNat % 2 ^ 19 = 0 → handlePkg h.toNat = Config.pkg → Gives e.1 s (fun t => t.me.wait = .tile d h Config.pkg ∧ SameMemory s t ∧
        { t.me with wait := s.me.wait } = s.me ∧
        t.agenda = s.agenda ++ [.tileOperationArrival (Config.pkg * 4096 + s.cur.1) s.cur.2 s.me.asid.toNat e.2])) ∧
      (h.toNat % 2 ^ 19 = 0 → s.pkgDown (handlePkg h.toNat) = true → Gives e.1 s (fun t => WroteS s t d 7)) ∧
      (h.toNat % 2 ^ 19 ≠ 0 → s.cur.2 ≠ 4 → s.me.act.bind (·.gang) = none → Gives e.1 s (fun t => Aborted s t 0x08 h false))) ∧
  (∀ (s : State) (g : Guard) (d : Sreg) (m : AMode) (sp : Space) (bs : List Byte) (p : Page), s.me.acts g = true →
    s.readDesc sp (s.me.addr 1 m) 64 = .ok bs →
    s.translate s.cur.1 s.me.asid.toNat (BitVec.ofNat 64 (parseTile bs).base) .atomic = .ok p → paPkg p.pa = Config.pkg →
    Gives (.thnew g d m sp) s (fun t => t.me.wait = .tile d 0 Config.pkg ∧ SameMemory s t ∧
      t.agenda = s.agenda ++ [.tileOperationArrival (Config.pkg * 4096 + s.cur.1) s.cur.2 s.me.asid.toNat (.create (parseTile bs) (tileOk bs))])) ∧
  (∀ (s : State) (c i home : Nat) (d : Sreg) (h : Word), (s.slotOf c i).wait = .tile d h home → (s.slotOf c i).mode = .running →
    (∀ v, Gives (.tileAnswer c i (.value v)) s (fun t => (t.slotOf c i).wait = .none ∧ (t.slotOf c i).pc = nextPc (s.slotOf c i).pc ∧
      (t.slotOf c i).s d = (if d = 0 then 0 else v) ∧ (t.coreOf c).retired = (s.coreOf c).retired + 1 ∧ SameMemory s t)) ∧
    (i ≠ 4 → (s.slotOf c i).act.bind (·.gang) = none → Gives (.tileAnswer c i .tileFault) s (fun t => (t.slotOf c i).mode = .draining ∧
      (t.slotOf c i).frec.addr = h ∧ (t.slotOf c i).frec.cause = BitVec.ofNat 64 (i % 8 * 2 ^ 32 + 0x08)))) ∧
  (∀ (s : State) (c i asid : Nat), let src := Config.pkg * 4096 + c
    c < 4096 →
    let at' := fun (op : TileOp) (a : TileAns) (P : State → Prop) => Gives (.tileOperationArrival src i asid op) s (fun t =>
      t.agenda = s.agenda ++ [.tileAnswer c i a] ∧ P t ∧ SameMemory s t)
    let val := fun (n : Nat) => TileAns.value (BitVec.ofNat 64 n)
    (∀ (desc : TileDesc), let lmi := bits desc.base 37 29
      (s.lmOf lmi).moving = false →
      at' (.create desc false) (val 3) (fun t => t.tiles = s.tiles) ∧
      (s.overlaps desc asid (desc.state == 1) (fun _ => false) = true → at' (.create desc true) (val 1) (fun t => t.tiles = s.tiles)) ∧
      ∀ e, s.overlaps desc asid (desc.state == 1) (fun _ => false) = false → e < 16384 → (s.tileAt (lmi * 16384 + e)).state = .free →
        (∀ j, j < e → (s.tileAt (lmi * 16384 + j)).state ≠ .free) →
        let key := lmi * 16384 + e
        at' (.create desc true) (val (mkHandle (s.tileAt key).gen key)) (fun t => t.tileAt key =
          { gen := (s.tileAt key).gen, state := if desc.state = 1 then .frozen else .live, desc := desc, asid := asid, domain := desc.domain })) ∧
    ∀ h : Nat, (s.lmOf (handleLmi h)).moving = false →
      let key := tileKey h
      let x := s.tileAt key
      (s.stale h = true → (∀ op, opHandle op = some h → (∀ sel, op = .info h sel → sel ≠ .state) → at' op .tileFault (fun t => t.tiles = s.tiles)) ∧
        at' (.info h .state) (.value 0x0000000F00000000) (fun t => t.tiles = s.tiles)) ∧
      (s.stale h = false → x.asid ≠ asid → ∀ op, opHandle op = some h → at' op .protFault (fun t => t.tiles = s.tiles)) ∧
      (s.stale h = false → x.asid = asid →
        (x.state = .live → x.parent = 0 → x.tenures = [] → s.pendingOn key = false →
          at' (.freeze h) (val 0) (fun t => t.tileAt key = { x with state := .frozen }) ∧
          at' (.free h) (val 0) (fun t => t.tileAt key = { gen := nextGen x.gen })) ∧
        (x.state = .live → x.tenures ≠ [] → x.parent = 0 → at' (.freeze h) (val 5) (fun t => t.tiles = s.tiles)) ∧
        (x.state = .frozen → s.overlaps x.desc x.asid false (fun k => k == key) = false →
          at' (.thaw h) (val 0) (fun t => t.tileAt key = { x with state := .live })) ∧
        (x.state ≠ .live → ∀ dim n, at' (.split h dim n) (val 4) (fun t => t.tiles = s.tiles)) ∧
        (∀ dim n first, x.state = .live → x.depth < 3 → dim < x.desc.rank → 2 ≤ n → n ≤ 64 → x.desc.dims.getD dim 0 % n = 0 →
          s.findRun (key / 16384) n 16384 0 = some first →
          let kid := key / 16384 * 16384 + first
          at' (.split h dim n) (val (mkHandle (s.tileAt kid).gen kid)) (fun t =>
            t.tileAt key = { x with state := .split, nchild := n, first := kid } ∧
            ∀ j, j < n → (t.tileAt (kid + j)).state = .live ∧ (t.tileAt (kid + j)).depth = x.depth + 1 ∧
              (t.tileAt (kid + j)).desc = childDesc x.desc dim n j)) ∧
        (x.state = .split → (∀ j, j < x.nchild → (s.tileAt (x.first + j)).state ≠ .split ∧ (s.tileAt (x.first + j)).tenures = [] ∧
            s.pendingOn (x.first + j) = false ∧ x.first + j ≠ key) →
          at' (.join h) (val 0) (fun t => t.tileAt key = { x with state := .live, nchild := 0, first := 0 } ∧
            ∀ j, j < x.nchild → (t.tileAt (x.first + j)).state = .free)) ∧
        at' (.info h .base) (val x.desc.base) (fun t => t.tiles = s.tiles) ∧ at' (.info h .bytes) (val (tileBytes x.desc)) (fun t => t.tiles = s.tiles) ∧
        at' (.info h .parent) (val x.parent.toNat) (fun t => t.tiles = s.tiles))) ∧
  ∀ (s : State) (idx src slot asid : Nat) (op : TileOp), opIndex op = idx → (s.lmOf idx).moving = true → structural op = true →
    Gives (.tileOperationArrival src slot asid op) s (fun t => t.lmHeld = s.lmHeld ++ [.tileOperationArrival src slot asid op] ∧ t.tiles = s.tiles) ∧
    (s.lmHeld = [.tileOperationArrival src slot asid op] → Gives (.lmmapMoveComplete idx) s (fun t => (t.lmOf idx).moving = false ∧ t.lmHeld = [] ∧
      t.agenda = s.agenda ++ [.tileOperationArrival src slot asid op]))

/-- R297, R306, R312, R316 to R319: TXSUB and TXRST answer the check of the descriptor; an accepted one is held by the activation.
TXNUM reads the number, TXNUM.open the open round, TXVER a version of the map, from the bytes that the map holds in local memory (the
model's reading, log 31); TXABORT marks the transaction; outside a transaction TXRST,
TXVER and TXABORT take a protection fault. -/
def Obligations.TransactionInstructions : Prop :=
  ∀ (s : State) (g : Guard) (d : Sreg) (m : AMode) (sp : Space) (k : Fin 16) (new : Bool) (bs : List Byte), s.me.acts g = true →
    let x := s.me
    let r := s.checkTxn bs x.asid.toNat (decide (8 ≤ s.intakeOf s.cur.1 s.cur.2))
    let sub : Submission := ⟨bs, x.asid.toNat, none, some (s.cur.1 * 8 + s.cur.2), r.2⟩
    let submits := fun (i : Instr) (mark : Activation → Activation) => Gives i s (fun t => Retired s t ∧ SameMemory s t ∧
      ScalarSet s t d (BitVec.ofNat 64 r.1) ∧
      t.me.act = if r.1 = 0 then x.act.map (fun (a : Activation) => mark { a with heldSubs := a.heldSubs ++ [sub] }) else x.act)
    (s.readDesc sp (x.addr 1 m) 384 = .ok bs → submits (.txsub g d m sp) id ∧
      (x.txnNum ≠ 0 → submits (.txrst g d m sp) (fun (a : Activation) => { a with rstMark := true }))) ∧
    Gives (.txnum g d) s (fun t => WroteS s t d x.txnNum) ∧
    (s.relaxed = false → Gives (.txnumOpen g d) s (fun t => WroteS s t d (BitVec.ofNat 64 (s.seq.round % 2 ^ 40)))) ∧
    (x.txnNum ≠ 0 →
      (k.val < bits x.tileMap.toNat 22 18 →
        let o := x.tileMap.toNat % 2 ^ 18 + 16 * k.val
        let v := wordOfBytes (s.myCore.rdLoc (o + 8) 4)
        let fl := wordOfBytes (s.myCore.rdLoc (o + 12) 1)
        Gives (.txver g new d k) s (fun t => WroteS s t d (BitVec.ofNat 64 (if new = true ∧ fl % 2 = 1 then (v + 1) % 2 ^ 32 else v)))) ∧
      Gives (.txabort g) s (fun t => OnlySlot s t ∧ Retired s t ∧ t.me.act = x.act.map (fun (a : Activation) => { a with abortMark := true }))) ∧
    (x.txnNum = 0 → s.cur.2 ≠ 4 → x.act.bind (·.gang) = none → ∀ i ∈ [Instr.txrst g d m sp, .txver g new d k, .txabort g],
      Gives i s (fun t => Aborted s t 0x07 0 false))

/-- R279, R282 to R286, R299 to R309, R323, R324: the sequencer numbers the head of its intake and reserves for it; a round closes, its
transactions send their requests, and the next opens; the closure leaves once every request is acknowledged. A home queues a request or,
full, returns the highest, grants it, pushes the tile, and at a commit raises the version; a receipt writes the tile back. A transaction
whose tiles have come is dispatched. Packages join the pod, and are declared out; rounds open again once no join holds them. That the next
round takes in the highest that closures name (log 29), that a returned request counts as acknowledged, and which request a full lock
manager returns where it holds none of the domain (log 61), are the model's. -/
def Obligations.SequencerSteps : Prop :=
  (∀ (s : State) (b : Submission) (rest : List Submission) (c : Nat) (rs : List (Nat × Nat)), s.toPlace = [] → s.seq.intake = b :: rest →
    s.seq.roundOpen = true → s.seq.closedHere.length < 8 → s.chooseCore (s.placement (parseTxn b.desc)) b.sizes = some (c, rs) →
    let pod := (parseTxn b.desc).pod
    let idx := if pod then s.seq.nextPod else s.seq.nextPk
    idx < 4096 → Gives .reservationAndNumbering s (fun t => t.seq.intake = rest ∧
      (t.coreOf c).res = (s.coreOf c).res ++ [⟨.txn (txnNumber pod s.seq.round idx), rs, .filling, 0, 0, 0, false⟩] ∧
      (t.txnOf (txnNumber pod s.seq.round idx)).map (fun (x : Txn) => (x.phase, x.core, x.sub)) = some (.numbered, c, b) ∧
      (if pod then t.seq.nextPod else t.seq.nextPk) = idx + 1)) ∧
  (∀ s : State, s.closable = true → s.seq.joinHold = [] → Gives .roundClose s (fun t => t.seq.round = Nat.max (s.seq.round + 1) s.seq.highest ∧
    t.seq.roundOpen = true ∧ t.seq.nextPk = 0 ∧ t.seq.nextPod = 0 ∧ t.seq.opened = s.wall ∧
    (s.otherMember = true → (s.seq.round, t.seq.round) ∈ t.seq.closing ∨
      (.closure s.seq.round t.seq.round ∈ t.outbox ∧ ∀ q ∈ t.seq.unacked, ¬ (numPod q.num = true ∧ numRound q.num ≤ s.seq.round))) ∧
    ∀ num x, s.txnOf num = some x → numRound num = s.seq.round → x.phase = .numbered → (t.txnOf num).map (·.phase) = some .requested)) ∧
  (∀ (s : State) (p r n : Nat), Gives (.closureArrival p r n) s (fun t =>
    smGet (fun _ => 0) t.seq.closures p = Nat.max (smGet (fun _ => 0) s.seq.closures p) (Nat.max (r + 1) n) ∧
    t.seq.highest = Nat.max s.seq.highest (Nat.max r n) ∧ SameMemory s t)) ∧
  (∀ (s : State) (q : TenReq) (r n : Nat), s.seq.closing = [(r, n)] → s.seq.unacked = [q] →
    Gives (.tenureRequestArrival q .accepted) s (fun t => t.seq.unacked = [] ∧ t.seq.closing = [] ∧
      t.outbox = s.outbox ++ [.closure r n] ∧ SameMemory s t)) ∧
  (∀ (s : State) (r : TenReq) (asid : Nat), (s.lmOf (handleLmi r.handle)).moving = false → s.reqDead r = false →
    (∀ q ∈ s.pend, q.req ≠ r) →
    let arrives := Instr.tenureRequestArrival r (.request asid)
    let x := s.tileAt (tileKey r.handle)
    let held := s.pendAt (s.physOf r.handle)
    (s.stale r.handle = false → (x.state ≠ .retiring ∨ ∃ q ∈ s.lmBack, q.req = r) → (∀ n ∈ x.tenures, n.num ≠ r.num) →
      (held.length < 4096 → Gives arrives s (fun t => t.pend = s.pend ++ [⟨r, asid, false⟩] ∧
        (numPkg r.num ≠ Config.pkg → t.outbox = s.outbox ++ [.tenureAccepted r]) ∧
        (numPkg r.num = Config.pkg → r ∉ t.seq.unacked))) ∧
      (4096 ≤ held.length → (∃ q ∈ held, numPod q.req.num = numPod r.num) →
        (∀ q ∈ held, numPod q.req.num = numPod r.num → numBefore q.req.num r.num = true) →
        numPkg r.num = Config.pkg → Gives arrives s (fun t => t.pend = s.pend ∧ t.seq.returned = s.seq.returned ++ [⟨r, asid, false⟩])) ∧
      (4096 ≤ held.length → (∃ q ∈ held, numPod q.req.num = numPod r.num ∧ numBefore q.req.num r.num = false) →
        Gives arrives s (fun t => ∃ top ∈ held, numPod top.req.num = numPod r.num ∧
          (∀ q ∈ held, numPod q.req.num = numPod r.num → numBefore top.req.num q.req.num = false) ∧
          t.pend = s.pend.filter (fun (p : PendReq) => p != top) ++ [⟨r, asid, false⟩] ∧ ∃ b ∈ t.lmBack, b.req = top.req))) ∧
    (s.stale r.handle = true → numPkg r.num ≠ Config.pkg → Gives arrives s (fun t =>
      t.outbox = s.outbox ++ [.grant r ⟨0, false, true, [], none⟩])) ∧
    (∀ b, s.seq.returned = [⟨r, asid, b⟩] → held = [] → handlePkg r.handle = Config.pkg →
      Gives (.tenureRequestResend ⟨Config.pkg, s.physOf r.handle⟩) s (fun t => t.seq.returned = [] ∧ t.agenda = s.agenda ++ [arrives]))) ∧
  (∀ (s : State) (r : TenReq) (bs : List Byte), handlePkg r.handle = Config.pkg → s.repushes r = false → s.grantReady r = true →
    (∃ q ∈ s.pend, q.req = r) → s.clusterBuf = [] →
    let x := s.tileAt (tileKey r.handle)
    x.state = .live → s.victimOf r = none → s.readTile x = .ok bs → (∀ n ∈ x.tenures, n.num ≠ r.num) →
    let held := fun (t : State) => t.tileAt (tileKey r.handle) = { x with tenures := x.tenures ++ [⟨r.num, r.w⟩] } ∧
      t.pend = s.pend.filter (fun (p : PendReq) => p.req != r)
    (numPkg r.num ≠ Config.pkg → Gives (.tenureGrant r none) s (fun t => held t ∧ SameMemory s t ∧
      t.outbox = s.outbox ++ [.grant r ⟨x.version, false, false, bs, none⟩])) ∧
    ∀ tx, numPkg r.num = Config.pkg → s.txnOf r.num = some tx → tx.phase = .requested → tx.evicted = false → tx.granted = [false] →
      tx.gver.length = 1 → (txnEntry tx.sub.desc 0).handle = r.handle → bs.length = (tx.ranges.getD 0 (0, 0)).2 →
      Gives (.tenureGrant r none) s (fun t => held t ∧
        (t.txnOf r.num).map (fun (e : Txn) => (e.granted, e.gver)) = some ([true], [x.version]) ∧
        let land := tx.ranges.getD 0 (0, 0)
        StoredLoc s t tx.core land.1 bs)) ∧
  (∀ (s : State) (num : Nat) (tx : Txn), s.txnOf num = some tx → s.dispatchReady num tx = true → tx.granted.length ≤ 16 →
    Gives (.dispatch num) s (fun t => (t.txnOf num).map (·.phase) = some .dispatched ∧
      StoredLoc s t tx.core tx.map (padTo 256 ((List.range tx.granted.length).flatMap (mapBytes tx))) ∧
      (∀ e ∈ (t.coreOf tx.core).res, e.owner = .txn num → e.state = .held) ∧
      ∃ m, t.agenda = s.agenda ++ [.messageArrival tx.core m] ∧ m.kind = .dispatch ∧ m.msgid = num % 2 ^ 32 ∧
        m.hid = (parseTxn tx.sub.desc).hid ∧ m.queue = (parseTxn tx.sub.desc).queue ∧ m.payload = (parseTxn tx.sub.desc).args)) ∧
  (∀ (s : State) (num h : Nat), handlePkg h = Config.pkg → s.stale h = false →
    let x := s.tileAt (tileKey h)
    x.state = .live →
    (smWf (fun _ => {}) s.tiles → (∃ n ∈ x.tenures, n.num = num ∧ n.w = true) → (∀ q ∈ s.pend, q.req.handle ≠ h) →
      Gives (.commitGrant num ⟨h, none⟩) s (fun t =>
      (t.tileAt (tileKey h)).version = x.version + 1 ∧
      (t.tileAt (tileKey h)).tenures = x.tenures.filter (fun (n : Tenure) => n.num != num) ∧
      t.commits = s.commits ++ [{ num := num, handle := h, desc := x.desc, asid := x.asid }] ∧ SameMemory s t ∧
      (numPkg num = Config.pkg → t.agenda = s.agenda ++ [.homeReceipt num h (.data [])]) ∧
      (numPkg num ≠ Config.pkg → t.outbox = s.outbox ++ [.commitGranted num h none]))) ∧
    (s.heldStores = [] → s.hostOut = [] → numPkg num ≠ Config.pkg → Gives (.tenureRelease num h) s (fun t =>
      (t.tileAt (tileKey h)).tenures = x.tenures.filter (fun (n : Tenure) => n.num != num) ∧
      t.outbox = s.outbox ++ [.released num h] ∧ SameMemory s t))) ∧
  (∀ (s u : State) (num h : Nat) (desc : TileDesc) (asid : Nat) (data : List Byte), handlePkg h = Config.pkg → numPkg num ≠ Config.pkg →
    s.commits = [{ num := num, handle := h, desc := desc, asid := asid }] → s.txnOf num = none → s.heldStores = [] → s.hostOut = [] →
    (s.writeTile asid (tileRuns desc) (padTo (tileBytes desc) data) = .ok u → Gives (.homeReceipt num h (.data data)) s (fun t =>
      SameMemory u t ∧ t.commits = [] ∧ t.outbox = u.outbox ++ [.receipt num h true])) ∧
    ∀ f, s.writeTile asid (tileRuns desc) (padTo (tileBytes desc) data) = .error f → (∀ l inv, f ≠ .line l inv) →
      Gives (.homeReceipt num h (.data data)) s (fun t => SameMemory s t ∧ t.commits = [] ∧ t.outbox = s.outbox ++ [.receipt num h false])) ∧
  ∀ (s : State) (p r : Nat), p ≠ Config.pkg → p < 1024 →
    let mem := fun (t : State) => smGet (fun _ => {}) t.members p
    ((mem s).member = true → (mem s).out = false →
      Gives (.outOfServiceDeclaration p r) s (fun t => mem t = { mem s with out := true, outRound := r }) ∧
      Gives (.podTimeoutExpiry p) s (fun t => mem t = { mem s with
        out := true, outRound := Nat.max (mem s).joinRound (smGet (fun _ => 0) s.seq.closures p) })) ∧
    Gives (.podJoin p false) s (fun t => mem t = ⟨true, false, 0, 1⟩ ∧ SameMemory s t) ∧
    Gives (.joinNotice p) s (fun t => t.outbox = s.outbox ++ [.joinAck s.seq.round] ∧ p ∈ t.seq.joinHold ∧ SameMemory s t) ∧
    ((∀ q ∈ s.seq.joinHold, q = p) → s.seq.joining = false →
      Gives (.joinRound p r) s (fun t => mem t = ⟨true, false, 0, r⟩ ∧ t.seq.joinHold = [] ∧ t.seq.roundOpen = true ∧ SameMemory s t)) ∧
    ((∃ q ∈ s.seq.joinHold, q ≠ p) → Gives (.joinRound p r) s (fun t => mem t = ⟨true, false, 0, r⟩ ∧ t.seq.roundOpen = s.seq.roundOpen ∧
      p ∉ t.seq.joinHold ∧ SameMemory s t)) ∧
    ((s.seq.roundOpen = true ∨ (s.fe.booting = true ∧ s.seq.joining = false)) → s.seq.round = 1 → s.seq.nextPk = 0 → s.seq.nextPod = 0 → Gives (.podJoin Config.pkg true) s (fun t =>
      t.seq.joining = true ∧ t.seq.roundOpen = false ∧ t.outbox = s.outbox ++ [.joinNotice] ∧ SameMemory s t)) ∧
    (s.seq.joining = true → s.fe.booting = false → Gives (.joinRound Config.pkg r) s (fun t => t.seq.joining = false ∧ t.seq.round = r ∧ t.seq.roundOpen = true ∧
      SameMemory s t)) ∧
    Gives .managementWithdrawRequest s (fun t => t.outbox = s.outbox ++ [.withdraw] ∧ SameMemory s t)

/-- R340, R343 to R347, R353, R354, R357: a packet that may start starts, and RIDX moves on: NOP and FETCHFENCE complete at once; TXN submits
its descriptors, MSG places its message, LAUNCH puts a root task on its core, GANG reserves slots and starts its members, WAITSIG and SIGNAL
complete by their signals, INDIRECT opens its level, RING sets a ring up. That a MSG to another package stays started until its answer (log
41), and the places that the front end keeps of an agent port (log 62), are the model's. -/
def Obligations.PacketsStart : Prop :=
  ∀ (s : State) (q ty : Nat) (va : Word) (bs : List Byte), PacketNext s q ty va bs →
    let h := s.hq q
    let id := h.nextStart
    let p : Started := { id := id, index := h.ridx, parent := none, bytes := bs }
    let n := fieldOf bs
    let done := fun (t : State) => .packetCompletion q id true ∈ t.agenda
    (ty = 0 → Gives (.nopPacket q) s (fun t => Began s t q p ∧ done t)) ∧
    (ty = 7 → Gives (.fetchfencePacket q) s (fun t => Began s t q p ∧ done t ∧ (t.hq q).pre = [] ∧ (t.hq q).named = [])) ∧
    (ty = 8 → BitVec.ofNat 64 (n 16 8) ≠ h.ring → Gives (.indirectPacket q) s (fun t => (t.hq q).ridx = h.ridx ∧
      (t.hq q).levels = [⟨BitVec.ofNat 64 (n 16 8), 0, n 24 4, bs, va, none⟩] ∧ SameMemory s t)) ∧
    (∀ v, ty = 5 → s.readG agentCore h.asid (BitVec.ofNat 64 (n 16 8)) 8 = .ok v →
      let reached := (BitVec.ofNat 64 (wordOfBytes v)).toInt ≤ (BitVec.ofNat 64 (n 24 8)).toInt
      (reached → Gives (.waitsigPacket q) s (fun t => Began s t q p ∧ done t)) ∧
      (¬ reached → Gives (.waitsigPacket q) s (fun t => Began s t q { p with pending := 1 }))) ∧
    (∀ pg, ty = 6 → (id + 1) % 64 ≠ 0 →
      let va' := BitVec.ofNat 64 (n 16 8)
      let u := s.clearV q va
      (s.atomicPage (frontWho h.asid va') true 8).isOk = true → u.translate agentCore h.asid va' .atomic = .ok pg → pg.host = false →
      pg.window = false → u.hostLine agentCore pg.pa 8 true = none → u.unreadable pg.pa 8 = false → u.homeFate pg.pa = .now →
      Gives (.signalPacket q) s (fun t => Began s t q p ∧
        Stored u t pg.pa (bytesOf 8 (if n 32 1 = 0 then n 24 8 else u.rdNat pg.pa 8 + (2 ^ 64 - n 24 8))))) ∧
    ∀ data, s.readNamed q va (namedBy bs).1 (namedBy bs).2 = .ok data →
      (ty = 1 → n 24 4 = 1 → s.packetIntake < 65536 → (s.checkTxn (descAt data 0) h.asid false).1 = 0 → Gives (.txnPacket q) s (fun t =>
        Began s t q { p with pending := 1 } ∧ t.seq.intake = s.seq.intake ++
          [⟨descAt data 0, h.asid, some (q, id), none, (s.checkTxn (descAt data 0) h.asid false).2⟩])) ∧
      (ty = 2 →
        let m := packetMessage q id bs data h.prioMax
        let c := m.dest % 4096
        let k := s.coreOf c
        let user := h.sys = true ∨ (m.queue ≠ 0 ∧ 16 ≤ m.hid)
        (m.dest / 4096 = Config.pkg → user → fromPacket m = true → id < 2 ^ 64 → k.svc = .inService → s.checkMessage c m true = 0 →
          k.frontHeld < 128 →
          (k.portFull = false → k.agentWaits m.queue = false → (k.queueOf m.queue).fits m = true → Gives (.msgPacket q) s (fun t =>
            Began s t q p ∧ ((t.coreOf c).queueOf m.queue).msgs = (k.queueOf m.queue).msgs ++ [m])) ∧
          (k.portFull = true → Gives (.msgPacket q) s (fun t =>
            Began s t q { p with pending := 1 } ∧ (t.coreOf c).agentWait = k.agentWait ++ [m]))) ∧
        (m.dest / 4096 ≠ Config.pkg → user → s.pkgDown (m.dest / 4096) = false → Gives (.msgPacket q) s (fun t =>
          Began s t q { p with whole := false } ∧ .message m ∈ t.outbox)) ∧
        (¬ user → Gives (.msgPacket q) s (fun t => Began s t q { p with fail := true } ∧ done t))) ∧
      (ty = 3 → taskOk data = true → s.launches.length < 1024 →
        let k := s.coreOf (n 16 2)
        let e : DequeEntry := { desc := data, prio := taskPrio data (pktPrio bs h.prioMax), launch := s.nextLaunch, held := none }
        k.deque.length + k.spillDeque.length < k.dequeRoom → k.svc = .inService → Gives (.launchPacket q) s (fun t =>
          Began s t q { p with pending := 1 } ∧
          (k.deque.length < 64 → k.spillDeque = [] → (∀ x ∈ k.deque, x.pos = none) → (t.coreOf (n 16 2)).deque = k.deque ++ [e]) ∧
          ∃ l, smGet (fun _ => none) t.launches s.nextLaunch = some l ∧ l.queue = q ∧ l.packet = id ∧
            smGet (fun _ => 0) l.c (sgOf (n 16 2)) = 1)) ∧
      (∀ m i, ty = 4 → n 24 1 = 1 → gangOk data 1 = true → s.placingGang = none → gangMembers data 1 = [m] → s.gangSlot m = some i →
        Gives (.gangPacket q) s (fun t => Began s t q { p with pending := 1 } ∧ (t.slotOf m.core i).reserved = some (s.nextGid, 0) ∧
          ∃ g, t.gangOf s.nextGid = some g ∧ g.queue = q ∧ g.packet = id ∧ g.members = [{ m with slot := some i }] ∧
            .messageArrival m.core (gangMessage s.nextGid g 0 { m with slot := some i }) ∈ t.agenda)) ∧
      (ty = 9 → n 16 8 % 64 = 0 → Gives (.ringPacket q) s (fun t =>
        Began s t q { p with fail := (s.ringSetup data).2 != 0 } ∧ done t))

/-- R340, R341, R344, R348 to R350, R358, R359: kicks, cancels and queue control; the read of the next packet; errors; the completion of a
packet and its signal; gangs that wait for slots; firmware loaded on the standby, which a write to FE_CTL then has take over, or which is
refused; the failover of the front end. That the error code reads 0 after QCTL 1 and what ERRIDX is for a packet inside a buffer (log 38), the
rules of V there (log 37), and that packets of an open buffer start while the queue is held (log 39), are the model's. -/
def Obligations.HostQueues : Prop :=
  (∀ (s : State) (q : Nat) (v : Word),
    let h := s.hq q
    (h.state = .disabled → exec (.kick q v) s = .next s) ∧
    (h.state ≠ .disabled → h.stalled = false → Nat.max h.widx v.toNat ≤ h.ridx + 2 ^ h.log2n → Gives (.kick q v) s (fun t =>
      (t.hq q).widx = Nat.max h.widx v.toNat ∧ (t.hq q).state = h.state ∧ SameMemory s t)) ∧
    (h.state = .running → h.ridx + 2 ^ h.log2n < v.toNat → Gives (.kick q v) s (fun t =>
      (t.hq q).state = .error ∧ (t.hq q).err = 7 ∧ (t.hq q).errIdx = h.ridx + 2 ^ h.log2n)) ∧
    Gives (.cancel q v) s (fun t => SameMemory s t ∧ (t.hq q).ridx = h.ridx ∧
      (t.hq q).cstat = (if h.ridx ≤ v.toNat ∧ v.toNat < h.widx then 1
        else if h.ran.any (fun e => decide (e.1 ≤ v.toNat ∧ v.toNat < e.2)) = true then 2 else 3) ∧
      (h.ridx ≤ v.toNat → v.toNat < h.widx → v.toNat ∈ (t.hq q).cancelled)) ∧
    (h.state = .running → Gives (.qctlHold q) s (fun t => (t.hq q).state = .held ∧ SameMemory s t)) ∧
    (h.state = .held → Gives (.qctlRelease q) s (fun t => (t.hq q).state = .running ∧ SameMemory s t)) ∧
    (∀ pa, h.state = .disabled → s.queueDesc q = some pa → descOk (s.rdHbm pa 64) = true →
      s.hostLine agentCore pa 64 false = none → s.unreadable pa 64 = false →
      let f := fieldOf (s.rdHbm pa 64)
      Gives (.qctlEnable q) s (fun t => (t.hq q).state = .running ∧ (t.hq q).ridx = f 16 8 ∧ (t.hq q).widx = f 16 8 ∧
        (t.hq q).ring = BitVec.ofNat 64 (f 0 8) ∧ (t.hq q).log2n = f 8 1 ∧ (t.hq q).asid = f 10 2 ∧ (t.hq q).prioMax = f 12 1 ∧
        (t.hq q).errSig = BitVec.ofNat 64 (f 24 8) ∧ (t.hq q).err = 0 ∧ SameMemory s t)) ∧
    (h.state = .running → (h.started ≠ [] → Gives (.qctlDisable q) s (fun t => (t.hq q).disabling = true ∧ (t.hq q).state = .running)) ∧
      (h.started = [] → Gives (.qctlDisable q) s (fun t => t.agenda = s.agenda ++ [.queueDisableComplete q]))) ∧
    (h.disabling = true → h.started = [] → Gives (.queueDisableComplete q) s (fun t => (t.hq q).state = .disabled ∧ (t.hq q).disabling = false)) ∧
    (h.state = .error → h.err = 7 → Gives (.qctlResume q) s (fun t => (t.hq q).state = .running ∧ (t.hq q).err = 0 ∧
      (t.hq q).widx = h.ridx + 2 ^ h.log2n ∧ (h.started ≠ [] → SameMemory s t))) ∧
    ∀ va bs, h.nextAt = some va → h.going = true → h.preOf va = none → s.readLine q va = .ok bs →
      let reads := fun (i : Instr) =>
        (pktValid bs = false → Gives i s (fun t => (t.hq q).stalled = true ∧ (t.hq q).ridx = h.ridx ∧ SameMemory s t)) ∧
        (pktValid bs = true → h.isCancelled = false → packetOk bs = true → Gives i s (fun t => (t.hq q).stalled = false ∧
          (va.toNat, bs) ∈ (t.hq q).pre ∧ t.agenda = s.agenda ++ [typeEvent q (pktType bs)] ∧ SameMemory s t)) ∧
        (pktValid bs = true → h.isCancelled = false → packetOk bs = false → h.state = .running → Gives i s (fun t =>
          (t.hq q).state = .error ∧ (t.hq q).err = 1 ∧ (t.hq q).errIdx = h.ringIdx))
      reads (.packetRead q) ∧ (h.stalled = true → reads (.packetReread q))) ∧
  (∀ (s : State) (q : Nat) (p : Started) (ok : Bool) (pg : Page), p ∈ (s.hq q).started → (∀ x ∈ (s.hq q).started, x.id = p.id → x = p) →
    p.pending = 0 → p.whole = true → p.parent = none → (∃ x ∈ (s.hq q).started, x.id ≠ p.id) → pktSig p.bytes ≠ 0 →
    let h := s.hq q
    s.translate agentCore h.asid (pktSig p.bytes) .atomic = .ok pg → pg.host = false → pg.window = false →
    s.hostLine agentCore pg.pa 8 true = none → s.unreadable pg.pa 8 = false → s.homeFate pg.pa = .now →
    (s.slotOf agentCore 8).act = none →
    let new := s.rdNat pg.pa 8 + 2 ^ 64 - (if p.fail then 0x100000000 else 1)
    Gives (.packetCompletion q p.id ok) s (fun t => Stored s t pg.pa (bytesOf 8 new) ∧
      (t.hq q).started = h.started.filter (fun e => e.id != p.id) ∧
      (pktIrq p.bytes = true → h.msixEn = true → (BitVec.ofNat 64 new).toInt ≤ 0 → t.outbox = s.outbox ++ [.msix h.msix]))) ∧
  (∀ (s : State) (q id : Nat) (p : Started) (v : List Byte), (s.hq q).started.find? (fun e => e.id == id && pktType e.bytes == 5 && e.pending == 1) = some p →
    s.readG agentCore (s.hq q).asid (BitVec.ofNat 64 (fieldOf p.bytes 16 8)) 8 = .ok v →
    ((BitVec.ofNat 64 (wordOfBytes v)).toInt ≤ (BitVec.ofNat 64 (fieldOf p.bytes 24 8)).toInt → Gives (.waitsigReread q id) s (fun t =>
      (t.hq q).started = (s.hq q).started.map (fun (e : Started) => if e.id = id then { e with pending := e.pending - 1 } else e) ∧ SameMemory s t)) ∧
    ((BitVec.ofNat 64 (fieldOf p.bytes 24 8)).toInt < (BitVec.ofNat 64 (wordOfBytes v)).toInt → exec (.waitsigReread q id) s = .next s)) ∧
  (∀ (s : State) (gid i : Nat) (g : Gang) (m : GMember), s.placingGang = some gid → s.gangOf gid = some g → g.ended = false → g.members = [m] →
    m.slot = none → m.returned = false → s.gangSlot m = some i → Gives .gangSlotReservation s (fun t => (t.slotOf m.core i).reserved = some (gid, 0) ∧
      SameMemory s t ∧ ∃ w, t.agenda = s.agenda ++ [.messageArrival m.core w] ∧ w.kind = .gang ∧ w.msgid = gid)) ∧
  ∀ (s : State) (v : Word) (ver : BitVec 16) (reads : Bool),
    let takes := s.fe.standbyOk = true ∧ s.fe.standbyReads = true
    (s.fe.updating = false → Gives (.liveUpdate (.load ver reads)) s (fun t => t.fe.standbyOk = true ∧ t.fe.standbyReads = reads ∧
      smGet (fun _ => none) t.fe.vers (!s.fe.active).toNat = some ver ∧ t.fe.active = s.fe.active ∧ SameMemory s t)) ∧
    (v.getLsbD 0 = true → s.fe.updating = false → takes → Gives (.liveUpdate (.write v)) s (fun t => t.fe.updating = true ∧
      t.fe.refused = false ∧ t.fe.active = s.fe.active ∧ SameMemory s t)) ∧
    (v.getLsbD 0 = true → s.fe.updating = false → ¬ takes → Gives (.liveUpdate (.write v)) s (fun t => t.fe.refused = true ∧
      t.fe.updating = false ∧ SameMemory s t)) ∧
    (s.fe.updating = true → Gives .liveUpdateHandover s (fun t => t.fe.active = !s.fe.active ∧ t.fe.updating = false ∧ SameMemory s t)) ∧
    Gives .failover s (fun t => t.fe.active = !s.fe.active ∧ SameMemory s t)

/-- R123, R164, R233 to R236, R337, R338, R365: invalidation removes what its request covers and then signals, for every package once the
others have answered; a walk is cached; the host's reads and writes are served at their homes, held behind a back-invalidation, and what
waits for a line goes on after the response. The driver's answer becomes a work item, and a fault without one ends. The codebook and the
bank roles change as their registers say, behind the commands that use them. That an event whose condition does not hold leaves the state
(log 58), 100 ms as 2,400,000,000 units of 1/24 ns (log 4), and a record in a poisoned atom being logged (log 61), are the model's. -/
def Obligations.MemoryService : Prop :=
  ∀ s : State,
    let quiet := fun (pa n : Nat) => s.unreadable pa n = false ∧ (∀ e ∈ s.tiles, e.2.state ≠ .frozen ∧ e.2.tenures.isEmpty = true) ∧
      s.heldStores = [] ∧ s.remoteOut = []
    (∀ v : Word, v.toNat % 32 = 0 → v.toNat < 2 ^ 56 → paPkg v.toNat = Config.pkg → paOff v.toNat < hbmBytes → s.doorbells = [] →
      s.hostLine agentCore v.toNat 32 false = none → s.unreadable v.toNat 32 = false →
      let r := parseInv (s.rdHbm v.toNat 32)
      r.sig % 8 = 0 → Gives (.invalidationDoorbell (.record v)) s (fun t => t.inv = s.inv ++ [r] ∧ SameMemory s t ∧
        t.outbox = if r.scope = 5 ∧ r.bad = false ∧ s.otherMember = true then s.outbox ++ [.invalidate r] else s.outbox)) ∧
    (∀ v : Word, v.toNat % 32 = 0 → v.toNat < 2 ^ 56 → paPkg v.toNat = Config.pkg → paOff v.toNat < hbmBytes → s.doorbells = [] →
      s.hostLine agentCore v.toNat 32 false = none → s.unreadable v.toNat 32 = true → Gives (.invalidationDoorbell (.record v)) s (fun t =>
        t.inv = s.inv ∧ t.doorbells = [] ∧ t.fe.flogNext.toNat = if s.fe.flogLog2.toNat < 4 then s.fe.flogNext.toNat else (s.fe.flogNext.toNat + 1) % 2 ^ 48)) ∧
    (∀ v : Word, v.toNat % 32 ≠ 0 → s.fe.flogLog2 = 0 → s.doorbells = [] → exec (.invalidationDoorbell (.record v)) s = .next s) ∧
    (∀ v d l, s.doorbells = d :: l → Gives (.invalidationDoorbell (.record v)) s (fun t => t.doorbells = s.doorbells ++ [v] ∧ SameMemory s t)) ∧
    (∀ r, s.inv = [] → Gives (.invalidationDoorbell (.other r)) s (fun t => t.inv = [{ r with scope := 6, bad := false }] ∧ SameMemory s t)) ∧
    (∀ r rest, s.inv = r :: rest → r.scope = 5 → Gives (.invalidationDoorbell (.answered r.sig)) s (fun t =>
      t.inv = { r with scope := 4 } :: rest ∧ SameMemory s t)) ∧
    (∀ r rest, s.inv = r :: rest → s.hostLine agentCore r.sig 8 true = none → s.relaxed = false → r.bad = false → r.scope ≠ 6 →
      (r.scope = 5 → s.otherMember = false) → r.sig % 8 = 0 → r.sig < 2 ^ 56 →
      paPkg r.sig = Config.pkg → paOff r.sig < hbmBytes → s.deferred = [] → quiet r.sig 8 → Gives .invalidationCompletion s (fun t => t.inv = rest ∧
        t.tlb = s.tlb.filter (fun e => !invCovers r e) ∧ Stored s t r.sig (bytesOf 8 (s.rdNat r.sig 8 + 2 ^ 64 - 1)))) ∧
    (∀ r : InvReq, s.inv = [r] → r.scope = 6 → r.bad = false → s.heldStores = [] → s.remoteOut = [] → s.deferred = [] → s.relaxed = false →
      Gives .invalidationCompletion s (fun t => t.inv = [] ∧ t.tlb = s.tlb.filter (fun e => !invCovers r e) ∧
        t.outbox = s.outbox ++ [.invalidated r.sig] ∧ SameMemory s t)) ∧
    (∀ r rest d, s.inv = r :: rest → r.bad = false → d ∈ s.deferred → d.who.core ≠ agentCore → invMeets r d.who.asid d.who.va.toNat d.who.va.toNat = true →
      s.relaxed = false → Gives .invalidationCompletion s (fun t => t.inv = s.inv ∧ t.tlb = s.tlb.filter (fun e => !invCovers r e) ∧
        t.outbox = s.outbox ∧ SameMemory s t)) ∧
    (∀ c asid page e level at', s.walkVa c asid (BitVec.ofNat 64 (page * 65536)) = .ok (e, level, at') →
      Gives (.walkCompletion c asid page) s (fun t => ⟨.micro c, asid, page, BitVec.ofNat 64 e, level⟩ ∈ t.tlb ∧
        ⟨.cluster (clusterOf c), asid, page, BitVec.ofNat 64 e, level⟩ ∈ t.tlb ∧ SameMemory s t)) ∧
    (∀ off (data : List Byte), off + data.length ≤ hbmBytes → s.bisnp = [] → s.relaxed = false → s.hostOut = [] →
      quiet (ownPa off) data.length →
      Gives (.hostMemWrite off data) s (fun t => Stored s t (ownPa off) data ∧ t.outbox = s.outbox ++ [.hostDone off])) ∧
    (∀ off n hold, off + n ≤ hbmBytes → s.bisnp = [] → Gives (.hostMemRead off n hold) s (fun t =>
      t.outbox = s.outbox ++ [.hostData off (s.rdHbm (ownPa off) n)] ∧ SameMemory s t ∧
      (hold = true → 0 < n → smGet (fun _ => false) t.hostHeld (ownPa off / 64) = true))) ∧
    (∀ off n hold line, line ∈ s.bisnp → ownPa off / 64 ≤ line → line * 64 < ownPa off + n → Gives (.hostMemRead off n hold) s (fun t =>
      t.hostReqs = s.hostReqs ++ [⟨off, false, n, [], hold⟩] ∧ t.outbox = s.outbox ∧ SameMemory s t)) ∧
    (∀ line keep, s.bisnp = [line] → s.hostReqs = [] → s.sigPend = [] → s.doorbells = [] → s.fe.fsqHeld = [] →
      (∀ e ∈ s.hqueues, e.2.ridxDue = false) → s.heldStores = [] → s.farHeld = [] → Gives (.birspArrival line none keep) s (fun t => t.bisnp = [] ∧
      smGet (fun _ => false) t.hostHeld line = keep ∧ SameMemory s t ∧
      ∀ c i, i < 5 → (s.slotOf c i).wait = .line line → (t.slotOf c i).wait = .none)) ∧
    (∀ c slot ab, c < 4096 → slot ≤ 3 → (s.slotOf c slot).mode = .faultService →
      Gives (.fsresp (BitVec.ofNat 64 (Config.pkg * 4096 + c + slot * 2 ^ 22 + ab % 2 * 2 ^ 25))) s (fun t =>
        (t.coreOf c).work = (s.coreOf c).work ++ [.answer (ab % 2 == 1) none slot] ∧ SameMemory s t)) ∧
    (∀ v : Word, 2 ^ 28 ≤ v.toNat → exec (.fsresp v) s = .next s) ∧
    (∀ v : Word, s.fe.fsqHeld = [] → Gives (.fsqIdx v) s (fun t => t.fe.fsqRd = v.setWidth 32 ∧ SameMemory s t)) ∧
    (∀ c slot e, slot < 4 → (s.slotOf c slot).mode = .faultService →
      (s.wall - (s.slotOf c slot).frec.since < 2400000000 → exec (.faultAnswerTimeout c slot e) s = .next s) ∧
      (2400000000 ≤ s.wall - (s.slotOf c slot).frec.since → (s.slotOf c slot).act.bind (·.gang) = none →
        (s.slotOf c slot).frec.cause.toNat % 256 = 0x10 → Gives (.faultAnswerTimeout c slot e) s (fun t =>
          (t.slotOf c slot).mode = .draining ∧ (t.slotOf c slot).frec.cause = (((s.slotOf c slot).frec.cause &&& ~~~(0x800000FF#64)) ||| 0x0F#64)))) ∧
    ∀ (c i : Nat) (v : Word),
      ((s.coreOf c).codebookRead = true → exec (.cbData c i v) s = .next s ∧ exec (.cbCtl c v) s = .next s) ∧
      ((s.coreOf c).codebookRead = false → Gives (.cbData c i v) s (fun t => (∀ r, smGet cbDefault (t.coreOf c).codebook r =
        if r = (s.slotOf c i).cbRow.toNat then v.setWidth 32 else smGet cbDefault (s.coreOf c).codebook r) ∧
        (t.slotOf c i).cbRow = (s.slotOf c i).cbRow + 1 ∧ SameMemory s t)) ∧
      ((s.coreOf c).codebookRead = false → v.getLsbD 0 = true → Gives (.cbCtl c v) s (fun t => ∀ r, smGet cbDefault (t.coreOf c).codebook r = cbDefault r)) ∧
      (let ord := match (s.coreOf c).rolePend with | some p => p.2.1 | none => s.serial
       (s.coreOf c).roleRefused v = false →
        ((s.coreOf c).roleDrains ord = false → Gives (.bankRole c i v) s (fun t => (t.coreOf c).bankRole = v ∧
          ((s.slotOf c i).wait = .role → (t.slotOf c i).wait = .none ∧ (t.coreOf c).rolePend = none) ∧
          ∀ o, locByte t c o = if (s.coreOf c).role (o / 8192) = bits v.toNat (2 * (o / 8192) + 1) (2 * (o / 8192)) then locByte s c o else 0)) ∧
        ((s.coreOf c).roleDrains ord = true → exec (.bankRole c i v) s = .next s)) ∧
      ((s.coreOf c).roleRefused v = true → i ≠ 4 → (s.slotOf c i).act.bind (·.gang) = none → Gives (.bankRole c i v) s (fun t =>
        (t.slotOf c i).mode = .draining ∧ (t.slotOf c i).frec.cause = BitVec.ofNat 64 (i % 8 * 2 ^ 32 + 0x07) ∧
        (t.coreOf c).bankRole = (s.coreOf c).bankRole))

/-- R227, R242, R243, R322, R371, R372, R380 to R386: registers of the window take their values in range; errors ask for a self-test, whose
failure retires the unit and whose success readmits a core; drains run one at a time; frames go offline when they are acknowledged; links,
points, THR and the trip change where their conditions hold; a retrain changes nothing; a reset of the package begins at P3 with every core
tested and every link trained, and ends with the point at MAXPT. The conditions standing since a time (log 48), events that do not apply
leaving the state (log 58), recalibration leaving all of the state (log 52), what a reset keeps and its phases (log 20), and zero local
banks after a test (log 14), are the model's. -/
def Obligations.PackageService : Prop :=
  ∀ s : State,
    let port := fun (t : State) (p : Nat) => smGet (fun _ => {}) t.ports p
    (∀ v : Word, (4 ≤ v.toNat % 128 ∧ v.toNat % 128 ≤ 64 → Gives (.managementRegisterWrite 0x30000 v) s (fun t =>
        t.seq.nextPeriod = v.toNat % 128 ∧ t.seq.period = s.seq.period ∧ SameMemory s t)) ∧
      (v.toNat % 128 < 4 ∨ 64 < v.toNat % 128 → exec (.managementRegisterWrite 0x30000 v) s = .next s) ∧
      (50 ≤ v.toNat % 2 ^ 32 → v.toNat % 2 ^ 32 ≤ 10000 → Gives (.managementRegisterWrite 0x40000 v) s (fun t => t.fe.podTimeout = v.toNat % 2 ^ 32)) ∧
      Gives (.managementRegisterWrite 0x90000 v) s (fun t => t.fe.maxPt = bits v.toNat 3 2 ∧
        t.fe.cap = if 1000 ≤ bits v.toNat 15 4 ∧ bits v.toNat 15 4 ≤ 2600 then bits v.toNat 15 4 else s.fe.cap)) ∧
    (∀ v : Word, let f := paOff (bits v.toNat 55 16 * 65536) / 65536
      paPkg (bits v.toNat 55 16 * 65536) = Config.pkg → f ∈ s.fe.vacate → Gives (.offlnAck v) s (fun t =>
        t.fe.offline = s.fe.offline ++ [f] ∧ t.fe.vacate = s.fe.vacate.filter (· != f) ∧ SameMemory s t)) ∧
    (∀ c b, Gives (.correctedError (.bank c b)) s (fun t => .bank c b ∈ t.fe.tests ∧ SameMemory s t)) ∧
    (∀ c b, .bank c b ∈ s.fe.tests → s.fe.flogLog2 = 0 →
      Gives (.selfTestResult (.bank c b) false) s (fun t => b ∈ (t.coreOf c).retiring ∧ .bank c b ∉ t.fe.tests ∧ SameMemory s t) ∧
      Gives (.selfTestResult (.bank c b) true) s (fun t => (t.coreOf c).retiring = (s.coreOf c).retiring ∧ .bank c b ∉ t.fe.tests)) ∧
    (∀ p, .link p 0 ∈ s.fe.tests → Gives (.selfTestResult (.link p 0) false) s (fun t => port t p = { port s p with lo := false })) ∧
    (∀ c, .core c ∈ s.fe.tests → (s.coreOf c).svc = .testing → Gives (.selfTestResult (.core c) true) s (fun t =>
      (t.coreOf c).svc = .inService ∧ (∀ o, locByte t c o = 0) ∧ (t.coreOf c).locPoison = [] ∧ (t.coreOf c).cacheLines = [] ∧ (∀ n, (t.coreOf c).handlerOf n = handlerDefault n) ∧
      ∀ r, smGet cbDefault (t.coreOf c).codebook r = cbDefault r)) ∧
    (∀ c, .core c ∈ s.fe.tests → Gives (.selfTestResult (.core c) false) s (fun t => (t.coreOf c).svc = .retired ∧ .core c ∉ t.fe.tests)) ∧
    (∀ c, (s.coreOf c).svc = .inService → s.fe.drains = [] → Gives (.coreDrain c) s (fun t => (t.coreOf c).svc = .draining ∧
      t.fe.drains = [c] ∧ t.fe.svcCore = c ∧ SameMemory s t)) ∧
    (∀ c d, (s.coreOf c).svc = .inService → d ≠ c → s.fe.drains = [d] → Gives (.coreDrain c) s (fun t =>
      (t.coreOf c).svc = .inService ∧ t.fe.drains = [d, c])) ∧
    (∀ c, s.drainReady c = true → s.fe.tests = [] → s.fe.drains = [c] → (s.coreOf c).queues = [] → (s.coreOf c).agentPort = [] →
      (s.coreOf c).agentWait = [] → (s.coreOf c).work = [] → Gives (.coreDrainComplete c) s (fun t => (t.coreOf c).svc = .drained ∧ t.fe.drains = [])) ∧
    (∀ c, s.drainReady c = true → s.fe.tests.contains (.core c) = true → s.fe.drains = [c] → (s.coreOf c).queues = [] →
      (s.coreOf c).agentPort = [] → (s.coreOf c).agentWait = [] → (s.coreOf c).work = [] →
      Gives (.coreDrainComplete c) s (fun t => (t.coreOf c).svc = .testing)) ∧
    (∀ c, (s.coreOf c).svc = .drained ∨ (s.coreOf c).svc = .retired → Gives (.coreReadmit c) s (fun t => (t.coreOf c).svc = .testing ∧
      .core c ∈ t.fe.tests ∧ t.fe.svcCore = c ∧ SameMemory s t)) ∧
    (∀ p lo hi,
      ((port s p).training = false →
        Gives (.flitReceive p true) s (fun t => port t p = { port s p with replays := 0 } ∧ t.outbox = s.outbox) ∧
        ((port s p).replays < 8 → Gives (.flitReceive p false) s (fun t =>
          port t p = { port s p with replays := (port s p).replays + 1 } ∧ t.outbox = s.outbox ++ [.replay p])) ∧
        (8 ≤ (port s p).replays → Gives (.flitReceive p false) s (fun t =>
          port t p = { port s p with replays := 0, training := true } ∧ t.outbox = s.outbox)) ∧
        exec (.portRetrain p lo hi) s = .next s) ∧
      ((port s p).training = true → s.fe.booting = true → s.fe.tests ≠ [] → exec (.portRetrain p lo hi) s = .next s) ∧
      ((port s p).training = true → s.fe.booting = false ∨ s.fe.tests = [] → Gives (.portRetrain p lo hi) s (fun t =>
        port t p = { lo := (port s p).lo && lo, hi := (port s p).hi && hi } ∧ SameMemory s t)) ∧
      Gives (.portRecalibration p) s (fun t => t = s) ∧ Gives (.hbmPhyRetrain p lo) s (fun t => t = s)) ∧
    (∀ pt, s.fe.maxPt ≤ pt → pt ≤ 3 → s.fe.booting = false →
      Gives (.operatingPointChange pt) s (fun t => t = { s with fe := { s.fe with pt := pt } })) ∧
    (∀ pt, pt < s.fe.maxPt ∨ 3 < pt → exec (.operatingPointChange pt) s = .next s) ∧
    (∀ pt, s.fe.booting = true → pt = s.fe.maxPt → pt ≤ 3 →
      (s.fe.tests = [] → (∀ e ∈ s.ports, e.2.training = false) → Gives (.operatingPointChange pt) s (fun t =>
        t.fe = { s.fe with pt := pt, booting := false } ∧ t.cores = s.cores ∧ SameMemory s t ∧
        (s.seq.joining = true → t.seq = s.seq) ∧
        (s.seq.joining = false → t.seq.round = 1 ∧ t.seq.roundOpen = true ∧ t.seq.nextPk = 0 ∧ t.seq.nextPod = 0))) ∧
      (s.fe.tests ≠ [] → exec (.operatingPointChange pt) s = .next s)) ∧
    (∀ since, s.fe.hotSince = some since → since + 24000000 ≤ s.wall → Gives .thermalThrottle s (fun t =>
      t = { s with fe := { s.fe with pt := Nat.min 3 (s.fe.pt + 1), thr := true, hotSince := some s.wall } })) ∧
    ((∀ since, s.fe.hotSince = some since → s.wall < since + 24000000) → exec .thermalThrottle s = .next s) ∧
    (∀ since, s.fe.maxPt < s.fe.pt → s.fe.coolSince = some since → since + 2400000000 ≤ s.wall → Gives .thermalRaise s (fun t =>
      t = { s with fe := { s.fe with pt := s.fe.pt - 1, coolSince := some s.wall } })) ∧
    (s.fe.pt ≤ s.fe.maxPt ∨ (∀ since, s.fe.coolSince = some since → s.wall < since + 2400000000) → exec .thermalRaise s = .next s) ∧
    (s.fe.pt = 3 → 105 < s.fe.tmax.toNat → Gives .thermalTrip s (fun t => t = { s with fe := { s.fe with trip := true } })) ∧
    (s.fe.pt ≠ 3 ∨ s.fe.tmax.toNat ≤ 105 → exec .thermalTrip s = .next s) ∧
    Gives (.packageReset Config.pkg) s (fun t => t.fe.booting = true ∧ t.fe.pt = 3 ∧ (∀ c, c < numCores →
      HwUnit.core c ∈ t.fe.tests ∧ (t.coreOf c).svc = .testing ∧ ∀ o, locByte t c o = 0) ∧ (∀ p, p < 18 → (port t p).training = true) ∧
      t.seq.roundOpen = false ∧ t.tiles = State.reset.tiles ∧ t.hqueues = State.reset.hqueues ∧ t.cycle = 0 ∧ (∀ off, hostCell t off = hostCell s off) ∧
      ∀ pa, t.rd8 pa = if paPkg pa = Config.pkg then 0 else s.rd8 pa)
end

