-- ==== Sys2Proof/Laws/Sparse.lean ====
section
/-! SUPPORT. Laws of sparse maps: reading after writing, the canonical form, and equality of canonical maps by their values. -/
namespace Sys2Proof.Machine

variable {α : Type} [DecidableEq α]

theorem smGet_nil (d : Nat → α) (k : Nat) : smGet d [] k = d k := rfl

theorem smGet_erase (d : Nat → α) (m : SMap α) (k j : Nat) :
    smGet d (smErase m k) j = if j = k then d j else smGet d m j := by
  induction m with
  | nil => simp [smErase, smGet]
  | cons e t ih =>
    obtain ⟨a, x⟩ := e
    simp only [smErase, List.filter_cons] at ih ⊢
    by_cases h : a = k
    · subst h
      simp only [bne_self_eq_false, Bool.false_eq_true, if_false, ih, smGet]
      by_cases h2 : j = a
      · simp [h2]
      · simp [h2, Ne.symm h2]
    · simp only [bne_iff_ne, ne_eq, h, not_false_eq_true, if_true, smGet, ih]
      by_cases h2 : a = j
      · subst h2; simp [h]
      · simp [h2]

theorem smGet_ins (d : Nat → α) (m : SMap α) (k j : Nat) (v : α) (h : ∀ e ∈ m, e.1 ≠ k) :
    smGet d (smIns m k v) j = if j = k then v else smGet d m j := by
  induction m with
  | nil => simp only [smIns, smGet]; by_cases h2 : k = j <;> simp [h2, eq_comm]
  | cons e t ih =>
    obtain ⟨a, x⟩ := e
    have ha : a ≠ k := h (a, x) (by simp)
    simp only [smIns]
    split
    · simp only [smGet]; by_cases h2 : k = j <;> simp [h2, eq_comm]
    · simp only [smGet, ih (fun e he => h e (by simp [he]))]
      by_cases h2 : a = j
      · subst h2; simp [ha]
      · simp [h2]

theorem mem_smErase {m : SMap α} {k : Nat} {e : Nat × α} : e ∈ smErase m k ↔ e ∈ m ∧ e.1 ≠ k := by
  simp [smErase]

/-- Reading after a write. -/
@[simp] theorem smGet_set (d : Nat → α) (m : SMap α) (k j : Nat) (v : α) :
    smGet d (smSet d m k v) j = if j = k then v else smGet d m j := by
  unfold smSet
  split
  · rename_i h; rw [smGet_erase]; by_cases h2 : j = k <;> simp [h2, h]
  · rw [smGet_ins]
    · by_cases h2 : j = k <;> simp [h2, smGet_erase]
    · intro e he; exact (mem_smErase.mp he).2

theorem smGet_set_self (d : Nat → α) (m : SMap α) (k : Nat) (v : α) : smGet d (smSet d m k v) k = v := by simp

theorem smGet_set_ne (d : Nat → α) (m : SMap α) {k j : Nat} (v : α) (h : j ≠ k) :
    smGet d (smSet d m k v) j = smGet d m j := by simp [h]

theorem mem_smIns {m : SMap α} {k : Nat} {v : α} {e : Nat × α} : e ∈ smIns m k v ↔ e = (k, v) ∨ e ∈ m := by
  induction m with
  | nil => simp [smIns]
  | cons x t ih => simp only [smIns]; split <;> simp [ih]; tauto

theorem pairwise_smIns {m : SMap α} {k : Nat} {v : α} (h : m.Pairwise (fun x y => x.1 < y.1)) (hk : ∀ e ∈ m, e.1 ≠ k) :
    (smIns m k v).Pairwise (fun x y => x.1 < y.1) := by
  induction m with
  | nil => simp [smIns]
  | cons x t ih =>
    obtain ⟨a, y⟩ := x
    have hp := List.pairwise_cons.mp h
    have ha : a ≠ k := hk (a, y) (by simp)
    simp only [smIns]
    split
    · rename_i hlt
      refine List.pairwise_cons.mpr ⟨?_, h⟩
      intro e he
      rcases List.mem_cons.mp he with rfl | he
      · exact hlt
      · exact Nat.lt_trans hlt (hp.1 e he)
    · rename_i hlt
      refine List.pairwise_cons.mpr ⟨?_, ih hp.2 (fun e he => hk e (by simp [he]))⟩
      intro e he
      rcases mem_smIns.mp he with rfl | he
      · simp only; omega
      · exact hp.1 e he

theorem pairwise_smErase {m : SMap α} {k : Nat} (h : m.Pairwise (fun x y => x.1 < y.1)) :
    (smErase m k).Pairwise (fun x y => x.1 < y.1) := h.filter _

theorem smWf_nil (d : Nat → α) : smWf d ([] : SMap α) := by simp [smWf]

/-- A write keeps the canonical form. -/
theorem smWf_set {d : Nat → α} {m : SMap α} (k : Nat) (v : α) (h : smWf d m) : smWf d (smSet d m k v) := by
  unfold smSet
  split
  · exact ⟨pairwise_smErase h.1, fun e he => h.2 e (mem_smErase.mp he).1⟩
  · rename_i hv
    refine ⟨pairwise_smIns (pairwise_smErase h.1) (fun e he => (mem_smErase.mp he).2), ?_⟩
    intro e he
    rcases mem_smIns.mp he with rfl | he
    · exact hv
    · exact h.2 e (mem_smErase.mp he).1

/-- A filter keeps the canonical form. -/
theorem smWf_filter {d : Nat → α} {m : SMap α} (p : Nat × α → Bool) (h : smWf d m) : smWf d (m.filter p) :=
  ⟨h.1.filter _, fun e he => h.2 e (List.mem_filter.mp he).1⟩

/-- Many writes keep the canonical form. -/
theorem smWf_foldl {β : Type} {d : Nat → α} (l : List β) (f : SMap α → β → SMap α) (hf : ∀ m e, smWf d m → smWf d (f m e)) :
    ∀ m, smWf d m → smWf d (l.foldl f m) := by
  induction l with
  | nil => intro m h; exact h
  | cons e t ih => intro m h; exact ih _ (hf m e h)

omit [DecidableEq α] in
/-- The value at a key that is listed. -/
theorem smGet_of_mem {d : Nat → α} {m : SMap α} (h : m.Pairwise (fun x y => x.1 < y.1)) {e : Nat × α} (he : e ∈ m) :
    smGet d m e.1 = e.2 := by
  induction m with
  | nil => simp at he
  | cons x t ih =>
    obtain ⟨a, y⟩ := x
    have hp := List.pairwise_cons.mp h
    rcases List.mem_cons.mp he with rfl | he'
    · simp [smGet]
    · have := hp.1 e he'
      simp only at this
      simp only [smGet]
      rw [if_neg (by omega)]
      exact ih hp.2 he'

omit [DecidableEq α] in
/-- The value at a key that is not listed. -/
theorem smGet_of_not_mem {d : Nat → α} {m : SMap α} {k : Nat} (h : ∀ e ∈ m, e.1 ≠ k) : smGet d m k = d k := by
  induction m with
  | nil => rfl
  | cons x t ih =>
    obtain ⟨a, y⟩ := x
    simp only [smGet]
    rw [if_neg (h (a, y) (by simp))]
    exact ih (fun e he => h e (by simp [he]))

end Sys2Proof.Machine
end

