-- ==== Sys2Proof/Laws/State.lean ====
section
/-! SUPPORT. Laws of State: one lemma per field per update, and reading a core, a slot or a register after a write. -/
namespace Sys2Proof.Machine

set_option Elab.async false

/-! What an update of cores leaves of the package. -/
@[simp] theorem State.modCore_cycle (s : State) (c : Nat) (f : Core → Core) : (s.modCore c f).cycle = s.cycle := rfl
@[simp] theorem State.modCore_wall (s : State) (c : Nat) (f : Core → Core) : (s.modCore c f).wall = s.wall := rfl
@[simp] theorem State.modCore_hbm (s : State) (c : Nat) (f : Core → Core) : (s.modCore c f).hbm = s.hbm := rfl
@[simp] theorem State.modCore_stored (s : State) (c : Nat) (f : Core → Core) : (s.modCore c f).stored = s.stored := rfl
@[simp] theorem State.modCore_poison (s : State) (c : Nat) (f : Core → Core) : (s.modCore c f).poison = s.poison := rfl
@[simp] theorem State.modCore_relTags (s : State) (c : Nat) (f : Core → Core) : (s.modCore c f).relTags = s.relTags := rfl
@[simp] theorem State.modCore_hostMem (s : State) (c : Nat) (f : Core → Core) : (s.modCore c f).hostMem = s.hostMem := rfl
@[simp] theorem State.modCore_heldStores (s : State) (c : Nat) (f : Core → Core) : (s.modCore c f).heldStores = s.heldStores := rfl
@[simp] theorem State.modCore_clusterBuf (s : State) (c : Nat) (f : Core → Core) : (s.modCore c f).clusterBuf = s.clusterBuf := rfl
@[simp] theorem State.modCore_remoteOut (s : State) (c : Nat) (f : Core → Core) : (s.modCore c f).remoteOut = s.remoteOut := rfl
@[simp] theorem State.modCore_invGone (s : State) (c : Nat) (f : Core → Core) : (s.modCore c f).invGone = s.invGone := rfl
@[simp] theorem State.modCore_farHeld (s : State) (c : Nat) (f : Core → Core) : (s.modCore c f).farHeld = s.farHeld := rfl
@[simp] theorem State.modCore_watches (s : State) (c : Nat) (f : Core → Core) : (s.modCore c f).watches = s.watches := rfl
@[simp] theorem State.modCore_deferred (s : State) (c : Nat) (f : Core → Core) : (s.modCore c f).deferred = s.deferred := rfl
@[simp] theorem State.modCore_det (s : State) (c : Nat) (f : Core → Core) : (s.modCore c f).det = s.det := rfl
@[simp] theorem State.modCore_tlb (s : State) (c : Nat) (f : Core → Core) : (s.modCore c f).tlb = s.tlb := rfl
@[simp] theorem State.modCore_inv (s : State) (c : Nat) (f : Core → Core) : (s.modCore c f).inv = s.inv := rfl
@[simp] theorem State.modCore_doorbells (s : State) (c : Nat) (f : Core → Core) : (s.modCore c f).doorbells = s.doorbells := rfl
@[simp] theorem State.modCore_hostHeld (s : State) (c : Nat) (f : Core → Core) : (s.modCore c f).hostHeld = s.hostHeld := rfl
@[simp] theorem State.modCore_bisnp (s : State) (c : Nat) (f : Core → Core) : (s.modCore c f).bisnp = s.bisnp := rfl
@[simp] theorem State.modCore_hostReqs (s : State) (c : Nat) (f : Core → Core) : (s.modCore c f).hostReqs = s.hostReqs := rfl
@[simp] theorem State.modCore_hostOut (s : State) (c : Nat) (f : Core → Core) : (s.modCore c f).hostOut = s.hostOut := rfl
@[simp] theorem State.modCore_linePass (s : State) (c : Nat) (f : Core → Core) : (s.modCore c f).linePass = s.linePass := rfl
@[simp] theorem State.modCore_sigPend (s : State) (c : Nat) (f : Core → Core) : (s.modCore c f).sigPend = s.sigPend := rfl
@[simp] theorem State.modCore_tiles (s : State) (c : Nat) (f : Core → Core) : (s.modCore c f).tiles = s.tiles := rfl
@[simp] theorem State.modCore_lmmap (s : State) (c : Nat) (f : Core → Core) : (s.modCore c f).lmmap = s.lmmap := rfl
@[simp] theorem State.modCore_pend (s : State) (c : Nat) (f : Core → Core) : (s.modCore c f).pend = s.pend := rfl
@[simp] theorem State.modCore_lmBack (s : State) (c : Nat) (f : Core → Core) : (s.modCore c f).lmBack = s.lmBack := rfl
@[simp] theorem State.modCore_commits (s : State) (c : Nat) (f : Core → Core) : (s.modCore c f).commits = s.commits := rfl
@[simp] theorem State.modCore_lmHeld (s : State) (c : Nat) (f : Core → Core) : (s.modCore c f).lmHeld = s.lmHeld := rfl
@[simp] theorem State.modCore_seq (s : State) (c : Nat) (f : Core → Core) : (s.modCore c f).seq = s.seq := rfl
@[simp] theorem State.modCore_txns (s : State) (c : Nat) (f : Core → Core) : (s.modCore c f).txns = s.txns := rfl
@[simp] theorem State.modCore_rings (s : State) (c : Nat) (f : Core → Core) : (s.modCore c f).rings = s.rings := rfl
@[simp] theorem State.modCore_ringPend (s : State) (c : Nat) (f : Core → Core) : (s.modCore c f).ringPend = s.ringPend := rfl
@[simp] theorem State.modCore_ports (s : State) (c : Nat) (f : Core → Core) : (s.modCore c f).ports = s.ports := rfl
@[simp] theorem State.modCore_members (s : State) (c : Nat) (f : Core → Core) : (s.modCore c f).members = s.members := rfl
@[simp] theorem State.modCore_hqueues (s : State) (c : Nat) (f : Core → Core) : (s.modCore c f).hqueues = s.hqueues := rfl
@[simp] theorem State.modCore_launches (s : State) (c : Nat) (f : Core → Core) : (s.modCore c f).launches = s.launches := rfl
@[simp] theorem State.modCore_nextLaunch (s : State) (c : Nat) (f : Core → Core) : (s.modCore c f).nextLaunch = s.nextLaunch := rfl
@[simp] theorem State.modCore_gangs (s : State) (c : Nat) (f : Core → Core) : (s.modCore c f).gangs = s.gangs := rfl
@[simp] theorem State.modCore_nextGid (s : State) (c : Nat) (f : Core → Core) : (s.modCore c f).nextGid = s.nextGid := rfl
@[simp] theorem State.modCore_fe (s : State) (c : Nat) (f : Core → Core) : (s.modCore c f).fe = s.fe := rfl
@[simp] theorem State.modCore_outbox (s : State) (c : Nat) (f : Core → Core) : (s.modCore c f).outbox = s.outbox := rfl
@[simp] theorem State.modCore_cur (s : State) (c : Nat) (f : Core → Core) : (s.modCore c f).cur = s.cur := rfl
@[simp] theorem State.modCore_turn (s : State) (c : Nat) (f : Core → Core) : (s.modCore c f).turn = s.turn := rfl
@[simp] theorem State.modCore_pairNext (s : State) (c : Nat) (f : Core → Core) : (s.modCore c f).pairNext = s.pairNext := rfl
@[simp] theorem State.modCore_forced (s : State) (c : Nat) (f : Core → Core) : (s.modCore c f).forced = s.forced := rfl
@[simp] theorem State.modCore_agenda (s : State) (c : Nat) (f : Core → Core) : (s.modCore c f).agenda = s.agenda := rfl
@[simp] theorem State.modCore_relaxed (s : State) (c : Nat) (f : Core → Core) : (s.modCore c f).relaxed = s.relaxed := rfl
@[simp] theorem State.modCore_choice (s : State) (c : Nat) (f : Core → Core) : (s.modCore c f).choice = s.choice := rfl
@[simp] theorem State.modCore_serial (s : State) (c : Nat) (f : Core → Core) : (s.modCore c f).serial = s.serial := rfl
@[simp] theorem State.modCore_order (s : State) (c : Nat) (f : Core → Core) : (s.modCore c f).order = s.order := rfl
@[simp] theorem State.modSlot_cycle (s : State) (c i : Nat) (f : Slot → Slot) : (s.modSlot c i f).cycle = s.cycle := rfl
@[simp] theorem State.modSlot_wall (s : State) (c i : Nat) (f : Slot → Slot) : (s.modSlot c i f).wall = s.wall := rfl
@[simp] theorem State.modSlot_hbm (s : State) (c i : Nat) (f : Slot → Slot) : (s.modSlot c i f).hbm = s.hbm := rfl
@[simp] theorem State.modSlot_stored (s : State) (c i : Nat) (f : Slot → Slot) : (s.modSlot c i f).stored = s.stored := rfl
@[simp] theorem State.modSlot_poison (s : State) (c i : Nat) (f : Slot → Slot) : (s.modSlot c i f).poison = s.poison := rfl
@[simp] theorem State.modSlot_relTags (s : State) (c i : Nat) (f : Slot → Slot) : (s.modSlot c i f).relTags = s.relTags := rfl
@[simp] theorem State.modSlot_hostMem (s : State) (c i : Nat) (f : Slot → Slot) : (s.modSlot c i f).hostMem = s.hostMem := rfl
@[simp] theorem State.modSlot_heldStores (s : State) (c i : Nat) (f : Slot → Slot) : (s.modSlot c i f).heldStores = s.heldStores := rfl
@[simp] theorem State.modSlot_clusterBuf (s : State) (c i : Nat) (f : Slot → Slot) : (s.modSlot c i f).clusterBuf = s.clusterBuf := rfl
@[simp] theorem State.modSlot_remoteOut (s : State) (c i : Nat) (f : Slot → Slot) : (s.modSlot c i f).remoteOut = s.remoteOut := rfl
@[simp] theorem State.modSlot_invGone (s : State) (c i : Nat) (f : Slot → Slot) : (s.modSlot c i f).invGone = s.invGone := rfl
@[simp] theorem State.modSlot_farHeld (s : State) (c i : Nat) (f : Slot → Slot) : (s.modSlot c i f).farHeld = s.farHeld := rfl
@[simp] theorem State.modSlot_watches (s : State) (c i : Nat) (f : Slot → Slot) : (s.modSlot c i f).watches = s.watches := rfl
@[simp] theorem State.modSlot_deferred (s : State) (c i : Nat) (f : Slot → Slot) : (s.modSlot c i f).deferred = s.deferred := rfl
@[simp] theorem State.modSlot_det (s : State) (c i : Nat) (f : Slot → Slot) : (s.modSlot c i f).det = s.det := rfl
@[simp] theorem State.modSlot_tlb (s : State) (c i : Nat) (f : Slot → Slot) : (s.modSlot c i f).tlb = s.tlb := rfl
@[simp] theorem State.modSlot_inv (s : State) (c i : Nat) (f : Slot → Slot) : (s.modSlot c i f).inv = s.inv := rfl
@[simp] theorem State.modSlot_doorbells (s : State) (c i : Nat) (f : Slot → Slot) : (s.modSlot c i f).doorbells = s.doorbells := rfl
@[simp] theorem State.modSlot_hostHeld (s : State) (c i : Nat) (f : Slot → Slot) : (s.modSlot c i f).hostHeld = s.hostHeld := rfl
@[simp] theorem State.modSlot_bisnp (s : State) (c i : Nat) (f : Slot → Slot) : (s.modSlot c i f).bisnp = s.bisnp := rfl
@[simp] theorem State.modSlot_hostReqs (s : State) (c i : Nat) (f : Slot → Slot) : (s.modSlot c i f).hostReqs = s.hostReqs := rfl
@[simp] theorem State.modSlot_hostOut (s : State) (c i : Nat) (f : Slot → Slot) : (s.modSlot c i f).hostOut = s.hostOut := rfl
@[simp] theorem State.modSlot_linePass (s : State) (c i : Nat) (f : Slot → Slot) : (s.modSlot c i f).linePass = s.linePass := rfl
@[simp] theorem State.modSlot_sigPend (s : State) (c i : Nat) (f : Slot → Slot) : (s.modSlot c i f).sigPend = s.sigPend := rfl
@[simp] theorem State.modSlot_tiles (s : State) (c i : Nat) (f : Slot → Slot) : (s.modSlot c i f).tiles = s.tiles := rfl
@[simp] theorem State.modSlot_lmmap (s : State) (c i : Nat) (f : Slot → Slot) : (s.modSlot c i f).lmmap = s.lmmap := rfl
@[simp] theorem State.modSlot_pend (s : State) (c i : Nat) (f : Slot → Slot) : (s.modSlot c i f).pend = s.pend := rfl
@[simp] theorem State.modSlot_lmBack (s : State) (c i : Nat) (f : Slot → Slot) : (s.modSlot c i f).lmBack = s.lmBack := rfl
@[simp] theorem State.modSlot_commits (s : State) (c i : Nat) (f : Slot → Slot) : (s.modSlot c i f).commits = s.commits := rfl
@[simp] theorem State.modSlot_lmHeld (s : State) (c i : Nat) (f : Slot → Slot) : (s.modSlot c i f).lmHeld = s.lmHeld := rfl
@[simp] theorem State.modSlot_seq (s : State) (c i : Nat) (f : Slot → Slot) : (s.modSlot c i f).seq = s.seq := rfl
@[simp] theorem State.modSlot_txns (s : State) (c i : Nat) (f : Slot → Slot) : (s.modSlot c i f).txns = s.txns := rfl
@[simp] theorem State.modSlot_rings (s : State) (c i : Nat) (f : Slot → Slot) : (s.modSlot c i f).rings = s.rings := rfl
@[simp] theorem State.modSlot_ringPend (s : State) (c i : Nat) (f : Slot → Slot) : (s.modSlot c i f).ringPend = s.ringPend := rfl
@[simp] theorem State.modSlot_ports (s : State) (c i : Nat) (f : Slot → Slot) : (s.modSlot c i f).ports = s.ports := rfl
@[simp] theorem State.modSlot_members (s : State) (c i : Nat) (f : Slot → Slot) : (s.modSlot c i f).members = s.members := rfl
@[simp] theorem State.modSlot_hqueues (s : State) (c i : Nat) (f : Slot → Slot) : (s.modSlot c i f).hqueues = s.hqueues := rfl
@[simp] theorem State.modSlot_launches (s : State) (c i : Nat) (f : Slot → Slot) : (s.modSlot c i f).launches = s.launches := rfl
@[simp] theorem State.modSlot_nextLaunch (s : State) (c i : Nat) (f : Slot → Slot) : (s.modSlot c i f).nextLaunch = s.nextLaunch := rfl
@[simp] theorem State.modSlot_gangs (s : State) (c i : Nat) (f : Slot → Slot) : (s.modSlot c i f).gangs = s.gangs := rfl
@[simp] theorem State.modSlot_nextGid (s : State) (c i : Nat) (f : Slot → Slot) : (s.modSlot c i f).nextGid = s.nextGid := rfl
@[simp] theorem State.modSlot_fe (s : State) (c i : Nat) (f : Slot → Slot) : (s.modSlot c i f).fe = s.fe := rfl
@[simp] theorem State.modSlot_outbox (s : State) (c i : Nat) (f : Slot → Slot) : (s.modSlot c i f).outbox = s.outbox := rfl
@[simp] theorem State.modSlot_cur (s : State) (c i : Nat) (f : Slot → Slot) : (s.modSlot c i f).cur = s.cur := rfl
@[simp] theorem State.modSlot_turn (s : State) (c i : Nat) (f : Slot → Slot) : (s.modSlot c i f).turn = s.turn := rfl
@[simp] theorem State.modSlot_pairNext (s : State) (c i : Nat) (f : Slot → Slot) : (s.modSlot c i f).pairNext = s.pairNext := rfl
@[simp] theorem State.modSlot_forced (s : State) (c i : Nat) (f : Slot → Slot) : (s.modSlot c i f).forced = s.forced := rfl
@[simp] theorem State.modSlot_agenda (s : State) (c i : Nat) (f : Slot → Slot) : (s.modSlot c i f).agenda = s.agenda := rfl
@[simp] theorem State.modSlot_relaxed (s : State) (c i : Nat) (f : Slot → Slot) : (s.modSlot c i f).relaxed = s.relaxed := rfl
@[simp] theorem State.modSlot_choice (s : State) (c i : Nat) (f : Slot → Slot) : (s.modSlot c i f).choice = s.choice := rfl
@[simp] theorem State.modSlot_serial (s : State) (c i : Nat) (f : Slot → Slot) : (s.modSlot c i f).serial = s.serial := rfl
@[simp] theorem State.modSlot_order (s : State) (c i : Nat) (f : Slot → Slot) : (s.modSlot c i f).order = s.order := rfl
@[simp] theorem State.modMe_cycle (s : State) (f : Slot → Slot) : (s.modMe f).cycle = s.cycle := rfl
@[simp] theorem State.modMe_wall (s : State) (f : Slot → Slot) : (s.modMe f).wall = s.wall := rfl
@[simp] theorem State.modMe_hbm (s : State) (f : Slot → Slot) : (s.modMe f).hbm = s.hbm := rfl
@[simp] theorem State.modMe_stored (s : State) (f : Slot → Slot) : (s.modMe f).stored = s.stored := rfl
@[simp] theorem State.modMe_poison (s : State) (f : Slot → Slot) : (s.modMe f).poison = s.poison := rfl
@[simp] theorem State.modMe_relTags (s : State) (f : Slot → Slot) : (s.modMe f).relTags = s.relTags := rfl
@[simp] theorem State.modMe_hostMem (s : State) (f : Slot → Slot) : (s.modMe f).hostMem = s.hostMem := rfl
@[simp] theorem State.modMe_heldStores (s : State) (f : Slot → Slot) : (s.modMe f).heldStores = s.heldStores := rfl
@[simp] theorem State.modMe_clusterBuf (s : State) (f : Slot → Slot) : (s.modMe f).clusterBuf = s.clusterBuf := rfl
@[simp] theorem State.modMe_remoteOut (s : State) (f : Slot → Slot) : (s.modMe f).remoteOut = s.remoteOut := rfl
@[simp] theorem State.modMe_invGone (s : State) (f : Slot → Slot) : (s.modMe f).invGone = s.invGone := rfl
@[simp] theorem State.modMe_farHeld (s : State) (f : Slot → Slot) : (s.modMe f).farHeld = s.farHeld := rfl
@[simp] theorem State.modMe_watches (s : State) (f : Slot → Slot) : (s.modMe f).watches = s.watches := rfl
@[simp] theorem State.modMe_deferred (s : State) (f : Slot → Slot) : (s.modMe f).deferred = s.deferred := rfl
@[simp] theorem State.modMe_det (s : State) (f : Slot → Slot) : (s.modMe f).det = s.det := rfl
@[simp] theorem State.modMe_tlb (s : State) (f : Slot → Slot) : (s.modMe f).tlb = s.tlb := rfl
@[simp] theorem State.modMe_inv (s : State) (f : Slot → Slot) : (s.modMe f).inv = s.inv := rfl
@[simp] theorem State.modMe_doorbells (s : State) (f : Slot → Slot) : (s.modMe f).doorbells = s.doorbells := rfl
@[simp] theorem State.modMe_hostHeld (s : State) (f : Slot → Slot) : (s.modMe f).hostHeld = s.hostHeld := rfl
@[simp] theorem State.modMe_bisnp (s : State) (f : Slot → Slot) : (s.modMe f).bisnp = s.bisnp := rfl
@[simp] theorem State.modMe_hostReqs (s : State) (f : Slot → Slot) : (s.modMe f).hostReqs = s.hostReqs := rfl
@[simp] theorem State.modMe_hostOut (s : State) (f : Slot → Slot) : (s.modMe f).hostOut = s.hostOut := rfl
@[simp] theorem State.modMe_linePass (s : State) (f : Slot → Slot) : (s.modMe f).linePass = s.linePass := rfl
@[simp] theorem State.modMe_sigPend (s : State) (f : Slot → Slot) : (s.modMe f).sigPend = s.sigPend := rfl
@[simp] theorem State.modMe_tiles (s : State) (f : Slot → Slot) : (s.modMe f).tiles = s.tiles := rfl
@[simp] theorem State.modMe_lmmap (s : State) (f : Slot → Slot) : (s.modMe f).lmmap = s.lmmap := rfl
@[simp] theorem State.modMe_pend (s : State) (f : Slot → Slot) : (s.modMe f).pend = s.pend := rfl
@[simp] theorem State.modMe_lmBack (s : State) (f : Slot → Slot) : (s.modMe f).lmBack = s.lmBack := rfl
@[simp] theorem State.modMe_commits (s : State) (f : Slot → Slot) : (s.modMe f).commits = s.commits := rfl
@[simp] theorem State.modMe_lmHeld (s : State) (f : Slot → Slot) : (s.modMe f).lmHeld = s.lmHeld := rfl
@[simp] theorem State.modMe_seq (s : State) (f : Slot → Slot) : (s.modMe f).seq = s.seq := rfl
@[simp] theorem State.modMe_txns (s : State) (f : Slot → Slot) : (s.modMe f).txns = s.txns := rfl
@[simp] theorem State.modMe_rings (s : State) (f : Slot → Slot) : (s.modMe f).rings = s.rings := rfl
@[simp] theorem State.modMe_ringPend (s : State) (f : Slot → Slot) : (s.modMe f).ringPend = s.ringPend := rfl
@[simp] theorem State.modMe_ports (s : State) (f : Slot → Slot) : (s.modMe f).ports = s.ports := rfl
@[simp] theorem State.modMe_members (s : State) (f : Slot → Slot) : (s.modMe f).members = s.members := rfl
@[simp] theorem State.modMe_hqueues (s : State) (f : Slot → Slot) : (s.modMe f).hqueues = s.hqueues := rfl
@[simp] theorem State.modMe_launches (s : State) (f : Slot → Slot) : (s.modMe f).launches = s.launches := rfl
@[simp] theorem State.modMe_nextLaunch (s : State) (f : Slot → Slot) : (s.modMe f).nextLaunch = s.nextLaunch := rfl
@[simp] theorem State.modMe_gangs (s : State) (f : Slot → Slot) : (s.modMe f).gangs = s.gangs := rfl
@[simp] theorem State.modMe_nextGid (s : State) (f : Slot → Slot) : (s.modMe f).nextGid = s.nextGid := rfl
@[simp] theorem State.modMe_fe (s : State) (f : Slot → Slot) : (s.modMe f).fe = s.fe := rfl
@[simp] theorem State.modMe_outbox (s : State) (f : Slot → Slot) : (s.modMe f).outbox = s.outbox := rfl
@[simp] theorem State.modMe_cur (s : State) (f : Slot → Slot) : (s.modMe f).cur = s.cur := rfl
@[simp] theorem State.modMe_turn (s : State) (f : Slot → Slot) : (s.modMe f).turn = s.turn := rfl
@[simp] theorem State.modMe_pairNext (s : State) (f : Slot → Slot) : (s.modMe f).pairNext = s.pairNext := rfl
@[simp] theorem State.modMe_forced (s : State) (f : Slot → Slot) : (s.modMe f).forced = s.forced := rfl
@[simp] theorem State.modMe_agenda (s : State) (f : Slot → Slot) : (s.modMe f).agenda = s.agenda := rfl
@[simp] theorem State.modMe_relaxed (s : State) (f : Slot → Slot) : (s.modMe f).relaxed = s.relaxed := rfl
@[simp] theorem State.modMe_choice (s : State) (f : Slot → Slot) : (s.modMe f).choice = s.choice := rfl
@[simp] theorem State.modMe_serial (s : State) (f : Slot → Slot) : (s.modMe f).serial = s.serial := rfl
@[simp] theorem State.modMe_order (s : State) (f : Slot → Slot) : (s.modMe f).order = s.order := rfl
@[simp] theorem State.modMyCore_cycle (s : State) (f : Core → Core) : (s.modMyCore f).cycle = s.cycle := rfl
@[simp] theorem State.modMyCore_wall (s : State) (f : Core → Core) : (s.modMyCore f).wall = s.wall := rfl
@[simp] theorem State.modMyCore_hbm (s : State) (f : Core → Core) : (s.modMyCore f).hbm = s.hbm := rfl
@[simp] theorem State.modMyCore_stored (s : State) (f : Core → Core) : (s.modMyCore f).stored = s.stored := rfl
@[simp] theorem State.modMyCore_poison (s : State) (f : Core → Core) : (s.modMyCore f).poison = s.poison := rfl
@[simp] theorem State.modMyCore_relTags (s : State) (f : Core → Core) : (s.modMyCore f).relTags = s.relTags := rfl
@[simp] theorem State.modMyCore_hostMem (s : State) (f : Core → Core) : (s.modMyCore f).hostMem = s.hostMem := rfl
@[simp] theorem State.modMyCore_heldStores (s : State) (f : Core → Core) : (s.modMyCore f).heldStores = s.heldStores := rfl
@[simp] theorem State.modMyCore_clusterBuf (s : State) (f : Core → Core) : (s.modMyCore f).clusterBuf = s.clusterBuf := rfl
@[simp] theorem State.modMyCore_remoteOut (s : State) (f : Core → Core) : (s.modMyCore f).remoteOut = s.remoteOut := rfl
@[simp] theorem State.modMyCore_invGone (s : State) (f : Core → Core) : (s.modMyCore f).invGone = s.invGone := rfl
@[simp] theorem State.modMyCore_farHeld (s : State) (f : Core → Core) : (s.modMyCore f).farHeld = s.farHeld := rfl
@[simp] theorem State.modMyCore_watches (s : State) (f : Core → Core) : (s.modMyCore f).watches = s.watches := rfl
@[simp] theorem State.modMyCore_deferred (s : State) (f : Core → Core) : (s.modMyCore f).deferred = s.deferred := rfl
@[simp] theorem State.modMyCore_det (s : State) (f : Core → Core) : (s.modMyCore f).det = s.det := rfl
@[simp] theorem State.modMyCore_tlb (s : State) (f : Core → Core) : (s.modMyCore f).tlb = s.tlb := rfl
@[simp] theorem State.modMyCore_inv (s : State) (f : Core → Core) : (s.modMyCore f).inv = s.inv := rfl
@[simp] theorem State.modMyCore_doorbells (s : State) (f : Core → Core) : (s.modMyCore f).doorbells = s.doorbells := rfl
@[simp] theorem State.modMyCore_hostHeld (s : State) (f : Core → Core) : (s.modMyCore f).hostHeld = s.hostHeld := rfl
@[simp] theorem State.modMyCore_bisnp (s : State) (f : Core → Core) : (s.modMyCore f).bisnp = s.bisnp := rfl
@[simp] theorem State.modMyCore_hostReqs (s : State) (f : Core → Core) : (s.modMyCore f).hostReqs = s.hostReqs := rfl
@[simp] theorem State.modMyCore_hostOut (s : State) (f : Core → Core) : (s.modMyCore f).hostOut = s.hostOut := rfl
@[simp] theorem State.modMyCore_linePass (s : State) (f : Core → Core) : (s.modMyCore f).linePass = s.linePass := rfl
@[simp] theorem State.modMyCore_sigPend (s : State) (f : Core → Core) : (s.modMyCore f).sigPend = s.sigPend := rfl
@[simp] theorem State.modMyCore_tiles (s : State) (f : Core → Core) : (s.modMyCore f).tiles = s.tiles := rfl
@[simp] theorem State.modMyCore_lmmap (s : State) (f : Core → Core) : (s.modMyCore f).lmmap = s.lmmap := rfl
@[simp] theorem State.modMyCore_pend (s : State) (f : Core → Core) : (s.modMyCore f).pend = s.pend := rfl
@[simp] theorem State.modMyCore_lmBack (s : State) (f : Core → Core) : (s.modMyCore f).lmBack = s.lmBack := rfl
@[simp] theorem State.modMyCore_commits (s : State) (f : Core → Core) : (s.modMyCore f).commits = s.commits := rfl
@[simp] theorem State.modMyCore_lmHeld (s : State) (f : Core → Core) : (s.modMyCore f).lmHeld = s.lmHeld := rfl
@[simp] theorem State.modMyCore_seq (s : State) (f : Core → Core) : (s.modMyCore f).seq = s.seq := rfl
@[simp] theorem State.modMyCore_txns (s : State) (f : Core → Core) : (s.modMyCore f).txns = s.txns := rfl
@[simp] theorem State.modMyCore_rings (s : State) (f : Core → Core) : (s.modMyCore f).rings = s.rings := rfl
@[simp] theorem State.modMyCore_ringPend (s : State) (f : Core → Core) : (s.modMyCore f).ringPend = s.ringPend := rfl
@[simp] theorem State.modMyCore_ports (s : State) (f : Core → Core) : (s.modMyCore f).ports = s.ports := rfl
@[simp] theorem State.modMyCore_members (s : State) (f : Core → Core) : (s.modMyCore f).members = s.members := rfl
@[simp] theorem State.modMyCore_hqueues (s : State) (f : Core → Core) : (s.modMyCore f).hqueues = s.hqueues := rfl
@[simp] theorem State.modMyCore_launches (s : State) (f : Core → Core) : (s.modMyCore f).launches = s.launches := rfl
@[simp] theorem State.modMyCore_nextLaunch (s : State) (f : Core → Core) : (s.modMyCore f).nextLaunch = s.nextLaunch := rfl
@[simp] theorem State.modMyCore_gangs (s : State) (f : Core → Core) : (s.modMyCore f).gangs = s.gangs := rfl
@[simp] theorem State.modMyCore_nextGid (s : State) (f : Core → Core) : (s.modMyCore f).nextGid = s.nextGid := rfl
@[simp] theorem State.modMyCore_fe (s : State) (f : Core → Core) : (s.modMyCore f).fe = s.fe := rfl
@[simp] theorem State.modMyCore_outbox (s : State) (f : Core → Core) : (s.modMyCore f).outbox = s.outbox := rfl
@[simp] theorem State.modMyCore_cur (s : State) (f : Core → Core) : (s.modMyCore f).cur = s.cur := rfl
@[simp] theorem State.modMyCore_turn (s : State) (f : Core → Core) : (s.modMyCore f).turn = s.turn := rfl
@[simp] theorem State.modMyCore_pairNext (s : State) (f : Core → Core) : (s.modMyCore f).pairNext = s.pairNext := rfl
@[simp] theorem State.modMyCore_forced (s : State) (f : Core → Core) : (s.modMyCore f).forced = s.forced := rfl
@[simp] theorem State.modMyCore_agenda (s : State) (f : Core → Core) : (s.modMyCore f).agenda = s.agenda := rfl
@[simp] theorem State.modMyCore_relaxed (s : State) (f : Core → Core) : (s.modMyCore f).relaxed = s.relaxed := rfl
@[simp] theorem State.modMyCore_choice (s : State) (f : Core → Core) : (s.modMyCore f).choice = s.choice := rfl
@[simp] theorem State.modMyCore_serial (s : State) (f : Core → Core) : (s.modMyCore f).serial = s.serial := rfl
@[simp] theorem State.modMyCore_order (s : State) (f : Core → Core) : (s.modMyCore f).order = s.order := rfl
@[simp] theorem State.modMyAct_cycle (s : State) (f : Activation → Activation) : (s.modMyAct f).cycle = s.cycle := rfl
@[simp] theorem State.modMyAct_wall (s : State) (f : Activation → Activation) : (s.modMyAct f).wall = s.wall := rfl
@[simp] theorem State.modMyAct_hbm (s : State) (f : Activation → Activation) : (s.modMyAct f).hbm = s.hbm := rfl
@[simp] theorem State.modMyAct_stored (s : State) (f : Activation → Activation) : (s.modMyAct f).stored = s.stored := rfl
@[simp] theorem State.modMyAct_poison (s : State) (f : Activation → Activation) : (s.modMyAct f).poison = s.poison := rfl
@[simp] theorem State.modMyAct_relTags (s : State) (f : Activation → Activation) : (s.modMyAct f).relTags = s.relTags := rfl
@[simp] theorem State.modMyAct_hostMem (s : State) (f : Activation → Activation) : (s.modMyAct f).hostMem = s.hostMem := rfl
@[simp] theorem State.modMyAct_heldStores (s : State) (f : Activation → Activation) : (s.modMyAct f).heldStores = s.heldStores := rfl
@[simp] theorem State.modMyAct_clusterBuf (s : State) (f : Activation → Activation) : (s.modMyAct f).clusterBuf = s.clusterBuf := rfl
@[simp] theorem State.modMyAct_remoteOut (s : State) (f : Activation → Activation) : (s.modMyAct f).remoteOut = s.remoteOut := rfl
@[simp] theorem State.modMyAct_invGone (s : State) (f : Activation → Activation) : (s.modMyAct f).invGone = s.invGone := rfl
@[simp] theorem State.modMyAct_farHeld (s : State) (f : Activation → Activation) : (s.modMyAct f).farHeld = s.farHeld := rfl
@[simp] theorem State.modMyAct_watches (s : State) (f : Activation → Activation) : (s.modMyAct f).watches = s.watches := rfl
@[simp] theorem State.modMyAct_deferred (s : State) (f : Activation → Activation) : (s.modMyAct f).deferred = s.deferred := rfl
@[simp] theorem State.modMyAct_det (s : State) (f : Activation → Activation) : (s.modMyAct f).det = s.det := rfl
@[simp] theorem State.modMyAct_tlb (s : State) (f : Activation → Activation) : (s.modMyAct f).tlb = s.tlb := rfl
@[simp] theorem State.modMyAct_inv (s : State) (f : Activation → Activation) : (s.modMyAct f).inv = s.inv := rfl
@[simp] theorem State.modMyAct_doorbells (s : State) (f : Activation → Activation) : (s.modMyAct f).doorbells = s.doorbells := rfl
@[simp] theorem State.modMyAct_hostHeld (s : State) (f : Activation → Activation) : (s.modMyAct f).hostHeld = s.hostHeld := rfl
@[simp] theorem State.modMyAct_bisnp (s : State) (f : Activation → Activation) : (s.modMyAct f).bisnp = s.bisnp := rfl
@[simp] theorem State.modMyAct_hostReqs (s : State) (f : Activation → Activation) : (s.modMyAct f).hostReqs = s.hostReqs := rfl
@[simp] theorem State.modMyAct_hostOut (s : State) (f : Activation → Activation) : (s.modMyAct f).hostOut = s.hostOut := rfl
@[simp] theorem State.modMyAct_linePass (s : State) (f : Activation → Activation) : (s.modMyAct f).linePass = s.linePass := rfl
@[simp] theorem State.modMyAct_sigPend (s : State) (f : Activation → Activation) : (s.modMyAct f).sigPend = s.sigPend := rfl
@[simp] theorem State.modMyAct_tiles (s : State) (f : Activation → Activation) : (s.modMyAct f).tiles = s.tiles := rfl
@[simp] theorem State.modMyAct_lmmap (s : State) (f : Activation → Activation) : (s.modMyAct f).lmmap = s.lmmap := rfl
@[simp] theorem State.modMyAct_pend (s : State) (f : Activation → Activation) : (s.modMyAct f).pend = s.pend := rfl
@[simp] theorem State.modMyAct_lmBack (s : State) (f : Activation → Activation) : (s.modMyAct f).lmBack = s.lmBack := rfl
@[simp] theorem State.modMyAct_commits (s : State) (f : Activation → Activation) : (s.modMyAct f).commits = s.commits := rfl
@[simp] theorem State.modMyAct_lmHeld (s : State) (f : Activation → Activation) : (s.modMyAct f).lmHeld = s.lmHeld := rfl
@[simp] theorem State.modMyAct_seq (s : State) (f : Activation → Activation) : (s.modMyAct f).seq = s.seq := rfl
@[simp] theorem State.modMyAct_txns (s : State) (f : Activation → Activation) : (s.modMyAct f).txns = s.txns := rfl
@[simp] theorem State.modMyAct_rings (s : State) (f : Activation → Activation) : (s.modMyAct f).rings = s.rings := rfl
@[simp] theorem State.modMyAct_ringPend (s : State) (f : Activation → Activation) : (s.modMyAct f).ringPend = s.ringPend := rfl
@[simp] theorem State.modMyAct_ports (s : State) (f : Activation → Activation) : (s.modMyAct f).ports = s.ports := rfl
@[simp] theorem State.modMyAct_members (s : State) (f : Activation → Activation) : (s.modMyAct f).members = s.members := rfl
@[simp] theorem State.modMyAct_hqueues (s : State) (f : Activation → Activation) : (s.modMyAct f).hqueues = s.hqueues := rfl
@[simp] theorem State.modMyAct_launches (s : State) (f : Activation → Activation) : (s.modMyAct f).launches = s.launches := rfl
@[simp] theorem State.modMyAct_nextLaunch (s : State) (f : Activation → Activation) : (s.modMyAct f).nextLaunch = s.nextLaunch := rfl
@[simp] theorem State.modMyAct_gangs (s : State) (f : Activation → Activation) : (s.modMyAct f).gangs = s.gangs := rfl
@[simp] theorem State.modMyAct_nextGid (s : State) (f : Activation → Activation) : (s.modMyAct f).nextGid = s.nextGid := rfl
@[simp] theorem State.modMyAct_fe (s : State) (f : Activation → Activation) : (s.modMyAct f).fe = s.fe := rfl
@[simp] theorem State.modMyAct_outbox (s : State) (f : Activation → Activation) : (s.modMyAct f).outbox = s.outbox := rfl
@[simp] theorem State.modMyAct_cur (s : State) (f : Activation → Activation) : (s.modMyAct f).cur = s.cur := rfl
@[simp] theorem State.modMyAct_turn (s : State) (f : Activation → Activation) : (s.modMyAct f).turn = s.turn := rfl
@[simp] theorem State.modMyAct_pairNext (s : State) (f : Activation → Activation) : (s.modMyAct f).pairNext = s.pairNext := rfl
@[simp] theorem State.modMyAct_forced (s : State) (f : Activation → Activation) : (s.modMyAct f).forced = s.forced := rfl
@[simp] theorem State.modMyAct_agenda (s : State) (f : Activation → Activation) : (s.modMyAct f).agenda = s.agenda := rfl
@[simp] theorem State.modMyAct_relaxed (s : State) (f : Activation → Activation) : (s.modMyAct f).relaxed = s.relaxed := rfl
@[simp] theorem State.modMyAct_choice (s : State) (f : Activation → Activation) : (s.modMyAct f).choice = s.choice := rfl
@[simp] theorem State.modMyAct_serial (s : State) (f : Activation → Activation) : (s.modMyAct f).serial = s.serial := rfl
@[simp] theorem State.modMyAct_order (s : State) (f : Activation → Activation) : (s.modMyAct f).order = s.order := rfl
@[simp] theorem State.setPc_cycle (s : State) (pc : Word) : (s.setPc pc).cycle = s.cycle := rfl
@[simp] theorem State.setPc_wall (s : State) (pc : Word) : (s.setPc pc).wall = s.wall := rfl
@[simp] theorem State.setPc_hbm (s : State) (pc : Word) : (s.setPc pc).hbm = s.hbm := rfl
@[simp] theorem State.setPc_stored (s : State) (pc : Word) : (s.setPc pc).stored = s.stored := rfl
@[simp] theorem State.setPc_poison (s : State) (pc : Word) : (s.setPc pc).poison = s.poison := rfl
@[simp] theorem State.setPc_relTags (s : State) (pc : Word) : (s.setPc pc).relTags = s.relTags := rfl
@[simp] theorem State.setPc_hostMem (s : State) (pc : Word) : (s.setPc pc).hostMem = s.hostMem := rfl
@[simp] theorem State.setPc_heldStores (s : State) (pc : Word) : (s.setPc pc).heldStores = s.heldStores := rfl
@[simp] theorem State.setPc_clusterBuf (s : State) (pc : Word) : (s.setPc pc).clusterBuf = s.clusterBuf := rfl
@[simp] theorem State.setPc_remoteOut (s : State) (pc : Word) : (s.setPc pc).remoteOut = s.remoteOut := rfl
@[simp] theorem State.setPc_invGone (s : State) (pc : Word) : (s.setPc pc).invGone = s.invGone := rfl
@[simp] theorem State.setPc_farHeld (s : State) (pc : Word) : (s.setPc pc).farHeld = s.farHeld := rfl
@[simp] theorem State.setPc_watches (s : State) (pc : Word) : (s.setPc pc).watches = s.watches := rfl
@[simp] theorem State.setPc_deferred (s : State) (pc : Word) : (s.setPc pc).deferred = s.deferred := rfl
@[simp] theorem State.setPc_det (s : State) (pc : Word) : (s.setPc pc).det = s.det := rfl
@[simp] theorem State.setPc_tlb (s : State) (pc : Word) : (s.setPc pc).tlb = s.tlb := rfl
@[simp] theorem State.setPc_inv (s : State) (pc : Word) : (s.setPc pc).inv = s.inv := rfl
@[simp] theorem State.setPc_doorbells (s : State) (pc : Word) : (s.setPc pc).doorbells = s.doorbells := rfl
@[simp] theorem State.setPc_hostHeld (s : State) (pc : Word) : (s.setPc pc).hostHeld = s.hostHeld := rfl
@[simp] theorem State.setPc_bisnp (s : State) (pc : Word) : (s.setPc pc).bisnp = s.bisnp := rfl
@[simp] theorem State.setPc_hostReqs (s : State) (pc : Word) : (s.setPc pc).hostReqs = s.hostReqs := rfl
@[simp] theorem State.setPc_hostOut (s : State) (pc : Word) : (s.setPc pc).hostOut = s.hostOut := rfl
@[simp] theorem State.setPc_linePass (s : State) (pc : Word) : (s.setPc pc).linePass = s.linePass := rfl
@[simp] theorem State.setPc_sigPend (s : State) (pc : Word) : (s.setPc pc).sigPend = s.sigPend := rfl
@[simp] theorem State.setPc_tiles (s : State) (pc : Word) : (s.setPc pc).tiles = s.tiles := rfl
@[simp] theorem State.setPc_lmmap (s : State) (pc : Word) : (s.setPc pc).lmmap = s.lmmap := rfl
@[simp] theorem State.setPc_pend (s : State) (pc : Word) : (s.setPc pc).pend = s.pend := rfl
@[simp] theorem State.setPc_lmBack (s : State) (pc : Word) : (s.setPc pc).lmBack = s.lmBack := rfl
@[simp] theorem State.setPc_commits (s : State) (pc : Word) : (s.setPc pc).commits = s.commits := rfl
@[simp] theorem State.setPc_lmHeld (s : State) (pc : Word) : (s.setPc pc).lmHeld = s.lmHeld := rfl
@[simp] theorem State.setPc_seq (s : State) (pc : Word) : (s.setPc pc).seq = s.seq := rfl
@[simp] theorem State.setPc_txns (s : State) (pc : Word) : (s.setPc pc).txns = s.txns := rfl
@[simp] theorem State.setPc_rings (s : State) (pc : Word) : (s.setPc pc).rings = s.rings := rfl
@[simp] theorem State.setPc_ringPend (s : State) (pc : Word) : (s.setPc pc).ringPend = s.ringPend := rfl
@[simp] theorem State.setPc_ports (s : State) (pc : Word) : (s.setPc pc).ports = s.ports := rfl
@[simp] theorem State.setPc_members (s : State) (pc : Word) : (s.setPc pc).members = s.members := rfl
@[simp] theorem State.setPc_hqueues (s : State) (pc : Word) : (s.setPc pc).hqueues = s.hqueues := rfl
@[simp] theorem State.setPc_launches (s : State) (pc : Word) : (s.setPc pc).launches = s.launches := rfl
@[simp] theorem State.setPc_nextLaunch (s : State) (pc : Word) : (s.setPc pc).nextLaunch = s.nextLaunch := rfl
@[simp] theorem State.setPc_gangs (s : State) (pc : Word) : (s.setPc pc).gangs = s.gangs := rfl
@[simp] theorem State.setPc_nextGid (s : State) (pc : Word) : (s.setPc pc).nextGid = s.nextGid := rfl
@[simp] theorem State.setPc_fe (s : State) (pc : Word) : (s.setPc pc).fe = s.fe := rfl
@[simp] theorem State.setPc_outbox (s : State) (pc : Word) : (s.setPc pc).outbox = s.outbox := rfl
@[simp] theorem State.setPc_cur (s : State) (pc : Word) : (s.setPc pc).cur = s.cur := rfl
@[simp] theorem State.setPc_turn (s : State) (pc : Word) : (s.setPc pc).turn = s.turn := rfl
@[simp] theorem State.setPc_pairNext (s : State) (pc : Word) : (s.setPc pc).pairNext = s.pairNext := rfl
@[simp] theorem State.setPc_forced (s : State) (pc : Word) : (s.setPc pc).forced = s.forced := rfl
@[simp] theorem State.setPc_agenda (s : State) (pc : Word) : (s.setPc pc).agenda = s.agenda := rfl
@[simp] theorem State.setPc_relaxed (s : State) (pc : Word) : (s.setPc pc).relaxed = s.relaxed := rfl
@[simp] theorem State.setPc_choice (s : State) (pc : Word) : (s.setPc pc).choice = s.choice := rfl
@[simp] theorem State.setPc_serial (s : State) (pc : Word) : (s.setPc pc).serial = s.serial := rfl
@[simp] theorem State.setPc_order (s : State) (pc : Word) : (s.setPc pc).order = s.order := rfl
@[simp] theorem State.retire_cycle (s : State) : (s.retire).cycle = s.cycle := rfl
@[simp] theorem State.retire_wall (s : State) : (s.retire).wall = s.wall := rfl
@[simp] theorem State.retire_hbm (s : State) : (s.retire).hbm = s.hbm := rfl
@[simp] theorem State.retire_stored (s : State) : (s.retire).stored = s.stored := rfl
@[simp] theorem State.retire_poison (s : State) : (s.retire).poison = s.poison := rfl
@[simp] theorem State.retire_relTags (s : State) : (s.retire).relTags = s.relTags := rfl
@[simp] theorem State.retire_hostMem (s : State) : (s.retire).hostMem = s.hostMem := rfl
@[simp] theorem State.retire_heldStores (s : State) : (s.retire).heldStores = s.heldStores := rfl
@[simp] theorem State.retire_clusterBuf (s : State) : (s.retire).clusterBuf = s.clusterBuf := rfl
@[simp] theorem State.retire_remoteOut (s : State) : (s.retire).remoteOut = s.remoteOut := rfl
@[simp] theorem State.retire_invGone (s : State) : (s.retire).invGone = s.invGone := rfl
@[simp] theorem State.retire_farHeld (s : State) : (s.retire).farHeld = s.farHeld := rfl
@[simp] theorem State.retire_watches (s : State) : (s.retire).watches = s.watches := rfl
@[simp] theorem State.retire_deferred (s : State) : (s.retire).deferred = s.deferred := rfl
@[simp] theorem State.retire_det (s : State) : (s.retire).det = s.det := rfl
@[simp] theorem State.retire_tlb (s : State) : (s.retire).tlb = s.tlb := rfl
@[simp] theorem State.retire_inv (s : State) : (s.retire).inv = s.inv := rfl
@[simp] theorem State.retire_doorbells (s : State) : (s.retire).doorbells = s.doorbells := rfl
@[simp] theorem State.retire_hostHeld (s : State) : (s.retire).hostHeld = s.hostHeld := rfl
@[simp] theorem State.retire_bisnp (s : State) : (s.retire).bisnp = s.bisnp := rfl
@[simp] theorem State.retire_hostReqs (s : State) : (s.retire).hostReqs = s.hostReqs := rfl
@[simp] theorem State.retire_hostOut (s : State) : (s.retire).hostOut = s.hostOut := rfl
@[simp] theorem State.retire_linePass (s : State) : (s.retire).linePass = s.linePass := rfl
@[simp] theorem State.retire_sigPend (s : State) : (s.retire).sigPend = s.sigPend := rfl
@[simp] theorem State.retire_tiles (s : State) : (s.retire).tiles = s.tiles := rfl
@[simp] theorem State.retire_lmmap (s : State) : (s.retire).lmmap = s.lmmap := rfl
@[simp] theorem State.retire_pend (s : State) : (s.retire).pend = s.pend := rfl
@[simp] theorem State.retire_lmBack (s : State) : (s.retire).lmBack = s.lmBack := rfl
@[simp] theorem State.retire_commits (s : State) : (s.retire).commits = s.commits := rfl
@[simp] theorem State.retire_lmHeld (s : State) : (s.retire).lmHeld = s.lmHeld := rfl
@[simp] theorem State.retire_seq (s : State) : (s.retire).seq = s.seq := rfl
@[simp] theorem State.retire_txns (s : State) : (s.retire).txns = s.txns := rfl
@[simp] theorem State.retire_rings (s : State) : (s.retire).rings = s.rings := rfl
@[simp] theorem State.retire_ringPend (s : State) : (s.retire).ringPend = s.ringPend := rfl
@[simp] theorem State.retire_ports (s : State) : (s.retire).ports = s.ports := rfl
@[simp] theorem State.retire_members (s : State) : (s.retire).members = s.members := rfl
@[simp] theorem State.retire_hqueues (s : State) : (s.retire).hqueues = s.hqueues := rfl
@[simp] theorem State.retire_launches (s : State) : (s.retire).launches = s.launches := rfl
@[simp] theorem State.retire_nextLaunch (s : State) : (s.retire).nextLaunch = s.nextLaunch := rfl
@[simp] theorem State.retire_gangs (s : State) : (s.retire).gangs = s.gangs := rfl
@[simp] theorem State.retire_nextGid (s : State) : (s.retire).nextGid = s.nextGid := rfl
@[simp] theorem State.retire_fe (s : State) : (s.retire).fe = s.fe := rfl
@[simp] theorem State.retire_outbox (s : State) : (s.retire).outbox = s.outbox := rfl
@[simp] theorem State.retire_cur (s : State) : (s.retire).cur = s.cur := rfl
@[simp] theorem State.retire_turn (s : State) : (s.retire).turn = s.turn := rfl
@[simp] theorem State.retire_pairNext (s : State) : (s.retire).pairNext = s.pairNext := rfl
@[simp] theorem State.retire_forced (s : State) : (s.retire).forced = s.forced := rfl
@[simp] theorem State.retire_agenda (s : State) : (s.retire).agenda = s.agenda := rfl
@[simp] theorem State.retire_relaxed (s : State) : (s.retire).relaxed = s.relaxed := rfl
@[simp] theorem State.retire_choice (s : State) : (s.retire).choice = s.choice := rfl
@[simp] theorem State.retire_serial (s : State) : (s.retire).serial = s.serial := rfl
@[simp] theorem State.retire_order (s : State) : (s.retire).order = s.order := rfl
@[simp] theorem State.complete_cycle (s : State) : (s.complete).cycle = s.cycle := rfl
@[simp] theorem State.complete_wall (s : State) : (s.complete).wall = s.wall := rfl
@[simp] theorem State.complete_hbm (s : State) : (s.complete).hbm = s.hbm := rfl
@[simp] theorem State.complete_stored (s : State) : (s.complete).stored = s.stored := rfl
@[simp] theorem State.complete_poison (s : State) : (s.complete).poison = s.poison := rfl
@[simp] theorem State.complete_relTags (s : State) : (s.complete).relTags = s.relTags := rfl
@[simp] theorem State.complete_hostMem (s : State) : (s.complete).hostMem = s.hostMem := rfl
@[simp] theorem State.complete_heldStores (s : State) : (s.complete).heldStores = s.heldStores := rfl
@[simp] theorem State.complete_clusterBuf (s : State) : (s.complete).clusterBuf = s.clusterBuf := rfl
@[simp] theorem State.complete_remoteOut (s : State) : (s.complete).remoteOut = s.remoteOut := rfl
@[simp] theorem State.complete_invGone (s : State) : (s.complete).invGone = s.invGone := rfl
@[simp] theorem State.complete_farHeld (s : State) : (s.complete).farHeld = s.farHeld := rfl
@[simp] theorem State.complete_watches (s : State) : (s.complete).watches = s.watches := rfl
@[simp] theorem State.complete_deferred (s : State) : (s.complete).deferred = s.deferred := rfl
@[simp] theorem State.complete_det (s : State) : (s.complete).det = s.det := rfl
@[simp] theorem State.complete_tlb (s : State) : (s.complete).tlb = s.tlb := rfl
@[simp] theorem State.complete_inv (s : State) : (s.complete).inv = s.inv := rfl
@[simp] theorem State.complete_doorbells (s : State) : (s.complete).doorbells = s.doorbells := rfl
@[simp] theorem State.complete_hostHeld (s : State) : (s.complete).hostHeld = s.hostHeld := rfl
@[simp] theorem State.complete_bisnp (s : State) : (s.complete).bisnp = s.bisnp := rfl
@[simp] theorem State.complete_hostReqs (s : State) : (s.complete).hostReqs = s.hostReqs := rfl
@[simp] theorem State.complete_hostOut (s : State) : (s.complete).hostOut = s.hostOut := rfl
@[simp] theorem State.complete_linePass (s : State) : (s.complete).linePass = s.linePass := rfl
@[simp] theorem State.complete_sigPend (s : State) : (s.complete).sigPend = s.sigPend := rfl
@[simp] theorem State.complete_tiles (s : State) : (s.complete).tiles = s.tiles := rfl
@[simp] theorem State.complete_lmmap (s : State) : (s.complete).lmmap = s.lmmap := rfl
@[simp] theorem State.complete_pend (s : State) : (s.complete).pend = s.pend := rfl
@[simp] theorem State.complete_lmBack (s : State) : (s.complete).lmBack = s.lmBack := rfl
@[simp] theorem State.complete_commits (s : State) : (s.complete).commits = s.commits := rfl
@[simp] theorem State.complete_lmHeld (s : State) : (s.complete).lmHeld = s.lmHeld := rfl
@[simp] theorem State.complete_seq (s : State) : (s.complete).seq = s.seq := rfl
@[simp] theorem State.complete_txns (s : State) : (s.complete).txns = s.txns := rfl
@[simp] theorem State.complete_rings (s : State) : (s.complete).rings = s.rings := rfl
@[simp] theorem State.complete_ringPend (s : State) : (s.complete).ringPend = s.ringPend := rfl
@[simp] theorem State.complete_ports (s : State) : (s.complete).ports = s.ports := rfl
@[simp] theorem State.complete_members (s : State) : (s.complete).members = s.members := rfl
@[simp] theorem State.complete_hqueues (s : State) : (s.complete).hqueues = s.hqueues := rfl
@[simp] theorem State.complete_launches (s : State) : (s.complete).launches = s.launches := rfl
@[simp] theorem State.complete_nextLaunch (s : State) : (s.complete).nextLaunch = s.nextLaunch := rfl
@[simp] theorem State.complete_gangs (s : State) : (s.complete).gangs = s.gangs := rfl
@[simp] theorem State.complete_nextGid (s : State) : (s.complete).nextGid = s.nextGid := rfl
@[simp] theorem State.complete_fe (s : State) : (s.complete).fe = s.fe := rfl
@[simp] theorem State.complete_outbox (s : State) : (s.complete).outbox = s.outbox := rfl
@[simp] theorem State.complete_cur (s : State) : (s.complete).cur = s.cur := rfl
@[simp] theorem State.complete_turn (s : State) : (s.complete).turn = s.turn := rfl
@[simp] theorem State.complete_pairNext (s : State) : (s.complete).pairNext = s.pairNext := rfl
@[simp] theorem State.complete_forced (s : State) : (s.complete).forced = s.forced := rfl
@[simp] theorem State.complete_agenda (s : State) : (s.complete).agenda = s.agenda := rfl
@[simp] theorem State.complete_relaxed (s : State) : (s.complete).relaxed = s.relaxed := rfl
@[simp] theorem State.complete_choice (s : State) : (s.complete).choice = s.choice := rfl
@[simp] theorem State.complete_serial (s : State) : (s.complete).serial = s.serial := rfl
@[simp] theorem State.complete_order (s : State) : (s.complete).order = s.order := rfl

/-! What other updates leave. -/
@[simp] theorem State.due_cores (s : State) (i : Instr) : (s.due i).cores = s.cores := rfl
@[simp] theorem State.due_cycle (s : State) (i : Instr) : (s.due i).cycle = s.cycle := rfl
@[simp] theorem State.due_wall (s : State) (i : Instr) : (s.due i).wall = s.wall := rfl
@[simp] theorem State.due_hbm (s : State) (i : Instr) : (s.due i).hbm = s.hbm := rfl
@[simp] theorem State.due_stored (s : State) (i : Instr) : (s.due i).stored = s.stored := rfl
@[simp] theorem State.due_poison (s : State) (i : Instr) : (s.due i).poison = s.poison := rfl
@[simp] theorem State.due_relTags (s : State) (i : Instr) : (s.due i).relTags = s.relTags := rfl
@[simp] theorem State.due_hostMem (s : State) (i : Instr) : (s.due i).hostMem = s.hostMem := rfl
@[simp] theorem State.due_heldStores (s : State) (i : Instr) : (s.due i).heldStores = s.heldStores := rfl
@[simp] theorem State.due_clusterBuf (s : State) (i : Instr) : (s.due i).clusterBuf = s.clusterBuf := rfl
@[simp] theorem State.due_remoteOut (s : State) (i : Instr) : (s.due i).remoteOut = s.remoteOut := rfl
@[simp] theorem State.due_invGone (s : State) (i : Instr) : (s.due i).invGone = s.invGone := rfl
@[simp] theorem State.due_farHeld (s : State) (i : Instr) : (s.due i).farHeld = s.farHeld := rfl
@[simp] theorem State.due_watches (s : State) (i : Instr) : (s.due i).watches = s.watches := rfl
@[simp] theorem State.due_deferred (s : State) (i : Instr) : (s.due i).deferred = s.deferred := rfl
@[simp] theorem State.due_det (s : State) (i : Instr) : (s.due i).det = s.det := rfl
@[simp] theorem State.due_tlb (s : State) (i : Instr) : (s.due i).tlb = s.tlb := rfl
@[simp] theorem State.due_inv (s : State) (i : Instr) : (s.due i).inv = s.inv := rfl
@[simp] theorem State.due_doorbells (s : State) (i : Instr) : (s.due i).doorbells = s.doorbells := rfl
@[simp] theorem State.due_hostHeld (s : State) (i : Instr) : (s.due i).hostHeld = s.hostHeld := rfl
@[simp] theorem State.due_bisnp (s : State) (i : Instr) : (s.due i).bisnp = s.bisnp := rfl
@[simp] theorem State.due_hostReqs (s : State) (i : Instr) : (s.due i).hostReqs = s.hostReqs := rfl
@[simp] theorem State.due_hostOut (s : State) (i : Instr) : (s.due i).hostOut = s.hostOut := rfl
@[simp] theorem State.due_linePass (s : State) (i : Instr) : (s.due i).linePass = s.linePass := rfl
@[simp] theorem State.due_sigPend (s : State) (i : Instr) : (s.due i).sigPend = s.sigPend := rfl
@[simp] theorem State.due_tiles (s : State) (i : Instr) : (s.due i).tiles = s.tiles := rfl
@[simp] theorem State.due_lmmap (s : State) (i : Instr) : (s.due i).lmmap = s.lmmap := rfl
@[simp] theorem State.due_pend (s : State) (i : Instr) : (s.due i).pend = s.pend := rfl
@[simp] theorem State.due_lmBack (s : State) (i : Instr) : (s.due i).lmBack = s.lmBack := rfl
@[simp] theorem State.due_commits (s : State) (i : Instr) : (s.due i).commits = s.commits := rfl
@[simp] theorem State.due_lmHeld (s : State) (i : Instr) : (s.due i).lmHeld = s.lmHeld := rfl
@[simp] theorem State.due_seq (s : State) (i : Instr) : (s.due i).seq = s.seq := rfl
@[simp] theorem State.due_txns (s : State) (i : Instr) : (s.due i).txns = s.txns := rfl
@[simp] theorem State.due_rings (s : State) (i : Instr) : (s.due i).rings = s.rings := rfl
@[simp] theorem State.due_ringPend (s : State) (i : Instr) : (s.due i).ringPend = s.ringPend := rfl
@[simp] theorem State.due_ports (s : State) (i : Instr) : (s.due i).ports = s.ports := rfl
@[simp] theorem State.due_members (s : State) (i : Instr) : (s.due i).members = s.members := rfl
@[simp] theorem State.due_hqueues (s : State) (i : Instr) : (s.due i).hqueues = s.hqueues := rfl
@[simp] theorem State.due_launches (s : State) (i : Instr) : (s.due i).launches = s.launches := rfl
@[simp] theorem State.due_nextLaunch (s : State) (i : Instr) : (s.due i).nextLaunch = s.nextLaunch := rfl
@[simp] theorem State.due_gangs (s : State) (i : Instr) : (s.due i).gangs = s.gangs := rfl
@[simp] theorem State.due_nextGid (s : State) (i : Instr) : (s.due i).nextGid = s.nextGid := rfl
@[simp] theorem State.due_fe (s : State) (i : Instr) : (s.due i).fe = s.fe := rfl
@[simp] theorem State.due_outbox (s : State) (i : Instr) : (s.due i).outbox = s.outbox := rfl
@[simp] theorem State.due_cur (s : State) (i : Instr) : (s.due i).cur = s.cur := rfl
@[simp] theorem State.due_turn (s : State) (i : Instr) : (s.due i).turn = s.turn := rfl
@[simp] theorem State.due_pairNext (s : State) (i : Instr) : (s.due i).pairNext = s.pairNext := rfl
@[simp] theorem State.due_forced (s : State) (i : Instr) : (s.due i).forced = s.forced := rfl
@[simp] theorem State.due_relaxed (s : State) (i : Instr) : (s.due i).relaxed = s.relaxed := rfl
@[simp] theorem State.due_choice (s : State) (i : Instr) : (s.due i).choice = s.choice := rfl
@[simp] theorem State.due_serial (s : State) (i : Instr) : (s.due i).serial = s.serial := rfl
@[simp] theorem State.due_order (s : State) (i : Instr) : (s.due i).order = s.order := rfl
@[simp] theorem State.out_cores (s : State) (x : Outgoing) : (s.out x).cores = s.cores := rfl
@[simp] theorem State.out_cycle (s : State) (x : Outgoing) : (s.out x).cycle = s.cycle := rfl
@[simp] theorem State.out_wall (s : State) (x : Outgoing) : (s.out x).wall = s.wall := rfl
@[simp] theorem State.out_hbm (s : State) (x : Outgoing) : (s.out x).hbm = s.hbm := rfl
@[simp] theorem State.out_stored (s : State) (x : Outgoing) : (s.out x).stored = s.stored := rfl
@[simp] theorem State.out_poison (s : State) (x : Outgoing) : (s.out x).poison = s.poison := rfl
@[simp] theorem State.out_relTags (s : State) (x : Outgoing) : (s.out x).relTags = s.relTags := rfl
@[simp] theorem State.out_hostMem (s : State) (x : Outgoing) : (s.out x).hostMem = s.hostMem := rfl
@[simp] theorem State.out_heldStores (s : State) (x : Outgoing) : (s.out x).heldStores = s.heldStores := rfl
@[simp] theorem State.out_clusterBuf (s : State) (x : Outgoing) : (s.out x).clusterBuf = s.clusterBuf := rfl
@[simp] theorem State.out_remoteOut (s : State) (x : Outgoing) : (s.out x).remoteOut = s.remoteOut := rfl
@[simp] theorem State.out_invGone (s : State) (x : Outgoing) : (s.out x).invGone = s.invGone := rfl
@[simp] theorem State.out_farHeld (s : State) (x : Outgoing) : (s.out x).farHeld = s.farHeld := rfl
@[simp] theorem State.out_watches (s : State) (x : Outgoing) : (s.out x).watches = s.watches := rfl
@[simp] theorem State.out_deferred (s : State) (x : Outgoing) : (s.out x).deferred = s.deferred := rfl
@[simp] theorem State.out_det (s : State) (x : Outgoing) : (s.out x).det = s.det := rfl
@[simp] theorem State.out_tlb (s : State) (x : Outgoing) : (s.out x).tlb = s.tlb := rfl
@[simp] theorem State.out_inv (s : State) (x : Outgoing) : (s.out x).inv = s.inv := rfl
@[simp] theorem State.out_doorbells (s : State) (x : Outgoing) : (s.out x).doorbells = s.doorbells := rfl
@[simp] theorem State.out_hostHeld (s : State) (x : Outgoing) : (s.out x).hostHeld = s.hostHeld := rfl
@[simp] theorem State.out_bisnp (s : State) (x : Outgoing) : (s.out x).bisnp = s.bisnp := rfl
@[simp] theorem State.out_hostReqs (s : State) (x : Outgoing) : (s.out x).hostReqs = s.hostReqs := rfl
@[simp] theorem State.out_hostOut (s : State) (x : Outgoing) : (s.out x).hostOut = s.hostOut := rfl
@[simp] theorem State.out_linePass (s : State) (x : Outgoing) : (s.out x).linePass = s.linePass := rfl
@[simp] theorem State.out_sigPend (s : State) (x : Outgoing) : (s.out x).sigPend = s.sigPend := rfl
@[simp] theorem State.out_tiles (s : State) (x : Outgoing) : (s.out x).tiles = s.tiles := rfl
@[simp] theorem State.out_lmmap (s : State) (x : Outgoing) : (s.out x).lmmap = s.lmmap := rfl
@[simp] theorem State.out_pend (s : State) (x : Outgoing) : (s.out x).pend = s.pend := rfl
@[simp] theorem State.out_lmBack (s : State) (x : Outgoing) : (s.out x).lmBack = s.lmBack := rfl
@[simp] theorem State.out_commits (s : State) (x : Outgoing) : (s.out x).commits = s.commits := rfl
@[simp] theorem State.out_lmHeld (s : State) (x : Outgoing) : (s.out x).lmHeld = s.lmHeld := rfl
@[simp] theorem State.out_seq (s : State) (x : Outgoing) : (s.out x).seq = s.seq := rfl
@[simp] theorem State.out_txns (s : State) (x : Outgoing) : (s.out x).txns = s.txns := rfl
@[simp] theorem State.out_rings (s : State) (x : Outgoing) : (s.out x).rings = s.rings := rfl
@[simp] theorem State.out_ringPend (s : State) (x : Outgoing) : (s.out x).ringPend = s.ringPend := rfl
@[simp] theorem State.out_ports (s : State) (x : Outgoing) : (s.out x).ports = s.ports := rfl
@[simp] theorem State.out_members (s : State) (x : Outgoing) : (s.out x).members = s.members := rfl
@[simp] theorem State.out_hqueues (s : State) (x : Outgoing) : (s.out x).hqueues = s.hqueues := rfl
@[simp] theorem State.out_launches (s : State) (x : Outgoing) : (s.out x).launches = s.launches := rfl
@[simp] theorem State.out_nextLaunch (s : State) (x : Outgoing) : (s.out x).nextLaunch = s.nextLaunch := rfl
@[simp] theorem State.out_gangs (s : State) (x : Outgoing) : (s.out x).gangs = s.gangs := rfl
@[simp] theorem State.out_nextGid (s : State) (x : Outgoing) : (s.out x).nextGid = s.nextGid := rfl
@[simp] theorem State.out_fe (s : State) (x : Outgoing) : (s.out x).fe = s.fe := rfl
@[simp] theorem State.out_cur (s : State) (x : Outgoing) : (s.out x).cur = s.cur := rfl
@[simp] theorem State.out_turn (s : State) (x : Outgoing) : (s.out x).turn = s.turn := rfl
@[simp] theorem State.out_pairNext (s : State) (x : Outgoing) : (s.out x).pairNext = s.pairNext := rfl
@[simp] theorem State.out_forced (s : State) (x : Outgoing) : (s.out x).forced = s.forced := rfl
@[simp] theorem State.out_agenda (s : State) (x : Outgoing) : (s.out x).agenda = s.agenda := rfl
@[simp] theorem State.out_relaxed (s : State) (x : Outgoing) : (s.out x).relaxed = s.relaxed := rfl
@[simp] theorem State.out_choice (s : State) (x : Outgoing) : (s.out x).choice = s.choice := rfl
@[simp] theorem State.out_serial (s : State) (x : Outgoing) : (s.out x).serial = s.serial := rfl
@[simp] theorem State.out_order (s : State) (x : Outgoing) : (s.out x).order = s.order := rfl
@[simp] theorem State.wr8_cores (s : State) (e : Option SeenSince) (pa : Nat) (v : Byte) : (s.wr8 e pa v).cores = s.cores := rfl
@[simp] theorem State.wr8_cycle (s : State) (e : Option SeenSince) (pa : Nat) (v : Byte) : (s.wr8 e pa v).cycle = s.cycle := rfl
@[simp] theorem State.wr8_wall (s : State) (e : Option SeenSince) (pa : Nat) (v : Byte) : (s.wr8 e pa v).wall = s.wall := rfl
@[simp] theorem State.wr8_poison (s : State) (e : Option SeenSince) (pa : Nat) (v : Byte) : (s.wr8 e pa v).poison = s.poison := rfl
@[simp] theorem State.wr8_relTags (s : State) (e : Option SeenSince) (pa : Nat) (v : Byte) : (s.wr8 e pa v).relTags = s.relTags := rfl
@[simp] theorem State.wr8_hostMem (s : State) (e : Option SeenSince) (pa : Nat) (v : Byte) : (s.wr8 e pa v).hostMem = s.hostMem := rfl
@[simp] theorem State.wr8_heldStores (s : State) (e : Option SeenSince) (pa : Nat) (v : Byte) : (s.wr8 e pa v).heldStores = s.heldStores := rfl
@[simp] theorem State.wr8_clusterBuf (s : State) (e : Option SeenSince) (pa : Nat) (v : Byte) : (s.wr8 e pa v).clusterBuf = s.clusterBuf := rfl
@[simp] theorem State.wr8_remoteOut (s : State) (e : Option SeenSince) (pa : Nat) (v : Byte) : (s.wr8 e pa v).remoteOut = s.remoteOut := rfl
@[simp] theorem State.wr8_invGone (s : State) (e : Option SeenSince) (pa : Nat) (v : Byte) : (s.wr8 e pa v).invGone = s.invGone := rfl
@[simp] theorem State.wr8_farHeld (s : State) (e : Option SeenSince) (pa : Nat) (v : Byte) : (s.wr8 e pa v).farHeld = s.farHeld := rfl
@[simp] theorem State.wr8_watches (s : State) (e : Option SeenSince) (pa : Nat) (v : Byte) : (s.wr8 e pa v).watches = s.watches := rfl
@[simp] theorem State.wr8_deferred (s : State) (e : Option SeenSince) (pa : Nat) (v : Byte) : (s.wr8 e pa v).deferred = s.deferred := rfl
@[simp] theorem State.wr8_det (s : State) (e : Option SeenSince) (pa : Nat) (v : Byte) : (s.wr8 e pa v).det = s.det := rfl
@[simp] theorem State.wr8_tlb (s : State) (e : Option SeenSince) (pa : Nat) (v : Byte) : (s.wr8 e pa v).tlb = s.tlb := rfl
@[simp] theorem State.wr8_inv (s : State) (e : Option SeenSince) (pa : Nat) (v : Byte) : (s.wr8 e pa v).inv = s.inv := rfl
@[simp] theorem State.wr8_doorbells (s : State) (e : Option SeenSince) (pa : Nat) (v : Byte) : (s.wr8 e pa v).doorbells = s.doorbells := rfl
@[simp] theorem State.wr8_hostHeld (s : State) (e : Option SeenSince) (pa : Nat) (v : Byte) : (s.wr8 e pa v).hostHeld = s.hostHeld := rfl
@[simp] theorem State.wr8_bisnp (s : State) (e : Option SeenSince) (pa : Nat) (v : Byte) : (s.wr8 e pa v).bisnp = s.bisnp := rfl
@[simp] theorem State.wr8_hostReqs (s : State) (e : Option SeenSince) (pa : Nat) (v : Byte) : (s.wr8 e pa v).hostReqs = s.hostReqs := rfl
@[simp] theorem State.wr8_hostOut (s : State) (e : Option SeenSince) (pa : Nat) (v : Byte) : (s.wr8 e pa v).hostOut = s.hostOut := rfl
@[simp] theorem State.wr8_linePass (s : State) (e : Option SeenSince) (pa : Nat) (v : Byte) : (s.wr8 e pa v).linePass = s.linePass := rfl
@[simp] theorem State.wr8_sigPend (s : State) (e : Option SeenSince) (pa : Nat) (v : Byte) : (s.wr8 e pa v).sigPend = s.sigPend := rfl
@[simp] theorem State.wr8_tiles (s : State) (e : Option SeenSince) (pa : Nat) (v : Byte) : (s.wr8 e pa v).tiles = s.tiles := rfl
@[simp] theorem State.wr8_lmmap (s : State) (e : Option SeenSince) (pa : Nat) (v : Byte) : (s.wr8 e pa v).lmmap = s.lmmap := rfl
@[simp] theorem State.wr8_pend (s : State) (e : Option SeenSince) (pa : Nat) (v : Byte) : (s.wr8 e pa v).pend = s.pend := rfl
@[simp] theorem State.wr8_lmBack (s : State) (e : Option SeenSince) (pa : Nat) (v : Byte) : (s.wr8 e pa v).lmBack = s.lmBack := rfl
@[simp] theorem State.wr8_commits (s : State) (e : Option SeenSince) (pa : Nat) (v : Byte) : (s.wr8 e pa v).commits = s.commits := rfl
@[simp] theorem State.wr8_lmHeld (s : State) (e : Option SeenSince) (pa : Nat) (v : Byte) : (s.wr8 e pa v).lmHeld = s.lmHeld := rfl
@[simp] theorem State.wr8_seq (s : State) (e : Option SeenSince) (pa : Nat) (v : Byte) : (s.wr8 e pa v).seq = s.seq := rfl
@[simp] theorem State.wr8_txns (s : State) (e : Option SeenSince) (pa : Nat) (v : Byte) : (s.wr8 e pa v).txns = s.txns := rfl
@[simp] theorem State.wr8_rings (s : State) (e : Option SeenSince) (pa : Nat) (v : Byte) : (s.wr8 e pa v).rings = s.rings := rfl
@[simp] theorem State.wr8_ringPend (s : State) (e : Option SeenSince) (pa : Nat) (v : Byte) : (s.wr8 e pa v).ringPend = s.ringPend := rfl
@[simp] theorem State.wr8_ports (s : State) (e : Option SeenSince) (pa : Nat) (v : Byte) : (s.wr8 e pa v).ports = s.ports := rfl
@[simp] theorem State.wr8_members (s : State) (e : Option SeenSince) (pa : Nat) (v : Byte) : (s.wr8 e pa v).members = s.members := rfl
@[simp] theorem State.wr8_hqueues (s : State) (e : Option SeenSince) (pa : Nat) (v : Byte) : (s.wr8 e pa v).hqueues = s.hqueues := rfl
@[simp] theorem State.wr8_launches (s : State) (e : Option SeenSince) (pa : Nat) (v : Byte) : (s.wr8 e pa v).launches = s.launches := rfl
@[simp] theorem State.wr8_nextLaunch (s : State) (e : Option SeenSince) (pa : Nat) (v : Byte) : (s.wr8 e pa v).nextLaunch = s.nextLaunch := rfl
@[simp] theorem State.wr8_gangs (s : State) (e : Option SeenSince) (pa : Nat) (v : Byte) : (s.wr8 e pa v).gangs = s.gangs := rfl
@[simp] theorem State.wr8_nextGid (s : State) (e : Option SeenSince) (pa : Nat) (v : Byte) : (s.wr8 e pa v).nextGid = s.nextGid := rfl
@[simp] theorem State.wr8_fe (s : State) (e : Option SeenSince) (pa : Nat) (v : Byte) : (s.wr8 e pa v).fe = s.fe := rfl
@[simp] theorem State.wr8_outbox (s : State) (e : Option SeenSince) (pa : Nat) (v : Byte) : (s.wr8 e pa v).outbox = s.outbox := rfl
@[simp] theorem State.wr8_cur (s : State) (e : Option SeenSince) (pa : Nat) (v : Byte) : (s.wr8 e pa v).cur = s.cur := rfl
@[simp] theorem State.wr8_turn (s : State) (e : Option SeenSince) (pa : Nat) (v : Byte) : (s.wr8 e pa v).turn = s.turn := rfl
@[simp] theorem State.wr8_pairNext (s : State) (e : Option SeenSince) (pa : Nat) (v : Byte) : (s.wr8 e pa v).pairNext = s.pairNext := rfl
@[simp] theorem State.wr8_forced (s : State) (e : Option SeenSince) (pa : Nat) (v : Byte) : (s.wr8 e pa v).forced = s.forced := rfl
@[simp] theorem State.wr8_agenda (s : State) (e : Option SeenSince) (pa : Nat) (v : Byte) : (s.wr8 e pa v).agenda = s.agenda := rfl
@[simp] theorem State.wr8_relaxed (s : State) (e : Option SeenSince) (pa : Nat) (v : Byte) : (s.wr8 e pa v).relaxed = s.relaxed := rfl
@[simp] theorem State.wr8_choice (s : State) (e : Option SeenSince) (pa : Nat) (v : Byte) : (s.wr8 e pa v).choice = s.choice := rfl
@[simp] theorem State.wr8_serial (s : State) (e : Option SeenSince) (pa : Nat) (v : Byte) : (s.wr8 e pa v).serial = s.serial := rfl
@[simp] theorem State.wr8_order (s : State) (e : Option SeenSince) (pa : Nat) (v : Byte) : (s.wr8 e pa v).order = s.order := rfl
@[simp] theorem State.due_agenda (s : State) (i : Instr) : (s.due i).agenda = s.agenda ++ [i] := rfl
@[simp] theorem State.out_outbox (s : State) (x : Outgoing) : (s.out x).outbox = s.outbox ++ [x] := rfl

/-! What an update of a slot leaves of its core. -/
@[simp] theorem Core.modSlot_localMem (k : Core) (i : Nat) (f : Slot → Slot) : (k.modSlot i f).localMem = k.localMem := rfl
@[simp] theorem Core.modSlot_bankRole (k : Core) (i : Nat) (f : Slot → Slot) : (k.modSlot i f).bankRole = k.bankRole := rfl
@[simp] theorem Core.modSlot_rolePend (k : Core) (i : Nat) (f : Slot → Slot) : (k.modSlot i f).rolePend = k.rolePend := rfl
@[simp] theorem Core.modSlot_retired (k : Core) (i : Nat) (f : Slot → Slot) : (k.modSlot i f).retired = k.retired := rfl
@[simp] theorem Core.modSlot_lastSlot (k : Core) (i : Nat) (f : Slot → Slot) : (k.modSlot i f).lastSlot = k.lastSlot := rfl
@[simp] theorem Core.modSlot_lastQueue (k : Core) (i : Nat) (f : Slot → Slot) : (k.modSlot i f).lastQueue = k.lastQueue := rfl
@[simp] theorem Core.modSlot_work (k : Core) (i : Nat) (f : Slot → Slot) : (k.modSlot i f).work = k.work := rfl
@[simp] theorem Core.modSlot_serving (k : Core) (i : Nat) (f : Slot → Slot) : (k.modSlot i f).serving = k.serving := rfl
@[simp] theorem Core.modSlot_codebook (k : Core) (i : Nat) (f : Slot → Slot) : (k.modSlot i f).codebook = k.codebook := rfl
@[simp] theorem Core.modSlot_queues (k : Core) (i : Nat) (f : Slot → Slot) : (k.modSlot i f).queues = k.queues := rfl
@[simp] theorem Core.modSlot_handlers (k : Core) (i : Nat) (f : Slot → Slot) : (k.modSlot i f).handlers = k.handlers := rfl
@[simp] theorem Core.modSlot_sendBuf (k : Core) (i : Nat) (f : Slot → Slot) : (k.modSlot i f).sendBuf = k.sendBuf := rfl
@[simp] theorem Core.modSlot_agentPort (k : Core) (i : Nat) (f : Slot → Slot) : (k.modSlot i f).agentPort = k.agentPort := rfl
@[simp] theorem Core.modSlot_agentWait (k : Core) (i : Nat) (f : Slot → Slot) : (k.modSlot i f).agentWait = k.agentWait := rfl
@[simp] theorem Core.modSlot_winb (k : Core) (i : Nat) (f : Slot → Slot) : (k.modSlot i f).winb = k.winb := rfl
@[simp] theorem Core.modSlot_nextId (k : Core) (i : Nat) (f : Slot → Slot) : (k.modSlot i f).nextId = k.nextId := rfl
@[simp] theorem Core.modSlot_ren (k : Core) (i : Nat) (f : Slot → Slot) : (k.modSlot i f).ren = k.ren := rfl
@[simp] theorem Core.modSlot_rqueue (k : Core) (i : Nat) (f : Slot → Slot) : (k.modSlot i f).rqueue = k.rqueue := rfl
@[simp] theorem Core.modSlot_rhid (k : Core) (i : Nat) (f : Slot → Slot) : (k.modSlot i f).rhid = k.rhid := rfl
@[simp] theorem Core.modSlot_qasidLo (k : Core) (i : Nat) (f : Slot → Slot) : (k.modSlot i f).qasidLo = k.qasidLo := rfl
@[simp] theorem Core.modSlot_qasidHi (k : Core) (i : Nat) (f : Slot → Slot) : (k.modSlot i f).qasidHi = k.qasidHi := rfl
@[simp] theorem Core.modSlot_missTrap (k : Core) (i : Nat) (f : Slot → Slot) : (k.modSlot i f).missTrap = k.missTrap := rfl
@[simp] theorem Core.modSlot_missCount (k : Core) (i : Nat) (f : Slot → Slot) : (k.modSlot i f).missCount = k.missCount := rfl
@[simp] theorem Core.modSlot_missAddr (k : Core) (i : Nat) (f : Slot → Slot) : (k.modSlot i f).missAddr = k.missAddr := rfl
@[simp] theorem Core.modSlot_cntLate (k : Core) (i : Nat) (f : Slot → Slot) : (k.modSlot i f).cntLate = k.cntLate := rfl
@[simp] theorem Core.modSlot_cntErr (k : Core) (i : Nat) (f : Slot → Slot) : (k.modSlot i f).cntErr = k.cntErr := rfl
@[simp] theorem Core.modSlot_cntAbort (k : Core) (i : Nat) (f : Slot → Slot) : (k.modSlot i f).cntAbort = k.cntAbort := rfl
@[simp] theorem Core.modSlot_brkEn (k : Core) (i : Nat) (f : Slot → Slot) : (k.modSlot i f).brkEn = k.brkEn := rfl
@[simp] theorem Core.modSlot_copy (k : Core) (i : Nat) (f : Slot → Slot) : (k.modSlot i f).copy = k.copy := rfl
@[simp] theorem Core.modSlot_matrix (k : Core) (i : Nat) (f : Slot → Slot) : (k.modSlot i f).matrix = k.matrix := rfl
@[simp] theorem Core.modSlot_tiles (k : Core) (i : Nat) (f : Slot → Slot) : (k.modSlot i f).tiles = k.tiles := rfl
@[simp] theorem Core.modSlot_oslots (k : Core) (i : Nat) (f : Slot → Slot) : (k.modSlot i f).oslots = k.oslots := rfl
@[simp] theorem Core.modSlot_mxm (k : Core) (i : Nat) (f : Slot → Slot) : (k.modSlot i f).mxm = k.mxm := rfl
@[simp] theorem Core.modSlot_mxl (k : Core) (i : Nat) (f : Slot → Slot) : (k.modSlot i f).mxl = k.mxl := rfl
@[simp] theorem Core.modSlot_ascale (k : Core) (i : Nat) (f : Slot → Slot) : (k.modSlot i f).ascale = k.ascale := rfl
@[simp] theorem Core.modSlot_rowProg (k : Core) (i : Nat) (f : Slot → Slot) : (k.modSlot i f).rowProg = k.rowProg := rfl
@[simp] theorem Core.modSlot_res (k : Core) (i : Nat) (f : Slot → Slot) : (k.modSlot i f).res = k.res := rfl
@[simp] theorem Core.modSlot_cacheLines (k : Core) (i : Nat) (f : Slot → Slot) : (k.modSlot i f).cacheLines = k.cacheLines := rfl
@[simp] theorem Core.modSlot_deque (k : Core) (i : Nat) (f : Slot → Slot) : (k.modSlot i f).deque = k.deque := rfl
@[simp] theorem Core.modSlot_spillDeque (k : Core) (i : Nat) (f : Slot → Slot) : (k.modSlot i f).spillDeque = k.spillDeque := rfl
@[simp] theorem Core.modSlot_dqSpb (k : Core) (i : Nat) (f : Slot → Slot) : (k.modSlot i f).dqSpb = k.dqSpb := rfl
@[simp] theorem Core.modSlot_dqLog2 (k : Core) (i : Nat) (f : Slot → Slot) : (k.modSlot i f).dqLog2 = k.dqLog2 := rfl
@[simp] theorem Core.modSlot_stealIn (k : Core) (i : Nat) (f : Slot → Slot) : (k.modSlot i f).stealIn = k.stealIn := rfl
@[simp] theorem Core.modSlot_stealOut (k : Core) (i : Nat) (f : Slot → Slot) : (k.modSlot i f).stealOut = k.stealOut := rfl
@[simp] theorem Core.modSlot_svc (k : Core) (i : Nat) (f : Slot → Slot) : (k.modSlot i f).svc = k.svc := rfl
@[simp] theorem Core.modSlot_locPoison (k : Core) (i : Nat) (f : Slot → Slot) : (k.modSlot i f).locPoison = k.locPoison := rfl
@[simp] theorem Core.modSlot_badArrays (k : Core) (i : Nat) (f : Slot → Slot) : (k.modSlot i f).badArrays = k.badArrays := rfl
@[simp] theorem Core.modSlot_retiring (k : Core) (i : Nat) (f : Slot → Slot) : (k.modSlot i f).retiring = k.retiring := rfl
@[simp] theorem Core.modSlot_fetchTimes (k : Core) (i : Nat) (f : Slot → Slot) : (k.modSlot i f).fetchTimes = k.fetchTimes := rfl

/-! What a register write leaves of its slot. -/
@[simp] theorem Slot.setS_mode (x : Slot) (r : Sreg) (v : Word) : (x.setS r v).mode = x.mode := by unfold Slot.setS; split <;> rfl
@[simp] theorem Slot.setS_act (x : Slot) (r : Sreg) (v : Word) : (x.setS r v).act = x.act := by unfold Slot.setS; split <;> rfl
@[simp] theorem Slot.setS_wait (x : Slot) (r : Sreg) (v : Word) : (x.setS r v).wait = x.wait := by unfold Slot.setS; split <;> rfl
@[simp] theorem Slot.setS_pc (x : Slot) (r : Sreg) (v : Word) : (x.setS r v).pc = x.pc := by unfold Slot.setS; split <;> rfl
@[simp] theorem Slot.setS_level (x : Slot) (r : Sreg) (v : Word) : (x.setS r v).level = x.level := by unfold Slot.setS; split <;> rfl
@[simp] theorem Slot.setS_ceil (x : Slot) (r : Sreg) (v : Word) : (x.setS r v).ceil = x.ceil := by unfold Slot.setS; split <;> rfl
@[simp] theorem Slot.setS_inherited (x : Slot) (r : Sreg) (v : Word) : (x.setS r v).inherited = x.inherited := by unfold Slot.setS; split <;> rfl
@[simp] theorem Slot.setS_pickLevel (x : Slot) (r : Sreg) (v : Word) : (x.setS r v).pickLevel = x.pickLevel := by unfold Slot.setS; split <;> rfl
@[simp] theorem Slot.setS_budget (x : Slot) (r : Sreg) (v : Word) : (x.setS r v).budget = x.budget := by unfold Slot.setS; split <;> rfl
@[simp] theorem Slot.setS_age (x : Slot) (r : Sreg) (v : Word) : (x.setS r v).age = x.age := by unfold Slot.setS; split <;> rfl
@[simp] theorem Slot.setS_reserved (x : Slot) (r : Sreg) (v : Word) : (x.setS r v).reserved = x.reserved := by unfold Slot.setS; split <;> rfl
@[simp] theorem Slot.setS_gangInfo (x : Slot) (r : Sreg) (v : Word) : (x.setS r v).gangInfo = x.gangInfo := by unfold Slot.setS; split <;> rfl
@[simp] theorem Slot.setS_vregs (x : Slot) (r : Sreg) (v : Word) : (x.setS r v).vregs = x.vregs := by unfold Slot.setS; split <;> rfl
@[simp] theorem Slot.setS_pregs (x : Slot) (r : Sreg) (v : Word) : (x.setS r v).pregs = x.pregs := by unfold Slot.setS; split <;> rfl
@[simp] theorem Slot.setS_mregs (x : Slot) (r : Sreg) (v : Word) : (x.setS r v).mregs = x.mregs := by unfold Slot.setS; split <;> rfl
@[simp] theorem Slot.setS_ptrs (x : Slot) (r : Sreg) (v : Word) : (x.setS r v).ptrs = x.ptrs := by unfold Slot.setS; split <;> rfl
@[simp] theorem Slot.setS_chanTag (x : Slot) (r : Sreg) (v : Word) : (x.setS r v).chanTag = x.chanTag := by unfold Slot.setS; split <;> rfl
@[simp] theorem Slot.setS_chanSeen (x : Slot) (r : Sreg) (v : Word) : (x.setS r v).chanSeen = x.chanSeen := by unfold Slot.setS; split <;> rfl
@[simp] theorem Slot.setS_chans (x : Slot) (r : Sreg) (v : Word) : (x.setS r v).chans = x.chans := by unfold Slot.setS; split <;> rfl
@[simp] theorem Slot.setS_portTag (x : Slot) (r : Sreg) (v : Word) : (x.setS r v).portTag = x.portTag := by unfold Slot.setS; split <;> rfl
@[simp] theorem Slot.setS_portSeen (x : Slot) (r : Sreg) (v : Word) : (x.setS r v).portSeen = x.portSeen := by unfold Slot.setS; split <;> rfl
@[simp] theorem Slot.setS_credits (x : Slot) (r : Sreg) (v : Word) : (x.setS r v).credits = x.credits := by unfold Slot.setS; split <;> rfl
@[simp] theorem Slot.setS_sb (x : Slot) (r : Sreg) (v : Word) : (x.setS r v).sb = x.sb := by unfold Slot.setS; split <;> rfl
@[simp] theorem Slot.setS_sbNext (x : Slot) (r : Sreg) (v : Word) : (x.setS r v).sbNext = x.sbNext := by unfold Slot.setS; split <;> rfl
@[simp] theorem Slot.setS_sbWait (x : Slot) (r : Sreg) (v : Word) : (x.setS r v).sbWait = x.sbWait := by unfold Slot.setS; split <;> rfl
@[simp] theorem Slot.setS_tests (x : Slot) (r : Sreg) (v : Word) : (x.setS r v).tests = x.tests := by unfold Slot.setS; split <;> rfl
@[simp] theorem Slot.setS_flags (x : Slot) (r : Sreg) (v : Word) : (x.setS r v).flags = x.flags := by unfold Slot.setS; split <;> rfl
@[simp] theorem Slot.setS_engFlags (x : Slot) (r : Sreg) (v : Word) : (x.setS r v).engFlags = x.engFlags := by unfold Slot.setS; split <;> rfl
@[simp] theorem Slot.setS_rmode (x : Slot) (r : Sreg) (v : Word) : (x.setS r v).rmode = x.rmode := by unfold Slot.setS; split <;> rfl
@[simp] theorem Slot.setS_srseed (x : Slot) (r : Sreg) (v : Word) : (x.setS r v).srseed = x.srseed := by unfold Slot.setS; split <;> rfl
@[simp] theorem Slot.setS_msgId (x : Slot) (r : Sreg) (v : Word) : (x.setS r v).msgId = x.msgId := by unfold Slot.setS; split <;> rfl
@[simp] theorem Slot.setS_msgSrc (x : Slot) (r : Sreg) (v : Word) : (x.setS r v).msgSrc = x.msgSrc := by unfold Slot.setS; split <;> rfl
@[simp] theorem Slot.setS_msgKind (x : Slot) (r : Sreg) (v : Word) : (x.setS r v).msgKind = x.msgKind := by unfold Slot.setS; split <;> rfl
@[simp] theorem Slot.setS_msgLen (x : Slot) (r : Sreg) (v : Word) : (x.setS r v).msgLen = x.msgLen := by unfold Slot.setS; split <;> rfl
@[simp] theorem Slot.setS_msgBase (x : Slot) (r : Sreg) (v : Word) : (x.setS r v).msgBase = x.msgBase := by unfold Slot.setS; split <;> rfl
@[simp] theorem Slot.setS_txnNum (x : Slot) (r : Sreg) (v : Word) : (x.setS r v).txnNum = x.txnNum := by unfold Slot.setS; split <;> rfl
@[simp] theorem Slot.setS_tileMap (x : Slot) (r : Sreg) (v : Word) : (x.setS r v).tileMap = x.tileMap := by unfold Slot.setS; split <;> rfl
@[simp] theorem Slot.setS_detRound (x : Slot) (r : Sreg) (v : Word) : (x.setS r v).detRound = x.detRound := by unfold Slot.setS; split <;> rfl
@[simp] theorem Slot.setS_detSpill (x : Slot) (r : Sreg) (v : Word) : (x.setS r v).detSpill = x.detSpill := by unfold Slot.setS; split <;> rfl
@[simp] theorem Slot.setS_cbRow (x : Slot) (r : Sreg) (v : Word) : (x.setS r v).cbRow = x.cbRow := by unfold Slot.setS; split <;> rfl
@[simp] theorem Slot.setS_asid (x : Slot) (r : Sreg) (v : Word) : (x.setS r v).asid = x.asid := by unfold Slot.setS; split <;> rfl
@[simp] theorem Slot.setS_launchInfo (x : Slot) (r : Sreg) (v : Word) : (x.setS r v).launchInfo = x.launchInfo := by unfold Slot.setS; split <;> rfl
@[simp] theorem Slot.setS_cmapSel (x : Slot) (r : Sreg) (v : Word) : (x.setS r v).cmapSel = x.cmapSel := by unfold Slot.setS; split <;> rfl
@[simp] theorem Slot.setS_frec (x : Slot) (r : Sreg) (v : Word) : (x.setS r v).frec = x.frec := by unfold Slot.setS; split <;> rfl
@[simp] theorem Slot.setS_badRegs (x : Slot) (r : Sreg) (v : Word) : (x.setS r v).badRegs = x.badRegs := by unfold Slot.setS; split <;> rfl
@[simp] theorem Slot.setV_mode (x : Slot) (r : Vreg) (v : Vec) : (x.setV r v).mode = x.mode := rfl
@[simp] theorem Slot.setV_act (x : Slot) (r : Vreg) (v : Vec) : (x.setV r v).act = x.act := rfl
@[simp] theorem Slot.setV_wait (x : Slot) (r : Vreg) (v : Vec) : (x.setV r v).wait = x.wait := rfl
@[simp] theorem Slot.setV_pc (x : Slot) (r : Vreg) (v : Vec) : (x.setV r v).pc = x.pc := rfl
@[simp] theorem Slot.setV_level (x : Slot) (r : Vreg) (v : Vec) : (x.setV r v).level = x.level := rfl
@[simp] theorem Slot.setV_ceil (x : Slot) (r : Vreg) (v : Vec) : (x.setV r v).ceil = x.ceil := rfl
@[simp] theorem Slot.setV_inherited (x : Slot) (r : Vreg) (v : Vec) : (x.setV r v).inherited = x.inherited := rfl
@[simp] theorem Slot.setV_pickLevel (x : Slot) (r : Vreg) (v : Vec) : (x.setV r v).pickLevel = x.pickLevel := rfl
@[simp] theorem Slot.setV_budget (x : Slot) (r : Vreg) (v : Vec) : (x.setV r v).budget = x.budget := rfl
@[simp] theorem Slot.setV_age (x : Slot) (r : Vreg) (v : Vec) : (x.setV r v).age = x.age := rfl
@[simp] theorem Slot.setV_reserved (x : Slot) (r : Vreg) (v : Vec) : (x.setV r v).reserved = x.reserved := rfl
@[simp] theorem Slot.setV_gangInfo (x : Slot) (r : Vreg) (v : Vec) : (x.setV r v).gangInfo = x.gangInfo := rfl
@[simp] theorem Slot.setV_sregs (x : Slot) (r : Vreg) (v : Vec) : (x.setV r v).sregs = x.sregs := rfl
@[simp] theorem Slot.setV_pregs (x : Slot) (r : Vreg) (v : Vec) : (x.setV r v).pregs = x.pregs := rfl
@[simp] theorem Slot.setV_mregs (x : Slot) (r : Vreg) (v : Vec) : (x.setV r v).mregs = x.mregs := rfl
@[simp] theorem Slot.setV_ptrs (x : Slot) (r : Vreg) (v : Vec) : (x.setV r v).ptrs = x.ptrs := rfl
@[simp] theorem Slot.setV_chanTag (x : Slot) (r : Vreg) (v : Vec) : (x.setV r v).chanTag = x.chanTag := rfl
@[simp] theorem Slot.setV_chanSeen (x : Slot) (r : Vreg) (v : Vec) : (x.setV r v).chanSeen = x.chanSeen := rfl
@[simp] theorem Slot.setV_chans (x : Slot) (r : Vreg) (v : Vec) : (x.setV r v).chans = x.chans := rfl
@[simp] theorem Slot.setV_portTag (x : Slot) (r : Vreg) (v : Vec) : (x.setV r v).portTag = x.portTag := rfl
@[simp] theorem Slot.setV_portSeen (x : Slot) (r : Vreg) (v : Vec) : (x.setV r v).portSeen = x.portSeen := rfl
@[simp] theorem Slot.setV_credits (x : Slot) (r : Vreg) (v : Vec) : (x.setV r v).credits = x.credits := rfl
@[simp] theorem Slot.setV_sb (x : Slot) (r : Vreg) (v : Vec) : (x.setV r v).sb = x.sb := rfl
@[simp] theorem Slot.setV_sbNext (x : Slot) (r : Vreg) (v : Vec) : (x.setV r v).sbNext = x.sbNext := rfl
@[simp] theorem Slot.setV_sbWait (x : Slot) (r : Vreg) (v : Vec) : (x.setV r v).sbWait = x.sbWait := rfl
@[simp] theorem Slot.setV_tests (x : Slot) (r : Vreg) (v : Vec) : (x.setV r v).tests = x.tests := rfl
@[simp] theorem Slot.setV_flags (x : Slot) (r : Vreg) (v : Vec) : (x.setV r v).flags = x.flags := rfl
@[simp] theorem Slot.setV_engFlags (x : Slot) (r : Vreg) (v : Vec) : (x.setV r v).engFlags = x.engFlags := rfl
@[simp] theorem Slot.setV_rmode (x : Slot) (r : Vreg) (v : Vec) : (x.setV r v).rmode = x.rmode := rfl
@[simp] theorem Slot.setV_srseed (x : Slot) (r : Vreg) (v : Vec) : (x.setV r v).srseed = x.srseed := rfl
@[simp] theorem Slot.setV_msgId (x : Slot) (r : Vreg) (v : Vec) : (x.setV r v).msgId = x.msgId := rfl
@[simp] theorem Slot.setV_msgSrc (x : Slot) (r : Vreg) (v : Vec) : (x.setV r v).msgSrc = x.msgSrc := rfl
@[simp] theorem Slot.setV_msgKind (x : Slot) (r : Vreg) (v : Vec) : (x.setV r v).msgKind = x.msgKind := rfl
@[simp] theorem Slot.setV_msgLen (x : Slot) (r : Vreg) (v : Vec) : (x.setV r v).msgLen = x.msgLen := rfl
@[simp] theorem Slot.setV_msgBase (x : Slot) (r : Vreg) (v : Vec) : (x.setV r v).msgBase = x.msgBase := rfl
@[simp] theorem Slot.setV_txnNum (x : Slot) (r : Vreg) (v : Vec) : (x.setV r v).txnNum = x.txnNum := rfl
@[simp] theorem Slot.setV_tileMap (x : Slot) (r : Vreg) (v : Vec) : (x.setV r v).tileMap = x.tileMap := rfl
@[simp] theorem Slot.setV_detRound (x : Slot) (r : Vreg) (v : Vec) : (x.setV r v).detRound = x.detRound := rfl
@[simp] theorem Slot.setV_detSpill (x : Slot) (r : Vreg) (v : Vec) : (x.setV r v).detSpill = x.detSpill := rfl
@[simp] theorem Slot.setV_cbRow (x : Slot) (r : Vreg) (v : Vec) : (x.setV r v).cbRow = x.cbRow := rfl
@[simp] theorem Slot.setV_asid (x : Slot) (r : Vreg) (v : Vec) : (x.setV r v).asid = x.asid := rfl
@[simp] theorem Slot.setV_launchInfo (x : Slot) (r : Vreg) (v : Vec) : (x.setV r v).launchInfo = x.launchInfo := rfl
@[simp] theorem Slot.setV_cmapSel (x : Slot) (r : Vreg) (v : Vec) : (x.setV r v).cmapSel = x.cmapSel := rfl
@[simp] theorem Slot.setV_frec (x : Slot) (r : Vreg) (v : Vec) : (x.setV r v).frec = x.frec := rfl
@[simp] theorem Slot.setV_badRegs (x : Slot) (r : Vreg) (v : Vec) : (x.setV r v).badRegs = x.badRegs := rfl
@[simp] theorem Slot.setP_mode (x : Slot) (r : Fin 8) (v : Bool) : (x.setP r v).mode = x.mode := by unfold Slot.setP; split <;> rfl
@[simp] theorem Slot.setP_act (x : Slot) (r : Fin 8) (v : Bool) : (x.setP r v).act = x.act := by unfold Slot.setP; split <;> rfl
@[simp] theorem Slot.setP_wait (x : Slot) (r : Fin 8) (v : Bool) : (x.setP r v).wait = x.wait := by unfold Slot.setP; split <;> rfl
@[simp] theorem Slot.setP_pc (x : Slot) (r : Fin 8) (v : Bool) : (x.setP r v).pc = x.pc := by unfold Slot.setP; split <;> rfl
@[simp] theorem Slot.setP_level (x : Slot) (r : Fin 8) (v : Bool) : (x.setP r v).level = x.level := by unfold Slot.setP; split <;> rfl
@[simp] theorem Slot.setP_ceil (x : Slot) (r : Fin 8) (v : Bool) : (x.setP r v).ceil = x.ceil := by unfold Slot.setP; split <;> rfl
@[simp] theorem Slot.setP_inherited (x : Slot) (r : Fin 8) (v : Bool) : (x.setP r v).inherited = x.inherited := by unfold Slot.setP; split <;> rfl
@[simp] theorem Slot.setP_pickLevel (x : Slot) (r : Fin 8) (v : Bool) : (x.setP r v).pickLevel = x.pickLevel := by unfold Slot.setP; split <;> rfl
@[simp] theorem Slot.setP_budget (x : Slot) (r : Fin 8) (v : Bool) : (x.setP r v).budget = x.budget := by unfold Slot.setP; split <;> rfl
@[simp] theorem Slot.setP_age (x : Slot) (r : Fin 8) (v : Bool) : (x.setP r v).age = x.age := by unfold Slot.setP; split <;> rfl
@[simp] theorem Slot.setP_reserved (x : Slot) (r : Fin 8) (v : Bool) : (x.setP r v).reserved = x.reserved := by unfold Slot.setP; split <;> rfl
@[simp] theorem Slot.setP_gangInfo (x : Slot) (r : Fin 8) (v : Bool) : (x.setP r v).gangInfo = x.gangInfo := by unfold Slot.setP; split <;> rfl
@[simp] theorem Slot.setP_sregs (x : Slot) (r : Fin 8) (v : Bool) : (x.setP r v).sregs = x.sregs := by unfold Slot.setP; split <;> rfl
@[simp] theorem Slot.setP_vregs (x : Slot) (r : Fin 8) (v : Bool) : (x.setP r v).vregs = x.vregs := by unfold Slot.setP; split <;> rfl
@[simp] theorem Slot.setP_mregs (x : Slot) (r : Fin 8) (v : Bool) : (x.setP r v).mregs = x.mregs := by unfold Slot.setP; split <;> rfl
@[simp] theorem Slot.setP_ptrs (x : Slot) (r : Fin 8) (v : Bool) : (x.setP r v).ptrs = x.ptrs := by unfold Slot.setP; split <;> rfl
@[simp] theorem Slot.setP_chanTag (x : Slot) (r : Fin 8) (v : Bool) : (x.setP r v).chanTag = x.chanTag := by unfold Slot.setP; split <;> rfl
@[simp] theorem Slot.setP_chanSeen (x : Slot) (r : Fin 8) (v : Bool) : (x.setP r v).chanSeen = x.chanSeen := by unfold Slot.setP; split <;> rfl
@[simp] theorem Slot.setP_chans (x : Slot) (r : Fin 8) (v : Bool) : (x.setP r v).chans = x.chans := by unfold Slot.setP; split <;> rfl
@[simp] theorem Slot.setP_portTag (x : Slot) (r : Fin 8) (v : Bool) : (x.setP r v).portTag = x.portTag := by unfold Slot.setP; split <;> rfl
@[simp] theorem Slot.setP_portSeen (x : Slot) (r : Fin 8) (v : Bool) : (x.setP r v).portSeen = x.portSeen := by unfold Slot.setP; split <;> rfl
@[simp] theorem Slot.setP_credits (x : Slot) (r : Fin 8) (v : Bool) : (x.setP r v).credits = x.credits := by unfold Slot.setP; split <;> rfl
@[simp] theorem Slot.setP_sb (x : Slot) (r : Fin 8) (v : Bool) : (x.setP r v).sb = x.sb := by unfold Slot.setP; split <;> rfl
@[simp] theorem Slot.setP_sbNext (x : Slot) (r : Fin 8) (v : Bool) : (x.setP r v).sbNext = x.sbNext := by unfold Slot.setP; split <;> rfl
@[simp] theorem Slot.setP_sbWait (x : Slot) (r : Fin 8) (v : Bool) : (x.setP r v).sbWait = x.sbWait := by unfold Slot.setP; split <;> rfl
@[simp] theorem Slot.setP_tests (x : Slot) (r : Fin 8) (v : Bool) : (x.setP r v).tests = x.tests := by unfold Slot.setP; split <;> rfl
@[simp] theorem Slot.setP_flags (x : Slot) (r : Fin 8) (v : Bool) : (x.setP r v).flags = x.flags := by unfold Slot.setP; split <;> rfl
@[simp] theorem Slot.setP_engFlags (x : Slot) (r : Fin 8) (v : Bool) : (x.setP r v).engFlags = x.engFlags := by unfold Slot.setP; split <;> rfl
@[simp] theorem Slot.setP_rmode (x : Slot) (r : Fin 8) (v : Bool) : (x.setP r v).rmode = x.rmode := by unfold Slot.setP; split <;> rfl
@[simp] theorem Slot.setP_srseed (x : Slot) (r : Fin 8) (v : Bool) : (x.setP r v).srseed = x.srseed := by unfold Slot.setP; split <;> rfl
@[simp] theorem Slot.setP_msgId (x : Slot) (r : Fin 8) (v : Bool) : (x.setP r v).msgId = x.msgId := by unfold Slot.setP; split <;> rfl
@[simp] theorem Slot.setP_msgSrc (x : Slot) (r : Fin 8) (v : Bool) : (x.setP r v).msgSrc = x.msgSrc := by unfold Slot.setP; split <;> rfl
@[simp] theorem Slot.setP_msgKind (x : Slot) (r : Fin 8) (v : Bool) : (x.setP r v).msgKind = x.msgKind := by unfold Slot.setP; split <;> rfl
@[simp] theorem Slot.setP_msgLen (x : Slot) (r : Fin 8) (v : Bool) : (x.setP r v).msgLen = x.msgLen := by unfold Slot.setP; split <;> rfl
@[simp] theorem Slot.setP_msgBase (x : Slot) (r : Fin 8) (v : Bool) : (x.setP r v).msgBase = x.msgBase := by unfold Slot.setP; split <;> rfl
@[simp] theorem Slot.setP_txnNum (x : Slot) (r : Fin 8) (v : Bool) : (x.setP r v).txnNum = x.txnNum := by unfold Slot.setP; split <;> rfl
@[simp] theorem Slot.setP_tileMap (x : Slot) (r : Fin 8) (v : Bool) : (x.setP r v).tileMap = x.tileMap := by unfold Slot.setP; split <;> rfl
@[simp] theorem Slot.setP_detRound (x : Slot) (r : Fin 8) (v : Bool) : (x.setP r v).detRound = x.detRound := by unfold Slot.setP; split <;> rfl
@[simp] theorem Slot.setP_detSpill (x : Slot) (r : Fin 8) (v : Bool) : (x.setP r v).detSpill = x.detSpill := by unfold Slot.setP; split <;> rfl
@[simp] theorem Slot.setP_cbRow (x : Slot) (r : Fin 8) (v : Bool) : (x.setP r v).cbRow = x.cbRow := by unfold Slot.setP; split <;> rfl
@[simp] theorem Slot.setP_asid (x : Slot) (r : Fin 8) (v : Bool) : (x.setP r v).asid = x.asid := by unfold Slot.setP; split <;> rfl
@[simp] theorem Slot.setP_launchInfo (x : Slot) (r : Fin 8) (v : Bool) : (x.setP r v).launchInfo = x.launchInfo := by unfold Slot.setP; split <;> rfl
@[simp] theorem Slot.setP_cmapSel (x : Slot) (r : Fin 8) (v : Bool) : (x.setP r v).cmapSel = x.cmapSel := by unfold Slot.setP; split <;> rfl
@[simp] theorem Slot.setP_frec (x : Slot) (r : Fin 8) (v : Bool) : (x.setP r v).frec = x.frec := by unfold Slot.setP; split <;> rfl
@[simp] theorem Slot.setP_badRegs (x : Slot) (r : Fin 8) (v : Bool) : (x.setP r v).badRegs = x.badRegs := by unfold Slot.setP; split <;> rfl
@[simp] theorem Slot.setM_mode (x : Slot) (r : Fin 8) (v : Word) : (x.setM r v).mode = x.mode := by unfold Slot.setM; split <;> rfl
@[simp] theorem Slot.setM_act (x : Slot) (r : Fin 8) (v : Word) : (x.setM r v).act = x.act := by unfold Slot.setM; split <;> rfl
@[simp] theorem Slot.setM_wait (x : Slot) (r : Fin 8) (v : Word) : (x.setM r v).wait = x.wait := by unfold Slot.setM; split <;> rfl
@[simp] theorem Slot.setM_pc (x : Slot) (r : Fin 8) (v : Word) : (x.setM r v).pc = x.pc := by unfold Slot.setM; split <;> rfl
@[simp] theorem Slot.setM_level (x : Slot) (r : Fin 8) (v : Word) : (x.setM r v).level = x.level := by unfold Slot.setM; split <;> rfl
@[simp] theorem Slot.setM_ceil (x : Slot) (r : Fin 8) (v : Word) : (x.setM r v).ceil = x.ceil := by unfold Slot.setM; split <;> rfl
@[simp] theorem Slot.setM_inherited (x : Slot) (r : Fin 8) (v : Word) : (x.setM r v).inherited = x.inherited := by unfold Slot.setM; split <;> rfl
@[simp] theorem Slot.setM_pickLevel (x : Slot) (r : Fin 8) (v : Word) : (x.setM r v).pickLevel = x.pickLevel := by unfold Slot.setM; split <;> rfl
@[simp] theorem Slot.setM_budget (x : Slot) (r : Fin 8) (v : Word) : (x.setM r v).budget = x.budget := by unfold Slot.setM; split <;> rfl
@[simp] theorem Slot.setM_age (x : Slot) (r : Fin 8) (v : Word) : (x.setM r v).age = x.age := by unfold Slot.setM; split <;> rfl
@[simp] theorem Slot.setM_reserved (x : Slot) (r : Fin 8) (v : Word) : (x.setM r v).reserved = x.reserved := by unfold Slot.setM; split <;> rfl
@[simp] theorem Slot.setM_gangInfo (x : Slot) (r : Fin 8) (v : Word) : (x.setM r v).gangInfo = x.gangInfo := by unfold Slot.setM; split <;> rfl
@[simp] theorem Slot.setM_sregs (x : Slot) (r : Fin 8) (v : Word) : (x.setM r v).sregs = x.sregs := by unfold Slot.setM; split <;> rfl
@[simp] theorem Slot.setM_vregs (x : Slot) (r : Fin 8) (v : Word) : (x.setM r v).vregs = x.vregs := by unfold Slot.setM; split <;> rfl
@[simp] theorem Slot.setM_pregs (x : Slot) (r : Fin 8) (v : Word) : (x.setM r v).pregs = x.pregs := by unfold Slot.setM; split <;> rfl
@[simp] theorem Slot.setM_ptrs (x : Slot) (r : Fin 8) (v : Word) : (x.setM r v).ptrs = x.ptrs := by unfold Slot.setM; split <;> rfl
@[simp] theorem Slot.setM_chanTag (x : Slot) (r : Fin 8) (v : Word) : (x.setM r v).chanTag = x.chanTag := by unfold Slot.setM; split <;> rfl
@[simp] theorem Slot.setM_chanSeen (x : Slot) (r : Fin 8) (v : Word) : (x.setM r v).chanSeen = x.chanSeen := by unfold Slot.setM; split <;> rfl
@[simp] theorem Slot.setM_chans (x : Slot) (r : Fin 8) (v : Word) : (x.setM r v).chans = x.chans := by unfold Slot.setM; split <;> rfl
@[simp] theorem Slot.setM_portTag (x : Slot) (r : Fin 8) (v : Word) : (x.setM r v).portTag = x.portTag := by unfold Slot.setM; split <;> rfl
@[simp] theorem Slot.setM_portSeen (x : Slot) (r : Fin 8) (v : Word) : (x.setM r v).portSeen = x.portSeen := by unfold Slot.setM; split <;> rfl
@[simp] theorem Slot.setM_credits (x : Slot) (r : Fin 8) (v : Word) : (x.setM r v).credits = x.credits := by unfold Slot.setM; split <;> rfl
@[simp] theorem Slot.setM_sb (x : Slot) (r : Fin 8) (v : Word) : (x.setM r v).sb = x.sb := by unfold Slot.setM; split <;> rfl
@[simp] theorem Slot.setM_sbNext (x : Slot) (r : Fin 8) (v : Word) : (x.setM r v).sbNext = x.sbNext := by unfold Slot.setM; split <;> rfl
@[simp] theorem Slot.setM_sbWait (x : Slot) (r : Fin 8) (v : Word) : (x.setM r v).sbWait = x.sbWait := by unfold Slot.setM; split <;> rfl
@[simp] theorem Slot.setM_tests (x : Slot) (r : Fin 8) (v : Word) : (x.setM r v).tests = x.tests := by unfold Slot.setM; split <;> rfl
@[simp] theorem Slot.setM_flags (x : Slot) (r : Fin 8) (v : Word) : (x.setM r v).flags = x.flags := by unfold Slot.setM; split <;> rfl
@[simp] theorem Slot.setM_engFlags (x : Slot) (r : Fin 8) (v : Word) : (x.setM r v).engFlags = x.engFlags := by unfold Slot.setM; split <;> rfl
@[simp] theorem Slot.setM_rmode (x : Slot) (r : Fin 8) (v : Word) : (x.setM r v).rmode = x.rmode := by unfold Slot.setM; split <;> rfl
@[simp] theorem Slot.setM_srseed (x : Slot) (r : Fin 8) (v : Word) : (x.setM r v).srseed = x.srseed := by unfold Slot.setM; split <;> rfl
@[simp] theorem Slot.setM_msgId (x : Slot) (r : Fin 8) (v : Word) : (x.setM r v).msgId = x.msgId := by unfold Slot.setM; split <;> rfl
@[simp] theorem Slot.setM_msgSrc (x : Slot) (r : Fin 8) (v : Word) : (x.setM r v).msgSrc = x.msgSrc := by unfold Slot.setM; split <;> rfl
@[simp] theorem Slot.setM_msgKind (x : Slot) (r : Fin 8) (v : Word) : (x.setM r v).msgKind = x.msgKind := by unfold Slot.setM; split <;> rfl
@[simp] theorem Slot.setM_msgLen (x : Slot) (r : Fin 8) (v : Word) : (x.setM r v).msgLen = x.msgLen := by unfold Slot.setM; split <;> rfl
@[simp] theorem Slot.setM_msgBase (x : Slot) (r : Fin 8) (v : Word) : (x.setM r v).msgBase = x.msgBase := by unfold Slot.setM; split <;> rfl
@[simp] theorem Slot.setM_txnNum (x : Slot) (r : Fin 8) (v : Word) : (x.setM r v).txnNum = x.txnNum := by unfold Slot.setM; split <;> rfl
@[simp] theorem Slot.setM_tileMap (x : Slot) (r : Fin 8) (v : Word) : (x.setM r v).tileMap = x.tileMap := by unfold Slot.setM; split <;> rfl
@[simp] theorem Slot.setM_detRound (x : Slot) (r : Fin 8) (v : Word) : (x.setM r v).detRound = x.detRound := by unfold Slot.setM; split <;> rfl
@[simp] theorem Slot.setM_detSpill (x : Slot) (r : Fin 8) (v : Word) : (x.setM r v).detSpill = x.detSpill := by unfold Slot.setM; split <;> rfl
@[simp] theorem Slot.setM_cbRow (x : Slot) (r : Fin 8) (v : Word) : (x.setM r v).cbRow = x.cbRow := by unfold Slot.setM; split <;> rfl
@[simp] theorem Slot.setM_asid (x : Slot) (r : Fin 8) (v : Word) : (x.setM r v).asid = x.asid := by unfold Slot.setM; split <;> rfl
@[simp] theorem Slot.setM_launchInfo (x : Slot) (r : Fin 8) (v : Word) : (x.setM r v).launchInfo = x.launchInfo := by unfold Slot.setM; split <;> rfl
@[simp] theorem Slot.setM_cmapSel (x : Slot) (r : Fin 8) (v : Word) : (x.setM r v).cmapSel = x.cmapSel := by unfold Slot.setM; split <;> rfl
@[simp] theorem Slot.setM_frec (x : Slot) (r : Fin 8) (v : Word) : (x.setM r v).frec = x.frec := by unfold Slot.setM; split <;> rfl
@[simp] theorem Slot.setM_badRegs (x : Slot) (r : Fin 8) (v : Word) : (x.setM r v).badRegs = x.badRegs := by unfold Slot.setM; split <;> rfl
@[simp] theorem Slot.setPtr_mode (x : Slot) (r : Fin 8) (v : Ptr) : (x.setPtr r v).mode = x.mode := rfl
@[simp] theorem Slot.setPtr_act (x : Slot) (r : Fin 8) (v : Ptr) : (x.setPtr r v).act = x.act := rfl
@[simp] theorem Slot.setPtr_wait (x : Slot) (r : Fin 8) (v : Ptr) : (x.setPtr r v).wait = x.wait := rfl
@[simp] theorem Slot.setPtr_pc (x : Slot) (r : Fin 8) (v : Ptr) : (x.setPtr r v).pc = x.pc := rfl
@[simp] theorem Slot.setPtr_level (x : Slot) (r : Fin 8) (v : Ptr) : (x.setPtr r v).level = x.level := rfl
@[simp] theorem Slot.setPtr_ceil (x : Slot) (r : Fin 8) (v : Ptr) : (x.setPtr r v).ceil = x.ceil := rfl
@[simp] theorem Slot.setPtr_inherited (x : Slot) (r : Fin 8) (v : Ptr) : (x.setPtr r v).inherited = x.inherited := rfl
@[simp] theorem Slot.setPtr_pickLevel (x : Slot) (r : Fin 8) (v : Ptr) : (x.setPtr r v).pickLevel = x.pickLevel := rfl
@[simp] theorem Slot.setPtr_budget (x : Slot) (r : Fin 8) (v : Ptr) : (x.setPtr r v).budget = x.budget := rfl
@[simp] theorem Slot.setPtr_age (x : Slot) (r : Fin 8) (v : Ptr) : (x.setPtr r v).age = x.age := rfl
@[simp] theorem Slot.setPtr_reserved (x : Slot) (r : Fin 8) (v : Ptr) : (x.setPtr r v).reserved = x.reserved := rfl
@[simp] theorem Slot.setPtr_gangInfo (x : Slot) (r : Fin 8) (v : Ptr) : (x.setPtr r v).gangInfo = x.gangInfo := rfl
@[simp] theorem Slot.setPtr_sregs (x : Slot) (r : Fin 8) (v : Ptr) : (x.setPtr r v).sregs = x.sregs := rfl
@[simp] theorem Slot.setPtr_vregs (x : Slot) (r : Fin 8) (v : Ptr) : (x.setPtr r v).vregs = x.vregs := rfl
@[simp] theorem Slot.setPtr_pregs (x : Slot) (r : Fin 8) (v : Ptr) : (x.setPtr r v).pregs = x.pregs := rfl
@[simp] theorem Slot.setPtr_mregs (x : Slot) (r : Fin 8) (v : Ptr) : (x.setPtr r v).mregs = x.mregs := rfl
@[simp] theorem Slot.setPtr_chanTag (x : Slot) (r : Fin 8) (v : Ptr) : (x.setPtr r v).chanTag = x.chanTag := rfl
@[simp] theorem Slot.setPtr_chanSeen (x : Slot) (r : Fin 8) (v : Ptr) : (x.setPtr r v).chanSeen = x.chanSeen := rfl
@[simp] theorem Slot.setPtr_chans (x : Slot) (r : Fin 8) (v : Ptr) : (x.setPtr r v).chans = x.chans := rfl
@[simp] theorem Slot.setPtr_portTag (x : Slot) (r : Fin 8) (v : Ptr) : (x.setPtr r v).portTag = x.portTag := rfl
@[simp] theorem Slot.setPtr_portSeen (x : Slot) (r : Fin 8) (v : Ptr) : (x.setPtr r v).portSeen = x.portSeen := rfl
@[simp] theorem Slot.setPtr_credits (x : Slot) (r : Fin 8) (v : Ptr) : (x.setPtr r v).credits = x.credits := rfl
@[simp] theorem Slot.setPtr_sb (x : Slot) (r : Fin 8) (v : Ptr) : (x.setPtr r v).sb = x.sb := rfl
@[simp] theorem Slot.setPtr_sbNext (x : Slot) (r : Fin 8) (v : Ptr) : (x.setPtr r v).sbNext = x.sbNext := rfl
@[simp] theorem Slot.setPtr_sbWait (x : Slot) (r : Fin 8) (v : Ptr) : (x.setPtr r v).sbWait = x.sbWait := rfl
@[simp] theorem Slot.setPtr_tests (x : Slot) (r : Fin 8) (v : Ptr) : (x.setPtr r v).tests = x.tests := rfl
@[simp] theorem Slot.setPtr_flags (x : Slot) (r : Fin 8) (v : Ptr) : (x.setPtr r v).flags = x.flags := rfl
@[simp] theorem Slot.setPtr_engFlags (x : Slot) (r : Fin 8) (v : Ptr) : (x.setPtr r v).engFlags = x.engFlags := rfl
@[simp] theorem Slot.setPtr_rmode (x : Slot) (r : Fin 8) (v : Ptr) : (x.setPtr r v).rmode = x.rmode := rfl
@[simp] theorem Slot.setPtr_srseed (x : Slot) (r : Fin 8) (v : Ptr) : (x.setPtr r v).srseed = x.srseed := rfl
@[simp] theorem Slot.setPtr_msgId (x : Slot) (r : Fin 8) (v : Ptr) : (x.setPtr r v).msgId = x.msgId := rfl
@[simp] theorem Slot.setPtr_msgSrc (x : Slot) (r : Fin 8) (v : Ptr) : (x.setPtr r v).msgSrc = x.msgSrc := rfl
@[simp] theorem Slot.setPtr_msgKind (x : Slot) (r : Fin 8) (v : Ptr) : (x.setPtr r v).msgKind = x.msgKind := rfl
@[simp] theorem Slot.setPtr_msgLen (x : Slot) (r : Fin 8) (v : Ptr) : (x.setPtr r v).msgLen = x.msgLen := rfl
@[simp] theorem Slot.setPtr_msgBase (x : Slot) (r : Fin 8) (v : Ptr) : (x.setPtr r v).msgBase = x.msgBase := rfl
@[simp] theorem Slot.setPtr_txnNum (x : Slot) (r : Fin 8) (v : Ptr) : (x.setPtr r v).txnNum = x.txnNum := rfl
@[simp] theorem Slot.setPtr_tileMap (x : Slot) (r : Fin 8) (v : Ptr) : (x.setPtr r v).tileMap = x.tileMap := rfl
@[simp] theorem Slot.setPtr_detRound (x : Slot) (r : Fin 8) (v : Ptr) : (x.setPtr r v).detRound = x.detRound := rfl
@[simp] theorem Slot.setPtr_detSpill (x : Slot) (r : Fin 8) (v : Ptr) : (x.setPtr r v).detSpill = x.detSpill := rfl
@[simp] theorem Slot.setPtr_cbRow (x : Slot) (r : Fin 8) (v : Ptr) : (x.setPtr r v).cbRow = x.cbRow := rfl
@[simp] theorem Slot.setPtr_asid (x : Slot) (r : Fin 8) (v : Ptr) : (x.setPtr r v).asid = x.asid := rfl
@[simp] theorem Slot.setPtr_launchInfo (x : Slot) (r : Fin 8) (v : Ptr) : (x.setPtr r v).launchInfo = x.launchInfo := rfl
@[simp] theorem Slot.setPtr_cmapSel (x : Slot) (r : Fin 8) (v : Ptr) : (x.setPtr r v).cmapSel = x.cmapSel := rfl
@[simp] theorem Slot.setPtr_frec (x : Slot) (r : Fin 8) (v : Ptr) : (x.setPtr r v).frec = x.frec := rfl
@[simp] theorem Slot.setPtr_badRegs (x : Slot) (r : Fin 8) (v : Ptr) : (x.setPtr r v).badRegs = x.badRegs := rfl

/-! Cores and slots read after an update. -/

theorem State.coreOf_modCore (s : State) (c c' : Nat) (f : Core → Core) :
    (s.modCore c f).coreOf c' = if c' = c then f (s.coreOf c) else s.coreOf c' := by
  simp [State.coreOf, State.modCore]

@[simp] theorem State.coreOf_modCore_self (s : State) (c : Nat) (f : Core → Core) : (s.modCore c f).coreOf c = f (s.coreOf c) := by
  simp [State.coreOf_modCore]

theorem State.coreOf_modCore_ne (s : State) {c c' : Nat} (f : Core → Core) (h : c' ≠ c) : (s.modCore c f).coreOf c' = s.coreOf c' := by
  simp [State.coreOf_modCore, h]

theorem Core.slotOf_modSlot (k : Core) (i j : Nat) (f : Slot → Slot) :
    (k.modSlot i f).slotOf j = if j = i then f (k.slotOf i) else k.slotOf j := by
  simp [Core.slotOf, Core.modSlot]

@[simp] theorem Core.slotOf_modSlot_self (k : Core) (i : Nat) (f : Slot → Slot) : (k.modSlot i f).slotOf i = f (k.slotOf i) := by
  simp [Core.slotOf_modSlot]

theorem Core.slotOf_modSlot_ne (k : Core) {i j : Nat} (f : Slot → Slot) (h : j ≠ i) : (k.modSlot i f).slotOf j = k.slotOf j := by
  simp [Core.slotOf_modSlot, h]

@[simp] theorem State.coreOf_modSlot_self (s : State) (c i : Nat) (f : Slot → Slot) :
    (s.modSlot c i f).coreOf c = (s.coreOf c).modSlot i f := by simp [State.modSlot]

theorem State.coreOf_modSlot_ne (s : State) {c c' : Nat} (i : Nat) (f : Slot → Slot) (h : c' ≠ c) :
    (s.modSlot c i f).coreOf c' = s.coreOf c' := by simp [State.modSlot, State.coreOf_modCore, h]

@[simp] theorem State.slotOf_modSlot_self (s : State) (c i : Nat) (f : Slot → Slot) : (s.modSlot c i f).slotOf c i = f (s.slotOf c i) := by
  simp [State.slotOf]

/-! The issuing core and slot after an update. -/

@[simp] theorem State.me_modMe (s : State) (f : Slot → Slot) : (s.modMe f).me = f s.me := by simp [State.me, State.modMe]

@[simp] theorem State.myCore_modMe (s : State) (f : Slot → Slot) : (s.modMe f).myCore = s.myCore.modSlot s.cur.2 f := by
  simp [State.myCore, State.modMe]

@[simp] theorem State.myCore_modMyCore (s : State) (f : Core → Core) : (s.modMyCore f).myCore = f s.myCore := by
  simp [State.myCore, State.modMyCore]

theorem State.me_eq (s : State) : s.me = s.myCore.slotOf s.cur.2 := rfl

@[simp] theorem State.me_modMyCore (s : State) (f : Core → Core) : (s.modMyCore f).me = (f s.myCore).slotOf s.cur.2 := by
  rw [State.me_eq, State.myCore_modMyCore]; rfl

@[simp] theorem State.myAct_modMe (s : State) (f : Slot → Slot) : (s.modMe f).myAct = (f s.me).act := by simp [State.myAct]

theorem State.coreOf_modMe_ne (s : State) (f : Slot → Slot) {c : Nat} (h : c ≠ s.cur.1) : (s.modMe f).coreOf c = s.coreOf c :=
  State.coreOf_modSlot_ne s _ f h

theorem State.coreOf_modMyCore_ne (s : State) (f : Core → Core) {c : Nat} (h : c ≠ s.cur.1) : (s.modMyCore f).coreOf c = s.coreOf c :=
  State.coreOf_modCore_ne s f h

@[simp] theorem State.me_setPc (s : State) (pc : Word) : (s.setPc pc).me = { s.me with pc := pc } := State.me_modMe _ _

@[simp] theorem State.myCore_setPc (s : State) (pc : Word) :
    (s.setPc pc).myCore = s.myCore.modSlot s.cur.2 (fun x => { x with pc := pc }) := State.myCore_modMe _ _

@[simp] theorem State.myCore_retire (s : State) : s.retire.myCore = { s.myCore with retired := s.myCore.retired + 1 } :=
  State.myCore_modMyCore _ _

@[simp] theorem State.me_retire (s : State) : s.retire.me = s.me := by rw [State.me_eq, State.myCore_retire]; rfl

theorem State.coreOf_retire_ne (s : State) {c : Nat} (h : c ≠ s.cur.1) : s.retire.coreOf c = s.coreOf c :=
  State.coreOf_modMyCore_ne s _ h

/-- R30: what completing an instruction does to its slot. -/
@[simp] theorem State.me_complete (s : State) : s.complete.me = { s.me with pc := nextPc s.me.pc } := by simp [State.complete]

/-- R112: what completing an instruction does to its core. -/
@[simp] theorem State.myCore_complete (s : State) :
    s.complete.myCore = { s.myCore.modSlot s.cur.2 (fun x => { x with pc := nextPc s.me.pc }) with retired := s.myCore.retired + 1 } := by
  simp [State.complete]

theorem State.coreOf_complete_ne (s : State) {c : Nat} (h : c ≠ s.cur.1) : s.complete.coreOf c = s.coreOf c :=
  (State.coreOf_retire_ne (s.setPc (nextPc s.me.pc)) h).trans (State.coreOf_modMe_ne s _ h)

/-! Registers read after a write (R43, R90, R104). -/

/-- R43: s0 reads zero and discards writes. -/
theorem Slot.s_setS (x : Slot) (r q : Sreg) (v : Word) : (x.setS r v).s q = if q = r ∧ r ≠ 0 then v else x.s q := by
  unfold Slot.setS Slot.s
  by_cases hr : r = 0
  · simp [hr]
  · by_cases hq : q = 0
    · have h : ¬ (0 : Sreg) = r := fun h => hr h.symm
      simp [hq, hr, h]
    · by_cases h : q = r
      · simp [h, hr]
      · have : ¬ q.val = r.val := fun e => h (Fin.ext e)
        simp [hq, hr, h, this]

@[simp] theorem Slot.s_zero (x : Slot) : x.s 0 = 0 := by simp [Slot.s]

theorem Slot.s_setS_self (x : Slot) {r : Sreg} (v : Word) (h : r ≠ 0) : (x.setS r v).s r = v := by simp [Slot.s_setS, h]

theorem Slot.s_setS_ne (x : Slot) {r q : Sreg} (v : Word) (h : q ≠ r) : (x.setS r v).s q = x.s q := by simp [Slot.s_setS, h]

theorem Slot.v_setV (x : Slot) (r q : Vreg) (v : Vec) : (x.setV r v).v q = if q = r then v else x.v q := by
  unfold Slot.setV Slot.v
  by_cases h : q = r
  · simp [h]
  · have : ¬ q.val = r.val := fun e => h (Fin.ext e)
    simp [h, this]

/-- R43: p0 reads true and discards writes. -/
theorem Slot.p_setP (x : Slot) (r q : Fin 8) (v : Bool) : (x.setP r v).p q = if q = r ∧ r ≠ 0 then v else x.p q := by
  unfold Slot.setP Slot.p
  by_cases hr : r = 0
  · simp [hr]
  · by_cases hq : q = 0
    · have h : ¬ (0 : Fin 8) = r := fun h => hr h.symm
      simp [hq, hr, h]
    · by_cases h : q = r
      · simp [h, hr]
      · have : ¬ q.val = r.val := fun e => h (Fin.ext e)
        simp [hq, hr, h, this]

@[simp] theorem Slot.p_zero (x : Slot) : x.p 0 = true := by simp [Slot.p]

/-- R90: m0 reads as ones and discards writes. -/
theorem Slot.m_setM (x : Slot) (r q : Fin 8) (v : Word) : (x.setM r v).m q = if q = r ∧ r ≠ 0 then v else x.m q := by
  unfold Slot.setM Slot.m
  by_cases hr : r = 0
  · simp [hr]
  · by_cases hq : q = 0
    · have h : ¬ (0 : Fin 8) = r := fun h => hr h.symm
      simp [hq, hr, h]
    · by_cases h : q = r
      · simp [h, hr]
      · have : ¬ q.val = r.val := fun e => h (Fin.ext e)
        simp [hq, hr, h, this]

theorem Slot.ptr_setPtr (x : Slot) (r q : Fin 8) (v : Ptr) : (x.setPtr r v).ptr q = if q = r then v else x.ptr q := by
  unfold Slot.setPtr Slot.ptr
  by_cases h : q = r
  · simp [h]
  · have : ¬ q.val = r.val := fun e => h (Fin.ext e)
    simp [h, this]

/-! Memory read after a write, and its canonical form. -/

@[simp] theorem State.rd8_wr8 (s : State) (e : Option SeenSince) (pa q : Nat) (v : Byte) :
    (s.wr8 e pa v).rd8 q = if q = pa then v else s.rd8 q := by
  simp [State.rd8, State.wr8]

theorem State.wr8_wf (s : State) (e : Option SeenSince) (pa : Nat) (v : Byte) (h : Memory.wf s.hbm) : Memory.wf (s.wr8 e pa v).hbm :=
  smWf_set _ _ h

/-- Bytes written leave every other byte. -/
theorem State.rd8_wrHbm_ne (w : Option SeenSince) (bs : List (Nat × Byte)) (q : Nat) :
    ∀ s : State, (∀ e ∈ bs, e.1 ≠ q) → (s.wrHbm w bs).rd8 q = s.rd8 q := by
  induction bs with
  | nil => intro s _; rfl
  | cons e t ih =>
    intro s h
    have h1 : q ≠ e.1 := fun he => h e (by simp) he.symm
    have := ih (s.wr8 w e.1 e.2) (fun x hx => h x (by simp [hx]))
    simp only [State.wrHbm, List.foldl_cons] at this ⊢
    rw [this]; simp [h1]

/-- Bytes written keep the canonical form. -/
theorem State.wrHbm_wf (w : Option SeenSince) (bs : List (Nat × Byte)) :
    ∀ s : State, Memory.wf s.hbm → Memory.wf (s.wrHbm w bs).hbm := by
  induction bs with
  | nil => intro s h; exact h
  | cons e t ih => intro s h; exact ih _ (State.wr8_wf s w e.1 e.2 h)

/-- Bytes written change nothing but HBM and what it held before. -/
theorem State.wrHbm_eq (w : Option SeenSince) (bs : List (Nat × Byte)) :
    ∀ s : State, s.wrHbm w bs = { s with hbm := (s.wrHbm w bs).hbm, stored := (s.wrHbm w bs).stored } := by
  induction bs with
  | nil => intro s; rfl
  | cons e t ih =>
    intro s
    have := ih (s.wr8 w e.1 e.2)
    simp only [State.wrHbm, List.foldl_cons] at this ⊢
    rw [this]; rfl

/-- Local bytes written keep the canonical form. -/
theorem Core.wrLoc_wf (k : Core) (bs : List (Nat × Byte)) (h : Memory.wf k.localMem) : Memory.wf (k.wrLoc bs).localMem :=
  smWf_foldl bs _ (fun _ e hm => smWf_set e.1 e.2 hm) _ h

/-- Banks cleared by a change of roles keep the canonical form. -/
theorem Core.setRoles_wf (k : Core) (v : Word) (h : Memory.wf k.localMem) : Memory.wf (k.setRoles v).localMem := smWf_filter _ h

theorem reset_hbm_wf : Memory.wf State.reset.hbm := smWf_nil _

theorem reset_hostMem_wf : HostMemory.wf State.reset.hostMem := smWf_nil _

end Sys2Proof.Machine
end

