-- ==== Sys2Proof/Laws/Frame.lean ====
section
/-! SUPPORT. Laws of the shared operations that end an instruction: once each, everything they change and leave. -/
namespace Sys2Proof.Safety
open Sys2Proof.Machine

set_option Elab.async false

theorem SameMemory.of_core {s t : State} (h1 : t.hbm = s.hbm) (h2 : t.hostMem = s.hostMem)
    (h3 : ∀ c, (t.coreOf c).localMem = (s.coreOf c).localMem) : SameMemory s t :=
  ⟨fun pa => by simp [State.rd8, h1], fun off => by simp [hostCell, h2], fun c off => by simp [locByte, h3]⟩

theorem SameMemory.trans {s t u : State} (h : SameMemory s t) (k : SameMemory t u) : SameMemory s u :=
  ⟨fun pa => (k.1 pa).trans (h.1 pa), fun o => (k.2.1 o).trans (h.2.1 o), fun c o => (k.2.2 c o).trans (h.2.2 c o)⟩

theorem OnlyCore.cur_eq {s t : State} (h : OnlyCore s t) : t.cur = s.cur := by
  have e := congrArg State.cur h.1
  exact e

theorem OnlyCore.trans {s t u : State} (h : OnlyCore s t) (k : OnlyCore t u) : OnlyCore s u := by
  refine ⟨?_, fun c hc => ?_⟩
  · have e : { u with cores := s.cores } = ({ ({ u with cores := t.cores } : State) with cores := s.cores } : State) := rfl
    rw [e, k.1, h.1]
  · rw [k.2 c (by rw [h.cur_eq]; exact hc), h.2 c hc]

theorem OnlySlot.trans {s t u : State} (h : OnlySlot s t) (k : OnlySlot t u) : OnlySlot s u := by
  refine ⟨h.1.trans k.1, ?_, fun i hi => ?_, h.2.2.2.trans k.2.2.2⟩
  · have e : { u.myCore with slots := s.myCore.slots, retired := s.myCore.retired } =
      ({ ({ u.myCore with slots := t.myCore.slots, retired := t.myCore.retired } : Core) with
          slots := s.myCore.slots, retired := s.myCore.retired } : Core) := rfl
    rw [e, k.2.1, h.2.1]
  · rw [k.2.2.1 i (by rw [h.1.cur_eq]; exact hi), h.2.2.1 i hi]

/-- An update of the issuing slot changes nothing outside that slot. -/
theorem onlySlot_modMe (s : State) (f : Slot → Slot) : OnlySlot s (s.modMe f) := by
  refine ⟨⟨rfl, fun c h => State.coreOf_modMe_ne s f h⟩, ?_, fun i h => ?_, SameMemory.of_core rfl rfl fun c => ?_⟩
  · simp [Core.modSlot]
  · simp [Core.slotOf_modSlot_ne, h]
  · by_cases h : c = s.cur.1
    · subst h
      have e : (s.modMe f).coreOf s.cur.1 = (s.modMe f).myCore := rfl
      rw [e]; simp; rfl
    · rw [State.coreOf_modMe_ne s f h]

theorem onlySlot_retire (s : State) : OnlySlot s s.retire := by
  refine ⟨⟨rfl, fun c h => State.coreOf_retire_ne s h⟩, by simp, fun i _ => by simp [Core.slotOf], SameMemory.of_core rfl rfl fun c => ?_⟩
  by_cases h : c = s.cur.1
  · subst h
    have e : s.retire.coreOf s.cur.1 = s.retire.myCore := rfl
    rw [e]; simp; rfl
  · rw [State.coreOf_retire_ne s h]

theorem onlySlot_complete (s : State) : OnlySlot s s.complete := (onlySlot_modMe s _).trans (onlySlot_retire _)

/-- Completing an instruction after an update of its slot that leaves the PC and counts nothing. -/
theorem retired_update (s : State) (f : Slot → Slot) (h : (f s.me).pc = s.me.pc) : Retired s (s.modMe f).complete := by
  constructor
  · simp [h]
  · simp

theorem onlySlot_update (s : State) (f : Slot → Slot) : OnlySlot s (s.modMe f).complete :=
  (onlySlot_modMe s f).trans (onlySlot_complete _)

/-- R30: completing an instruction passes it. -/
theorem complete_passed (s : State) : Passed s s.complete :=
  ⟨onlySlot_complete s, ⟨by simp, by simp⟩, by simp⟩

/-- A scalar result changes the destination register and nothing else. -/
theorem putReg_wrote (s : State) (d : Sreg) (v : Word) : WroteS s (s.putReg d v) d v := by
  refine ⟨onlySlot_update s _, retired_update s _ (by simp), ?_, ?_, fun r hr => ?_⟩
  · simp only [State.putReg, State.me_complete, State.me_modMe]
    unfold Slot.setS; split <;> rfl
  · simp only [State.putReg, State.me_complete, State.me_modMe, Slot.s, Slot.setS]
    by_cases h : d = 0 <;> simp [h]
  · have : (s.putReg d v).me.s r = (s.me.setS d v).s r := by simp [State.putReg, Slot.s]
    rw [this, Slot.s_setS_ne _ _ hr]

/-- A predicate result changes the destination predicate and nothing else. -/
theorem putPred_wrote (s : State) (d : Fin 8) (v : Bool) : WroteP s (s.putPred d v) d v := by
  refine ⟨onlySlot_update s _, retired_update s _ (by simp), ?_, ?_, fun r hr => ?_⟩
  · simp only [State.putPred, State.me_complete, State.me_modMe]
    unfold Slot.setP; split <;> rfl
  · simp only [State.putPred, State.me_complete, State.me_modMe, Slot.p, Slot.setP]
    by_cases h : d = 0 <;> simp [h]
  · have : (s.putPred d v).me.p r = (s.me.setP d v).p r := by simp [State.putPred, Slot.p]
    rw [this, Slot.p_setP]; simp [hr]

/-- A mask result changes the destination mask and nothing else. -/
theorem putMask_wrote (s : State) (d : Fin 8) (v : Word) : WroteM s (s.putMask d v) d v := by
  refine ⟨onlySlot_update s _, retired_update s _ (by simp), ?_, ?_, fun r hr => ?_⟩
  · simp only [State.putMask, State.me_complete, State.me_modMe]
    unfold Slot.setM; split <;> rfl
  · simp only [State.putMask, State.me_complete, State.me_modMe, Slot.m, Slot.setM]
    by_cases h : d = 0 <;> simp [h]
  · have : (s.putMask d v).me.m r = (s.me.setM d v).m r := by simp [State.putMask, Slot.m]
    rw [this, Slot.m_setM]; simp [hr]

/-- A pointer result changes the destination pointer register and nothing else. -/
theorem putPtr_wrote (s : State) (d : Fin 8) (v : Ptr) : WrotePtr s (s.putPtr d v) d v := by
  refine ⟨onlySlot_update s _, retired_update s _ (by simp), ?_, ?_, fun r hr => ?_⟩
  · simp only [State.putPtr, State.me_complete, State.me_modMe]; rfl
  · simp [State.putPtr, Slot.ptr, Slot.setPtr]
  · have : (s.putPtr d v).me.ptr r = (s.me.setPtr d v).ptr r := by simp [State.putPtr, Slot.ptr]
    rw [this, Slot.ptr_setPtr]; simp [hr]

/-- R93: a late scalar result that lands at once. -/
theorem putS_wrote (s : State) (kind : SbKind) (d : Sreg) (v : Word) (h : s.relaxed = false) : WroteS s (s.putS kind d v 0) d v := by
  have : s.putS kind d v 0 = s.putReg d v := by
    simp [State.putS, State.orFlags, State.land, State.putReg, h, Slot.landValue, vecW]
  rw [this]; exact putReg_wrote s d v

/-- R46: an instruction whose guard acts has its effect. -/
theorem guarded_acts {g : Guard} {f : State → State} {s : State} (h : s.me.acts g = true) : guarded g f s = .next (f s) := by
  simp [guarded, h]

/-- R46: an instruction whose guard does not act passes. -/
theorem guarded_not {g : Guard} {f : State → State} {s : State} (h : s.me.acts g = false) : guarded g f s = .next s.complete := by
  simp [guarded, h]

/-- R46: the same of a command with a token. -/
theorem guardedTok_acts {g : Guard} {tok : Tok} {f : State → State} {s : State} (h : s.me.acts g = true) :
    guardedTok g tok f s = .next (f s) := by simp [guardedTok, h]

end Sys2Proof.Safety
end

