-- ==== Sys2Proof/Laws/Abort.lean ====
section
/-! SUPPORT. Laws of ending an activation by an aborting fault (R368) and of stopping a slot (R364): what each leaves. -/
namespace Sys2Proof.Safety
open Sys2Proof.Machine

set_option Elab.async false

/-- A slot is the same but for its scoreboard, its wait, its record, its flags and what its activation remembers. -/
def SlotCalm (x y : Slot) : Prop :=
  { y with sb := x.sb, wait := x.wait, frec := x.frec, flags := x.flags, act := x.act } = x ∧ y.act.isSome = x.act.isSome

/-- The counters and the work list of a core are the same, and its slots are calm. -/
def CoreCalm (k l : Core) : Prop :=
  l.retired = k.retired ∧ l.cntAbort = k.cntAbort ∧ l.work = k.work ∧ ∀ i, SlotCalm (k.slotOf i) (l.slotOf i)

/-- Every core is calm, and the issuing slot is the same. -/
def Calm (s t : State) : Prop := t.cur = s.cur ∧ ∀ c, CoreCalm (s.coreOf c) (t.coreOf c)

theorem SlotCalm.refl (x : Slot) : SlotCalm x x := ⟨rfl, rfl⟩

theorem SlotCalm.trans {x y z : Slot} (h : SlotCalm x y) (k : SlotCalm y z) : SlotCalm x z := by
  refine ⟨?_, k.2.trans h.2⟩
  have e : { z with sb := x.sb, wait := x.wait, frec := x.frec, flags := x.flags, act := x.act } =
    ({ ({ z with sb := y.sb, wait := y.wait, frec := y.frec, flags := y.flags, act := y.act } : Slot) with
       sb := x.sb, wait := x.wait, frec := x.frec, flags := x.flags, act := x.act } : Slot) := rfl
  rw [e, k.1, h.1]

theorem CoreCalm.refl (k : Core) : CoreCalm k k := ⟨rfl, rfl, rfl, fun _ => SlotCalm.refl _⟩

theorem CoreCalm.trans {k l m : Core} (h : CoreCalm k l) (g : CoreCalm l m) : CoreCalm k m :=
  ⟨g.1.trans h.1, g.2.1.trans h.2.1, g.2.2.1.trans h.2.2.1, fun i => (h.2.2.2 i).trans (g.2.2.2 i)⟩

theorem CoreCalm.modSlot (k : Core) (i : Nat) (f : Slot → Slot) (h : SlotCalm (k.slotOf i) (f (k.slotOf i))) : CoreCalm k (k.modSlot i f) := by
  refine ⟨rfl, rfl, rfl, fun j => ?_⟩
  by_cases hj : j = i
  · subst hj; rw [Core.slotOf_modSlot_self]; exact h
  · rw [Core.slotOf_modSlot_ne _ _ hj]; exact SlotCalm.refl _

theorem Calm.trans {s t u : State} (h : Calm s t) (k : Calm t u) : Calm s u := ⟨k.1.trans h.1, fun c => (h.2 c).trans (k.2 c)⟩

theorem Calm.of_cores {s t : State} (h : t.cores = s.cores) (hc : t.cur = s.cur) : Calm s t :=
  ⟨hc, fun c => by have e : t.coreOf c = s.coreOf c := by simp [State.coreOf, h]
                   rw [e]; exact CoreCalm.refl _⟩

theorem Calm.refl (s : State) : Calm s s := Calm.of_cores rfl rfl

theorem Calm.modCore (s : State) (c : Nat) (f : Core → Core) (h : CoreCalm (s.coreOf c) (f (s.coreOf c))) : Calm s (s.modCore c f) := by
  refine ⟨rfl, fun d => ?_⟩
  by_cases hd : d = c
  · subst hd; rw [State.coreOf_modCore_self]; exact h
  · rw [State.coreOf_modCore_ne s f hd]; exact CoreCalm.refl _

theorem Calm.modSlot (s : State) (c i : Nat) (f : Slot → Slot) (h : ∀ x, SlotCalm x (f x)) : Calm s (s.modSlot c i f) :=
  Calm.modCore s c _ (CoreCalm.modSlot _ i f (h _))

theorem Calm.foldl {β : Type} (l : List β) (f : State → β → State) (h : ∀ s e, Calm s (f s e)) : ∀ s, Calm s (l.foldl f s) := by
  induction l with
  | nil => intro s; exact Calm.refl s
  | cons e t ih => intro s; exact (h s e).trans (ih _)

/-! What changes no core, or only a part that Calm leaves free. -/

theorem wrHbm_calm (s : State) (w : Option SeenSince) (bs : List (Nat × Byte)) : Calm s (s.wrHbm w bs) := by
  rw [State.wrHbm_eq]; exact Calm.of_cores rfl rfl

/-- R337: a question to the host about a line changes the outbox and the questions out. -/
theorem askHost_eq (s : State) (n : Nat) (inv : Bool) : ∃ o b, s.askHost n inv = { s with outbox := o, bisnp := b } := by
  unfold State.askHost; split
  · exact ⟨s.outbox, s.bisnp, rfl⟩
  · exact ⟨_, _, rfl⟩

theorem askHosts_eq (ls : List Nat) : ∀ s : State, ∃ o b, ls.foldl (fun s l => s.askHost l true) s = { s with outbox := o, bisnp := b } := by
  induction ls with
  | nil => intro s; exact ⟨s.outbox, s.bisnp, rfl⟩
  | cons l t ih =>
    intro s
    obtain ⟨o, b, h⟩ := askHost_eq s l true
    obtain ⟨o', b', h'⟩ := ih (s.askHost l true)
    exact ⟨o', b', by rw [List.foldl_cons, h', h]⟩

/-- R337, R373: what the front end writes changes HBM, its poison and the watches, or waits at home for the host. -/
theorem wrFe_eq (s : State) (pa : Nat) (bs : List Byte) : ∃ h k w p hs o b,
    s.wrFe pa bs = { s with hbm := h, stored := k, watches := w, poison := p, heldStores := hs, outbox := o, bisnp := b } := by
  unfold State.wrFe
  split
  · unfold State.wrPhys
    dsimp only
    rw [State.wrHbm_eq]
    exact ⟨_, _, _, _, s.heldStores, s.outbox, s.bisnp, rfl⟩
  · dsimp only
    generalize s.heldStores ++ List.map _ _ = hs
    obtain ⟨o, b, h⟩ := askHosts_eq (s.hostLines pa bs.length) ({ s with heldStores := hs } : State)
    exact ⟨s.hbm, s.stored, s.watches, s.poison, _, o, b, h⟩

/-- R373: the fault log changes nothing but HBM, its poison, the watches and the front end, or what waits for the host. -/
theorem flog_eq (s : State) (type idx : Nat) (r : FaultRec) (msg : List Byte) :
    ∃ h k w p hs o b fe, s.flog type idx r msg =
      { s with hbm := h, stored := k, watches := w, poison := p, heldStores := hs, outbox := o, bisnp := b, fe := fe } := by
  unfold State.flog
  dsimp only
  split
  · exact ⟨s.hbm, s.stored, s.watches, s.poison, s.heldStores, s.outbox, s.bisnp, s.fe, rfl⟩
  · obtain ⟨h, k, w, p, hs, o, b, e⟩ := wrFe_eq s (s.fe.flogBase.toNat + 512 * (s.fe.flogNext.toNat % 2 ^ s.fe.flogLog2.toNat))
      (bytesOf 4 type ++ bytesOf 4 idx ++ bytesOf 8 r.cause.toNat ++ bytesOf 8 r.addr.toNat ++ bytesOf 8 r.pc.toNat ++
        bytesOf 8 r.msg.toNat ++ bytesOf 8 r.rpc.toNat ++ bytesOf 8 r.sb.toNat ++ bytesOf 8 s.cycle.toNat ++ padTo 448 msg)
    rw [e]
    exact ⟨h, k, w, p, hs, o, b, _, rfl⟩

theorem flog_calm (s : State) (type idx : Nat) (r : FaultRec) (msg : List Byte) : Calm s (s.flog type idx r msg) := by
  obtain ⟨h, k, w, p, hs, o, b, fe, e⟩ := flog_eq s type idx r msg
  rw [e]; exact Calm.of_cores rfl rfl

theorem lateReport_calm (s : State) (c : Nat) (f : FaultInfo) (pc : Word) : Calm s (s.lateReport c f pc) := by
  unfold State.lateReport
  split
  · exact flog_calm _ _ _ _ _
  · exact (Calm.modCore s (c % 8192) (fun k => { k with cntLate := satInc k.cntLate }) (CoreCalm.refl _)).trans (flog_calm _ _ _ _ _)

theorem storeFailed_calm (s : State) (w : Who) (cause : Nat) : Calm s (s.storeFailed w cause) := by
  unfold State.storeFailed
  dsimp only
  split
  · split
    · exact Calm.modCore s w.core _ (CoreCalm.refl _)
    · exact Calm.modCore s w.core _ (CoreCalm.refl _)
    · exact lateReport_calm _ _ _ _
  · split
    · exact Calm.modSlot s _ _ _ (fun x => ⟨rfl, by cases x.act <;> rfl⟩)
    · exact lateReport_calm _ _ _ _

theorem acquire_calm (s : State) (c : Nat) (sc : Scope) : Calm s (s.acquire c sc) := by
  unfold State.acquire; split
  · exact Calm.refl s
  · exact Calm.modCore s c _ (CoreCalm.refl _)

theorem missAcq_calm (s : State) (c key : Nat) (acq : Scope) : Calm s (s.missAcq c key acq) := by
  unfold State.missAcq; split
  · exact Calm.refl s
  · unfold State.scopeMissAt; split
    · exact Calm.refl s
    · split
      · exact Calm.refl s
      · split
        · exact Calm.of_cores rfl rfl
        · exact Calm.of_cores rfl rfl

theorem writeAtom_calm (s : State) (w : Who) (atom : Nat) (bs : List (Nat × Byte)) : Calm s (s.writeAtom w atom bs) := by
  unfold State.writeAtom; split
  · exact storeFailed_calm _ _ _
  · split
    · exact storeFailed_calm _ _ _
    · dsimp only
      refine ((Calm.of_cores (t := { s with poison := smSet (fun _ => false) s.poison atom false }) rfl rfl).trans
        (wrHbm_calm _ w.early bs)).trans ?_
      generalize State.wrHbm _ _ _ = u
      unfold State.tagAtom
      split <;> exact Calm.of_cores rfl rfl

theorem wrKey_calm (s : State) (w : Who) (key : Nat) (bs : List Byte) : Calm s (s.wrKey w key bs) := by
  unfold State.wrKey; split
  · exact writeAtom_calm _ _ _ _
  · exact Calm.of_cores rfl rfl

theorem lateFlags_calm (x : Slot) (f : Flags) : SlotCalm x (x.lateFlags f) := by
  unfold Slot.lateFlags; split <;> exact ⟨rfl, rfl⟩

theorem giveReply_calm (x : Slot) (val pred : Option Nat) (v : Vec) (b : Bool) (f : Flags) : SlotCalm x (x.giveReply val pred v b f) := by
  have h1 : SlotCalm x (if val.isNone && pred.isNone then x.lateFlags f else x) := by
    split
    · exact lateFlags_calm x f
    · exact SlotCalm.refl x
  unfold Slot.giveReply
  dsimp only
  generalize (if val.isNone && pred.isNone then x.lateFlags f else x) = y at h1 ⊢
  have h2 : ∀ (i : Nat) (z : Slot) (u : Vec), SlotCalm z (z.giveValue i u) := fun i z u => ⟨rfl, rfl⟩
  cases val <;> cases pred <;> exact h1.trans ⟨rfl, rfl⟩

theorem tell_calm (s : State) (w : Who) (r : Reply) (v : Nat) (b : Bool) (f : Flags) : Calm s (s.tell w r v b f) := by
  unfold State.tell; split
  · exact Calm.refl s
  · split
    · exact Calm.refl s
    · exact (Calm.modSlot s _ _ _ (fun x => giveReply_calm x _ _ _ _ _)).trans (acquire_calm _ _ _)
  · split
    · exact Calm.of_cores rfl rfl
    · exact Calm.refl s
  · exact Calm.of_cores rfl rfl
  · exact Calm.refl s
  · exact Calm.of_cores rfl rfl

theorem setCell_calm (s : State) (w : Who) (key v st : Nat) : Calm s (s.setCell w key v st) := wrKey_calm _ _ _ _

theorem answerOne_calm (s : State) (d : Deferred) (v : Nat) : Calm s (s.answerOne d v) := by
  unfold State.answerOne
  have h := (missAcq_calm s d.core d.pa d.acq).trans (tell_calm _ d.who (d.reply d.acq) v true 0)
  dsimp only
  generalize State.tell _ _ _ _ _ _ = u at h ⊢
  split
  · exact h
  · exact h.trans (Calm.modSlot u _ _ _ (fun x => ⟨rfl, rfl⟩))

theorem answerCell_calm (key v : Nat) (l : List Deferred) : ∀ s : State, Calm s (s.answerCell key v l) := by
  induction l with
  | nil => intro s; exact Calm.refl s
  | cons d t ih =>
    intro s
    unfold State.answerCell
    split
    · exact ih s
    · have h1 := (answerOne_calm s d v).trans (Calm.of_cores (t := { s.answerOne d v with
        deferred := (s.answerOne d v).deferred.filter (fun e => !(e == d)) }) rfl rfl)
      split
      · exact h1.trans (setCell_calm _ _ _ _ _)
      · exact h1.trans (ih _)

theorem tellFault_none (s : State) (w : Who) (cause : Nat) (a : Word) : s.tellFault w .none cause a = s := rfl

theorem tellFault_calm (s : State) (w : Who) (r : Reply) (cause : Nat) (a : Word) : Calm s (s.tellFault w r cause a) := by
  unfold State.tellFault; split
  · exact Calm.of_cores rfl rfl
  · exact Calm.modSlot s _ _ _ (fun x => by split <;> exact ⟨rfl, rfl⟩)
  · exact Calm.refl s

theorem homeFails_fill_calm (s : State) (pa v : Nat) (w : Who) (r : Reply) (cause : Nat) : Calm s (s.homeFails ⟨.fill pa v, w, r⟩ cause) := by
  unfold State.homeFails
  dsimp only
  split
  · exact tellFault_calm _ _ _ _ _
  · split
    · exact tellFault_calm _ _ _ _ _
    · split
      · exact tellFault_calm _ _ _ _ _
      · refine Calm.trans ?_ (tell_calm _ _ _ _ _ _)
        split
        · exact storeFailed_calm _ _ _
        · exact Calm.refl s

/-- R264, R265: the fill of a future cell by an agent: what it changes of a core. -/
theorem perform_fill_calm (s : State) (pa v : Nat) (w : Who) (hw : w.rel = .none) : Calm s (s.perform ⟨.fill pa v, w, .none⟩) := by
  unfold State.perform
  dsimp only
  rw [tellFault_none, tellFault_none]
  split
  · exact Calm.refl s
  · split
    · exact Calm.refl s
    · split
      · exact tell_calm _ _ _ _ _ _
      · have : s.releaseFault w .none = none := by simp [State.releaseFault, hw]
        rw [this]
        exact ((setCell_calm s w pa v 1).trans (answerCell_calm _ _ _ _)).trans (tell_calm _ _ _ _ _ _)

theorem futureAct_fill_calm (s : State) (pa v : Nat) (w : Who) (hw : w.rel = .none) : Calm s (s.futureAct ⟨.fill pa v, w, .none⟩) := by
  unfold State.futureAct
  split
  · unfold State.homeAct
    split
    · exact perform_fill_calm s pa v w hw
    · exact Calm.of_cores rfl rfl
    · exact homeFails_fill_calm _ _ _ _ _ _
  · exact perform_fill_calm s pa v w hw

/-! What an ending activation had buffered. -/

theorem returnCells_calm (s : State) (c i : Nat) : Calm s (s.returnCells c i) := by
  unfold State.returnCells
  refine Calm.foldl _ _ (fun s e => ?_) s
  split
  · exact futureAct_fill_calm _ _ _ _ rfl
  · exact Calm.refl s

theorem launchCount_calm (s : State) (lid sg : Nat) (n : Int) : Calm s (s.launchCount lid sg n) := by
  unfold State.launchCount; split
  · exact Calm.refl s
  · exact Calm.of_cores rfl rfl

theorem spillEntry_calm (k : Core) (e : DequeEntry) : CoreCalm k (k.spillEntry e) := by
  unfold Core.spillEntry; split <;> exact ⟨rfl, rfl, rfl, fun _ => SlotCalm.refl _⟩

/-- R353: a deque written changes the deque and local memory. -/
theorem setDeque_calm (k : Core) (l : List DequeEntry) : CoreCalm k (k.setDeque l) := by
  unfold Core.setDeque
  dsimp only
  generalize hk : ({ k with deque := _, spillDeque := _ } : Core) = k1
  have h1 : CoreCalm k k1 := by rw [← hk]; exact ⟨rfl, rfl, rfl, fun _ => SlotCalm.refl _⟩
  generalize List.filter _ _ = m
  clear hk
  induction m generalizing k1 with
  | nil => exact h1
  | cons e t ih => exact ih _ (h1.trans (spillEntry_calm k1 e))

theorem dropSpawns_calm (s : State) (c i : Nat) : Calm s (s.dropSpawns c i) := by
  unfold State.dropSpawns
  exact (Calm.modCore s c _ (setDeque_calm _ _)).trans (Calm.foldl _ _ (fun s e => launchCount_calm s _ _ _) _)

theorem skipTaken_calm (s : State) (r n : Nat) : Calm s (s.skipTaken r n) := by
  unfold State.skipTaken; split
  · exact Calm.refl s
  · exact Calm.of_cores rfl rfl

theorem dropTaken_calm (s : State) (c i : Nat) : Calm s (s.dropTaken c i) := by
  unfold State.dropTaken; split
  · exact skipTaken_calm s _ _
  · exact Calm.refl s

theorem dropSends_calm (s : State) (c i : Nat) : Calm s (s.dropSends c i) :=
  Calm.modCore s c (fun k => { k with sendBuf := k.sendBuf.filter (fun e => e.slot != i || e.leaving) }) (CoreCalm.refl _)

theorem dropWaits_calm (s : State) (c i : Nat) : Calm s (s.dropWaits c i) := Calm.of_cores (t := s.dropWaits c i) rfl rfl

theorem dropGuarded_calm (s : State) (c i : Nat) : Calm s (s.dropGuarded c i) := by
  unfold State.dropGuarded
  exact (Calm.modCore s c (fun k => { k with matrix := k.matrix.dropGuarded i, copy := k.copy.dropGuarded i }) (CoreCalm.refl _)).trans
    (Calm.foldl _ _ (fun s t => skipTaken_calm s _ _) _)

theorem dropRole_calm (s : State) (c i : Nat) : Calm s (s.dropRole c i) := by
  unfold State.dropRole
  refine Calm.modCore s c _ ?_
  split <;> exact ⟨rfl, rfl, rfl, fun _ => SlotCalm.refl _⟩

theorem discardHeld_calm (s : State) (c i : Nat) : Calm s (s.discardHeld c i) := by
  unfold State.discardHeld
  have h1 := dropRole_calm s c i
  generalize s.dropRole c i = s1 at *
  have h2 := h1.trans (dropWaits_calm s1 c i)
  generalize s1.dropWaits c i = s2 at *
  have h3 := h2.trans (returnCells_calm s2 c i)
  generalize s2.returnCells c i = s3 at *
  have h4 := h3.trans (dropSends_calm s3 c i)
  generalize s3.dropSends c i = s4 at *
  have h5 := h4.trans (dropTaken_calm s4 c i)
  generalize s4.dropTaken c i = s5 at *
  have h6 := h5.trans (dropGuarded_calm s5 c i)
  generalize s5.dropGuarded c i = s6 at *
  exact h6.trans (dropSpawns_calm s6 c i)

/-! An aborting fault. -/

theorem SlotCalm.fields {x y : Slot} (h : SlotCalm x y) : y.mode = x.mode ∧ y.act.isSome = x.act.isSome ∧ y.pc = x.pc ∧ y.sregs = x.sregs ∧
    y.vregs = x.vregs ∧ y.pregs = x.pregs ∧ y.mregs = x.mregs ∧ y.ptrs = x.ptrs := by
  refine ⟨?_, h.2, ?_, ?_, ?_, ?_, ?_, ?_⟩ <;> (rw [← h.1])

theorem abortOne_def (s : State) (c i : Nat) (f : FaultInfo) (pc : Word) (noretry : Bool) :
    s.abortOne c i f pc noretry = (((s.discardHeld c i).modSlot c i
      (fun x => x.aborted (mkRec (s.slotOf c i) i false f pc pc) f.cause noretry)).modCore c
      (fun k => { k with cntAbort := satInc k.cntAbort })).flog 1 (globalCore c) (mkRec (s.slotOf c i) i false f pc pc) [] := by
  unfold State.abortOne State.abortWith; rfl

/-- R368: the fields of what an aborting fault leaves, over any state that has changed nothing of a slot that these fields show. -/
theorem aborted_slot (s u t : State) (c i : Nat) (r : FaultRec) (cause : Nat) (noretry : Bool) (hb : SMap Byte)
    (st : SMap (List OldByte)) (ws : List Watch) (po : SMap Bool) (hs : List HeldStore) (ob : List Outgoing) (bi : List Nat) (fe : FrontEnd)
    (h1 : Calm s u)
    (ht : t = { ((u.modSlot c i (fun x => x.aborted r cause noretry)).modCore c
      (fun k => { k with cntAbort := satInc k.cntAbort })) with
        hbm := hb, stored := st, watches := ws, poison := po, heldStores := hs, outbox := ob, bisnp := bi, fe := fe }) :
    t.cur = s.cur ∧ (t.coreOf c).slotOf i = ((u.coreOf c).slotOf i).aborted r cause noretry ∧
    (t.coreOf c).cntAbort = satInc (s.coreOf c).cntAbort ∧ (t.coreOf c).retired = (s.coreOf c).retired ∧
    (∀ j, j ≠ i → SlotCalm ((s.coreOf c).slotOf j) ((t.coreOf c).slotOf j)) ∧
    (∀ d, d ≠ c → ∀ j, SlotCalm (s.slotOf d j) (t.slotOf d j)) := by
  have hcores : ∀ d, t.coreOf d = ((u.modSlot c i (fun x => x.aborted r cause noretry)).modCore c
      (fun k => { k with cntAbort := satInc k.cntAbort })).coreOf d := by intro d; rw [ht]; rfl
  have hc := hcores c
  rw [State.coreOf_modCore_self, State.coreOf_modSlot_self] at hc
  refine ⟨?_, ?_, ?_, ?_, ?_, ?_⟩
  · rw [ht]; exact h1.1
  · rw [hc]; exact Core.slotOf_modSlot_self (u.coreOf c) i (fun x => x.aborted r cause noretry)
  · rw [hc]; show satInc _ = _; exact congrArg satInc (h1.2 c).2.1
  · rw [hc]; exact (h1.2 c).1
  · intro j hj
    rw [hc]
    show SlotCalm _ ((Core.modSlot (u.coreOf c) i (fun x => x.aborted r cause noretry)).slotOf j)
    rw [Core.slotOf_modSlot_ne _ _ hj]
    exact (h1.2 c).2.2.2 j
  · intro d hd j
    show SlotCalm _ ((t.coreOf d).slotOf j)
    rw [hcores, State.coreOf_modCore_ne _ _ hd, State.coreOf_modSlot_ne _ _ _ hd]
    exact (h1.2 d).2.2.2 j

/-- R368: what an aborting fault of slot i of core c leaves there. -/
theorem abortOne_slot (s t : State) (c i : Nat) (f : FaultInfo) (pc : Word) (noretry : Bool) (e : s.abortOne c i f pc noretry = t) :
    t.cur = s.cur ∧
    (∃ x, SlotCalm (s.slotOf c i) x ∧ t.slotOf c i = x.aborted (mkRec (s.slotOf c i) i false f pc pc) f.cause noretry) ∧
    (t.coreOf c).cntAbort = satInc (s.coreOf c).cntAbort ∧ (t.coreOf c).retired = (s.coreOf c).retired ∧
    (∀ j, j ≠ i → SlotCalm ((s.coreOf c).slotOf j) ((t.coreOf c).slotOf j)) ∧
    (∀ d, d ≠ c → ∀ j, SlotCalm (s.slotOf d j) (t.slotOf d j)) := by
  rw [abortOne_def] at e
  have h1 := discardHeld_calm s c i
  generalize s.discardHeld c i = u at h1 e
  generalize mkRec (s.slotOf c i) i false f pc pc = r at e ⊢
  obtain ⟨hb, st, ws, po, hs, ob, bi, fe, he⟩ := flog_eq ((u.modSlot c i (fun x => x.aborted r f.cause noretry)).modCore c
      (fun k => { k with cntAbort := satInc k.cntAbort })) 1 (globalCore c) r []
  rw [he] at e
  have H := aborted_slot s u t c i r f.cause noretry hb st ws po hs ob bi fe h1 e.symm
  exact ⟨H.1, ⟨_, (h1.2 c).2.2.2 i, H.2.1⟩, H.2.2⟩

/-- R368: an aborting fault of a slot whose activation is of no gang. -/
theorem abort_eq (s : State) (c i : Nat) (f : FaultInfo) (pc : Word) (noretry : Bool) (h : i ≠ 4)
    (hg : (s.slotOf c i).act.bind (·.gang) = none) : s.abort c i f pc noretry = s.abortOne c i f pc noretry := by
  unfold State.abort
  rw [if_neg h]
  unfold State.endsGang
  rw [hg]

/-- A value that is the same for every activation. -/
theorem map_const_of_isSome {α β γ : Type} (a : Option α) (b : Option β) (h : a.isSome = b.isSome) (v : γ) :
    a.map (fun _ => v) = b.map (fun _ => v) := by cases a <;> cases b <;> simp_all

/-- R368: an aborting fault of the issuing slot, outside the porter and outside a gang. -/
theorem abort_aborted (s : State) (f : FaultInfo) (noretry : Bool) (h : s.cur.2 ≠ 4) (hg : s.me.act.bind (·.gang) = none)
    (hu : f.unit = 0) (hs : f.scode = 0) :
    Aborted s { s.abort s.cur.1 s.cur.2 f s.me.pc noretry with pairNext := none } f.cause f.addr noretry := by
  rw [abort_eq s _ _ f _ noretry h hg]
  generalize e : s.abortOne s.cur.1 s.cur.2 f s.me.pc noretry = t
  obtain ⟨h0, ⟨x, hx, hy⟩, h11, h12, _, _⟩ := abortOne_slot s t _ _ f _ noretry e
  have hs' := hx.fields
  have hme : ({ t with pairNext := none } : State).me = x.aborted (mkRec s.me s.cur.2 false f s.me.pc s.me.pc) f.cause noretry := by
    show t.slotOf t.cur.1 t.cur.2 = _; rw [h0]; exact hy
  have hcore : ({ t with pairNext := none } : State).myCore = t.coreOf s.cur.1 := by
    show t.coreOf t.cur.1 = _; rw [h0]
  obtain ⟨f1, f2, f3, f4, f5, f6, f7, f8⟩ := hs'
  refine ⟨h0, ?_, ?_, ?_, ?_, ?_, ?_, ?_, ?_, ?_, ?_, ?_, ?_, ?_, ?_, ?_, ?_⟩
  · rw [hme]; rfl
  · rw [hme]; rfl
  · rw [hme]; exact f3
  · rw [hme]; show causeWord false s.cur.2 false f = _; simp [causeWord, hu, hs]
  · rw [hme]; rfl
  · rw [hme]; rfl
  · rw [hme]; rfl
  · rw [hme]; show Option.map _ (Option.map _ x.act) = _; rw [Option.map_map]; exact map_const_of_isSome _ _ f2 _
  · rw [hme]; show Option.map _ (Option.map _ x.act) = _; rw [Option.map_map]; exact map_const_of_isSome _ _ f2 _
  · rw [hme]; exact f4
  · rw [hme]; exact f5
  · rw [hme]; exact f6
  · rw [hme]; exact f7
  · rw [hme]; exact f8
  · rw [hcore]; exact h11
  · rw [hcore]; exact h12

theorem abortMe_aborted (s : State) (f : FaultInfo) (h : s.cur.2 ≠ 4) (hg : s.me.act.bind (·.gang) = none)
    (hu : f.unit = 0) (hs : f.scode = 0) : Aborted s (s.abortMe f) f.cause f.addr false := abort_aborted s f false h hg hu hs

end Sys2Proof.Safety
end

