-- ==== Sys2Proof/Laws/Decode.lean ====
section
/-! SUPPORT. Laws of the encoding: the fields of a packed word, and every small field read back from what was written. -/
namespace Sys2Proof

theorem bv_ext {n : Nat} {x y : BitVec n} (h : x.toNat = y.toNat) : x = y := BitVec.eq_of_toNat_eq h

theorem pack_toNat (f : Fields) : (pack f).toNat = f.op.toNat * 2 ^ 88 + f.gn.toNat * 2 ^ 87 + f.gp.val * 2 ^ 84 + f.d.toNat * 2 ^ 78 + f.a.toNat * 2 ^ 72 +
    f.b.toNat * 2 ^ 66 + f.c.toNat * 2 ^ 60 + f.ty.toNat * 2 ^ 56 + f.ty2.toNat * 2 ^ 52 + f.sub.toNat * 2 ^ 48 +
    f.immb.toNat * 2 ^ 47 + f.scope.toNat * 2 ^ 44 + f.acq.toNat * 2 ^ 43 + f.rel.toNat * 2 ^ 42 + f.rnd.toNat * 2 ^ 39 +
    f.amode.toNat * 2 ^ 36 + f.space.toNat * 2 ^ 35 + f.tok.toNat * 2 ^ 34 + f.width.toNat * 2 ^ 32 + f.imm.toNat := by
  have := f.op.isLt; have := Bool.toNat_le f.gn; have := f.gp.isLt; have := f.d.isLt; have := f.a.isLt; have := f.b.isLt
  have := f.c.isLt; have := f.ty.isLt; have := f.ty2.isLt; have := f.sub.isLt; have := Bool.toNat_le f.immb
  have := f.scope.isLt; have := Bool.toNat_le f.acq; have := Bool.toNat_le f.rel; have := f.rnd.isLt; have := f.amode.isLt
  have := Bool.toNat_le f.space; have := Bool.toNat_le f.tok; have := f.width.isLt; have := f.imm.isLt
  rw [pack, BitVec.toNat_ofNat]
  apply Nat.mod_eq_of_lt
  omega

theorem wordBit_pack (w : IWord) (n : Nat) (b : Bool) (h : w.toNat / 2 ^ n % 2 = b.toNat) : wordBit w n = b := by
  unfold wordBit BitVec.getLsbD
  rw [Nat.testBit_eq_decide_div_mod_eq, h]
  cases b <;> rfl

theorem unpack_pack (f : Fields) : unpack (pack f) = f := by
  have h := pack_toNat f
  have := f.op.isLt; have := Bool.toNat_le f.gn; have := f.gp.isLt; have := f.d.isLt; have := f.a.isLt; have := f.b.isLt
  have := f.c.isLt; have := f.ty.isLt; have := f.ty2.isLt; have := f.sub.isLt; have := Bool.toNat_le f.immb
  have := f.scope.isLt; have := Bool.toNat_le f.acq; have := Bool.toNat_le f.rel; have := f.rnd.isLt; have := f.amode.isLt
  have := Bool.toNat_le f.space; have := Bool.toNat_le f.tok; have := f.width.isLt; have := f.imm.isLt
  unfold unpack
  rcases hf : f with ⟨op, gn, gp, d, a, b, c, ty, ty2, sub, immb, scope, acq, rel, rnd, amode, space, tok, width, imm⟩
  rw [← hf]
  simp only [hf] at *
  simp only [Fields.mk.injEq]
  refine ⟨?_, ?_, ?_, ?_, ?_, ?_, ?_, ?_, ?_, ?_, ?_, ?_, ?_, ?_, ?_, ?_, ?_, ?_, ?_, ?_⟩
  all_goals first
    | (apply wordBit_pack; rw [h]; omega)
    | (apply bv_ext; rw [BitVec.extractLsb'_toNat, h, Nat.shiftRight_eq_div_pow]; omega)
    | (apply Fin.ext; simp only [BitVec.val_toFin, BitVec.extractLsb'_toNat, h, Nat.shiftRight_eq_div_pow]; omega)

@[simp] theorem sregOf_fld (x : Sreg) : sregOf (fld x) = x := by
  apply Fin.ext; simp only [sregOf, BitVec.val_toFin, fld_toNat x (by decide)]
@[simp] theorem reg8Of_fld (x : Fin 8) : reg8Of (fld x) = x := by
  apply Fin.ext; simp only [reg8Of, fld_toNat x (by decide), Fin.ofNat]; exact Nat.mod_eq_of_lt x.isLt
@[simp] theorem vregOf_fld (x : Vreg) : vregOf (fld x) = x := by
  apply Fin.ext; simp only [vregOf, fld_toNat x (by decide), Fin.ofNat]; exact Nat.mod_eq_of_lt x.isLt
@[simp] theorem vsrcOf_fld (x : VSrc) : vsrcOf x.fld = x := by
  cases x with
  | reg v => have := v.isLt
             have h : (VSrc.fld (.reg v)).toNat = v.val := by simp [VSrc.fld, VSrc.code]; omega
             simp only [vsrcOf, h, if_pos this]; congr 1; apply Fin.ext; exact Nat.mod_eq_of_lt this
  | chan c => have := c.isLt
              have h : (VSrc.fld (.chan c)).toNat = 32 + c.val := by simp [VSrc.fld, VSrc.code]; omega
              simp only [vsrcOf, h]; rw [if_neg (by omega)]; congr 1; apply Fin.ext
              simp only [Fin.ofNat]; omega
@[simp] theorem Ty.ofCode_code (t : Ty) : Ty.ofCode t.code = t := by cases t <;> rfl
@[simp] theorem Scope.ofCode_code (t : Scope) : Scope.ofCode t.code = t := by cases t <;> rfl
@[simp] theorem Rnd.ofCode_code (t : Rnd) : Rnd.ofCode t.code = t := by cases t <;> rfl
@[simp] theorem Space.ofCode_code (t : Space) : Space.ofCode t.code = t := by cases t <;> rfl
@[simp] theorem WCond.ofCode_code (t : WCond) : WCond.ofCode t.code = t := by cases t <;> rfl
@[simp] theorem Cond.ofCode_code (t : Cond) : Cond.ofCode t.code = t := by cases t <;> rfl
@[simp] theorem POp.ofCode_code (t : POp) : POp.ofCode t.code = t := by cases t <;> rfl
@[simp] theorem MCond.ofCode_code (t : MCond) : MCond.ofCode t.code = t := by cases t <;> rfl
@[simp] theorem PtGet.ofCode_code (t : PtGet) : PtGet.ofCode t.code = t := by cases t <;> rfl
@[simp] theorem AmoOp.ofCode_code (t : AmoOp) : AmoOp.ofCode t.code = t := by cases t <;> rfl
@[simp] theorem VCond.ofCode_code (t : VCond) : VCond.ofCode t.code = t := by cases t <;> rfl
@[simp] theorem RedOp.ofCode_code (t : RedOp) : RedOp.ofCode t.code = t := by cases t <;> rfl
@[simp] theorem ThSel.ofCode_code (t : ThSel) : ThSel.ofCode t.code = t := by cases t <;> rfl
@[simp] theorem FOp.ofCode_sub3 (t : FOp) (b : Bool) : FOp.ofCode (sub3 t.code b) = t := by cases t <;> cases b <;> rfl
@[simp] theorem sub1_bit (b : Bool) : (sub1 b).getLsbD 0 = b := by cases b <;> rfl
@[simp] theorem fin8_mask (x : Fin 8) : Fin.ofNat 8 (BitVec.ofNat 3 x.val).toNat = x := by revert x; decide
@[simp] theorem subMask_msk (z : MaskZ) : Fin.ofNat 8 (subMask z).toNat = z.msk := by
  obtain ⟨m, b⟩ := z; revert m b; decide
@[simp] theorem subMask_zro (z : MaskZ) : (subMask z).getLsbD 3 = z.zro := by
  obtain ⟨m, b⟩ := z; revert m b; decide

/-! The readings of fields, unfolded. -/
@[simp] theorem Fields.guard_def (f : Fields) : f.guard = ⟨f.gn, f.gp⟩ := rfl
@[simp] theorem Fields.sd_def (f : Fields) : f.sd = sregOf f.d := rfl
@[simp] theorem Fields.sa_def (f : Fields) : f.sa = sregOf f.a := rfl
@[simp] theorem Fields.sb_def (f : Fields) : f.sb = sregOf f.b := rfl
@[simp] theorem Fields.sc_def (f : Fields) : f.sc = sregOf f.c := rfl
@[simp] theorem Fields.pd_def (f : Fields) : f.pd = reg8Of f.d := rfl
@[simp] theorem Fields.pa_def (f : Fields) : f.pa = reg8Of f.a := rfl
@[simp] theorem Fields.pb_def (f : Fields) : f.pb = reg8Of f.b := rfl
@[simp] theorem Fields.pc_def (f : Fields) : f.pc = reg8Of f.c := rfl
@[simp] theorem Fields.vd_def (f : Fields) : f.vd = vregOf f.d := rfl
@[simp] theorem Fields.va_def (f : Fields) : f.va = vsrcOf f.a := rfl
@[simp] theorem Fields.vb_def (f : Fields) : f.vb = vsrcOf f.b := rfl
@[simp] theorem Fields.vc_def (f : Fields) : f.vc = vsrcOf f.c := rfl
@[simp] theorem Fields.src_def (f : Fields) : f.src = if f.immb then .imm f.imm else .reg f.sb := rfl
@[simp] theorem Fields.srcA_def (f : Fields) : f.srcA = if f.immb then .imm f.imm else .reg f.sa := rfl
@[simp] theorem Fields.vop_def (f : Fields) : f.vop = if f.immb then .imm f.imm else .vec f.vb := rfl
@[simp] theorem Fields.token_def (f : Fields) : f.token = if f.tok then some f.sc else none := rfl
@[simp] theorem Fields.ord_def (f : Fields) : f.ord = ⟨Scope.ofCode f.scope, f.acq, f.rel⟩ := rfl
@[simp] theorem Fields.spc_def (f : Fields) : f.spc = Space.ofCode f.space := rfl
@[simp] theorem Fields.msk_def (f : Fields) : f.msk = ⟨Fin.ofNat 8 f.amode.toNat, f.space⟩ := rfl
@[simp] theorem Fields.smsk_def (f : Fields) : f.smsk = ⟨Fin.ofNat 8 f.sub.toNat, f.sub.getLsbD 3⟩ := rfl
@[simp] theorem Fields.type_def (f : Fields) : f.type = Ty.ofCode f.ty := rfl
@[simp] theorem Fields.type2_def (f : Fields) : f.type2 = Ty.ofCode f.ty2 := rfl
@[simp] theorem Fields.round_def (f : Fields) : f.round = Rnd.ofCode f.rnd := rfl
@[simp] theorem Fields.flag0_def (f : Fields) : f.flag0 = f.sub.getLsbD 0 := rfl
@[simp] theorem Fields.flag3_def (f : Fields) : f.flag3 = f.sub.getLsbD 3 := rfl

/-! The writing of fields, unfolded. -/
@[simp] theorem Fields.of_def (op : BitVec 8) (g : Guard) : Fields.of op g =
    ⟨op, g.neg, g.p, 0, 0, 0, 0, 0, 0, 0, false, 0, false, false, 0, 0, false, false, 0, 0⟩ := rfl
@[simp] theorem Fields.withB_reg (f : Fields) (r : Sreg) : f.withB (.reg r) = { f with b := fld r } := rfl
@[simp] theorem Fields.withB_imm (f : Fields) (v : BitVec 32) : f.withB (.imm v) = { f with immb := true, imm := v } := rfl
@[simp] theorem Fields.withVB_vec (f : Fields) (v : VSrc) : f.withVB (.vec v) = { f with b := v.fld } := rfl
@[simp] theorem Fields.withVB_imm (f : Fields) (v : BitVec 32) : f.withVB (.imm v) = { f with immb := true, imm := v } := rfl
@[simp] theorem Fields.withA_reg (f : Fields) (r : Sreg) : f.withA (.reg r) = { f with a := fld r } := rfl
@[simp] theorem Fields.withA_imm (f : Fields) (v : BitVec 32) : f.withA (.imm v) = { f with immb := true, imm := v } := rfl
@[simp] theorem Fields.withTok_none (f : Fields) : f.withTok none = f := rfl
@[simp] theorem Fields.withTok_some (f : Fields) (r : Sreg) : f.withTok (some r) = { f with tok := true, c := fld r } := rfl
@[simp] theorem Fields.withMode_base (f : Fields) (a : Sreg) (v : BitVec 32) : f.withMode (.base a v) = { f with a := fld a, imm := v } := rfl
@[simp] theorem Fields.withMode_idx (f : Fields) (a b : Sreg) : f.withMode (.idx a b) = { f with a := fld a, b := fld b, amode := 1 } := rfl
@[simp] theorem Fields.withMode_scaled (f : Fields) (a b : Sreg) : f.withMode (.scaled a b) = { f with a := fld a, b := fld b, amode := 2 } := rfl
@[simp] theorem Fields.withMode_post (f : Fields) (p : Fin 8) : f.withMode (.post p) = { f with a := fld p, amode := 3 } := rfl
@[simp] theorem Fields.withMode_off (f : Fields) (p : Fin 8) (v : BitVec 32) : f.withMode (.off p v) = { f with a := fld p, imm := v, amode := 4 } := rfl
@[simp] theorem Fields.withOrd_def (f : Fields) (o : Order) : f.withOrd o = { f with scope := o.scope.code, acq := o.acq, rel := o.rel } := rfl
@[simp] theorem Fields.withMask_def (f : Fields) (z : MaskZ) : f.withMask z = { f with amode := BitVec.ofNat 3 z.msk.val, space := z.zro } := rfl

/-! Small fields. -/
@[simp] theorem fin8_mod (x : Fin 8) : Fin.ofNat 8 (x.val % 16) = x := by revert x; decide
@[simp] theorem fin4_mod (x : Fin 4) : Fin.ofNat 4 (x.val % 16) = x := by revert x; decide
@[simp] theorem bool_bit (b : Bool) : (BitVec.ofNat 32 b.toNat)[0] = b := by cases b <;> rfl
@[simp] theorem sub1_bit' (b : Bool) : (sub1 b)[0] = b := by cases b <;> rfl
@[simp] theorem sub3_high' (x : Fin 8) (b : Bool) : (sub3 x.val b)[3] = b := by revert x b; decide
@[simp] theorem sub3_fop' (t : FOp) (b : Bool) : (sub3 t.code b)[3] = b := by cases t <;> cases b <;> rfl
@[simp] theorem subMask_zro' (z : MaskZ) : (subMask z)[3] = z.zro := by
  obtain ⟨m, b⟩ := z; revert m b; decide
@[simp] theorem fin8_sub (x : Fin 8) : Fin.ofNat 8 (BitVec.ofNat 4 x.val).toNat = x := by revert x; decide
@[simp] theorem fin4_sub (x : Fin 4) : Fin.ofNat 4 (BitVec.ofNat 4 x.val).toNat = x := by revert x; decide
@[simp] theorem fin16_sub (x : Fin 16) : (BitVec.ofNat 4 x.val).toFin = x := by revert x; decide
@[simp] theorem sub3_low (x : Fin 8) (b : Bool) : Fin.ofNat 8 (sub3 x.val b).toNat = x := by revert x b; decide
@[simp] theorem sub3_high (x : Fin 8) (b : Bool) : (sub3 x.val b).getLsbD 3 = b := by revert x b; decide
@[simp] theorem sub3_fop (t : FOp) (b : Bool) : (sub3 t.code b).getLsbD 3 = b := by cases t <;> cases b <;> rfl
@[simp] theorem wcond_ne_clk (c : WCond) : c.code.toNat ≠ 4 := by cases c <;> decide
@[simp] theorem setWidth_32_16 (x : BitVec 16) : (x.setWidth 32).setWidth 16 = x := by ext i h; simp
@[simp] theorem setWidth_32_12 (x : BitVec 12) : (x.setWidth 32).setWidth 12 = x := by ext i h; simp
@[simp] theorem setWidth_32_8 (x : BitVec 8) : (x.setWidth 32).setWidth 8 = x := by ext i h; simp
@[simp] theorem chan_fld (n : Fin 8) : reg8Of (BitVec.ofNat 6 (32 + n.val)) = n := by revert n; decide
@[simp] theorem immField_val (f : Fields) (lo n : Nat) (h : 0 < n) : f.immField lo n h = ⟨f.imm.toNat / 2 ^ lo % n, Nat.mod_lt _ h⟩ := rfl

end Sys2Proof
end

