-- ==== Sys2Proof/Laws/Memory.lean ====
section
/-! SUPPORT. Laws of memory accesses: what a store to plain memory leaves (R241, R245), and what loads of it read. -/
namespace Sys2Proof.Safety
open Sys2Proof.Machine

set_option Elab.async false

theorem bytesOf_length (n : Nat) : ∀ x, (bytesOf n x).length = n := by
  induction n with
  | zero => intro x; rfl
  | succ n ih => intro x; simp [bytesOf, ih]

theorem bytesOf_eq (n : Nat) : ∀ x, bytesOf n x = (List.range n).map (fun i => BitVec.ofNat 8 (x / 256 ^ i)) := by
  induction n with
  | zero => intro x; rfl
  | succ n ih =>
    intro x
    rw [bytesOf, ih, List.range_succ_eq_map, List.map_cons, List.map_map]
    congr 1
    · simp
    · apply List.map_congr_left; intro i _; simp [Nat.pow_succ, Nat.div_div_eq_div_mul, Nat.mul_comm]

/-- Bytes read back from the bytes of a number. -/
theorem bytesOf_wordOfBytes (bs : List Byte) : bytesOf bs.length (wordOfBytes bs) = bs := by
  induction bs with
  | nil => rfl
  | cons b t ih =>
    have e : wordOfBytes (b :: t) = b.toNat + 256 * wordOfBytes t := rfl
    have h1 : (b.toNat + 256 * wordOfBytes t) / 256 = wordOfBytes t := by
      rw [Nat.add_mul_div_left _ _ (by decide), Nat.div_eq_of_lt b.isLt, Nat.zero_add]
    rw [List.length_cons, bytesOf, e, h1, ih]
    congr 1
    apply BitVec.eq_of_toNat_eq
    simp only [BitVec.toNat_ofNat]; have := b.isLt; omega

theorem placed_mem (pa : Nat) (bs : List Byte) (e : Nat × Byte) :
    e ∈ placed pa bs ↔ ∃ i, bs[i]? = some e.2 ∧ e.1 = pa + i := by
  unfold placed
  rw [List.mem_map]
  constructor
  · rintro ⟨x, hx, rfl⟩
    rw [List.mem_zipIdx_iff_getElem?] at hx
    exact ⟨x.2, hx, rfl⟩
  · rintro ⟨i, h1, h2⟩
    exact ⟨(e.2, i), by rw [List.mem_zipIdx_iff_getElem?]; exact h1, by obtain ⟨a, b⟩ := e; simp at h2 ⊢; exact h2.symm⟩

theorem placed_iff (pa : Nat) (bs : List Byte) (q : Nat) (v : Byte) :
    (q, v) ∈ placed pa bs ↔ pa ≤ q ∧ q < pa + bs.length ∧ bs.getD (q - pa) 0 = v := by
  rw [placed_mem]
  constructor
  · rintro ⟨i, h1, h2⟩
    dsimp only at h1 h2
    have hi : i < bs.length := by
      by_contra hc; rw [List.getElem?_eq_none (by omega)] at h1; simp at h1
    subst h2
    refine ⟨by omega, by omega, ?_⟩
    rw [Nat.add_sub_cancel_left, List.getD_eq_getElem?_getD, h1]; rfl
  · rintro ⟨h1, h2, h3⟩
    have hi : q - pa < bs.length := by omega
    refine ⟨q - pa, ?_, by dsimp only; omega⟩
    rw [List.getD_eq_getElem?_getD, List.getElem?_eq_getElem hi] at h3
    rw [List.getElem?_eq_getElem hi]; exact congrArg some h3

/-- A byte that a list of writes gives one value reads as that value. -/
theorem rd8_wrHbm_mem (x : Option SeenSince) (q : Nat) (v : Byte) : ∀ (l : List (Nat × Byte)) (s : State), (∀ e ∈ l, e.1 = q → e.2 = v) →
    (∃ e ∈ l, e.1 = q) → (s.wrHbm x l).rd8 q = v := by
  intro l
  induction l with
  | nil => rintro s _ ⟨e, h, _⟩; simp at h
  | cons y t ih =>
    intro s h1 h2
    have e : s.wrHbm x (y :: t) = (s.wr8 x y.1 y.2).wrHbm x t := rfl
    rw [e]
    by_cases hc : ∃ e ∈ t, e.1 = q
    · exact ih _ (fun e he => h1 e (by simp [he])) hc
    · rw [State.rd8_wrHbm_ne x t q _ (fun e he hq => hc ⟨e, he, hq⟩)]
      obtain ⟨e, he, hq⟩ := h2
      rcases List.mem_cons.1 he with rfl | he
      · rw [State.rd8_wr8, if_pos hq.symm]; exact h1 _ (by simp) hq
      · exact absurd ⟨e, he, hq⟩ hc

/-- What is written depends on nothing but what HBM held. -/
theorem hbm_wrHbm (x y : Option SeenSince) : ∀ (l : List (Nat × Byte)) (s u : State), s.hbm = u.hbm → (s.wrHbm x l).hbm = (u.wrHbm y l).hbm := by
  intro l
  induction l with
  | nil => intro s u h; exact h
  | cons a t ih => intro s u h; exact ih _ _ (by show smSet (fun _ => 0) s.hbm a.1 a.2 = smSet (fun _ => 0) u.hbm a.1 a.2; rw [h])

/-- A state that differs in HBM and what it held, in poison cleared, in watches that have fired, in release tags and in the count of
stores. -/
def NearHbm (s t : State) : Prop :=
  (∃ h k p w r o, t = { s with hbm := h, stored := k, poison := p, watches := w, relTags := r, order := o }) ∧
  ∀ a, smGet (fun _ => false) t.poison a = true → smGet (fun _ => false) s.poison a = true

theorem NearHbm.refl (s : State) : NearHbm s s := ⟨⟨s.hbm, s.stored, s.poison, s.watches, s.relTags, s.order, rfl⟩, fun _ h => h⟩

theorem NearHbm.trans {s t u : State} (h : NearHbm s t) (k : NearHbm t u) : NearHbm s u := by
  obtain ⟨⟨h1, k1, p1, w1, r1, o1, e1⟩, q1⟩ := h
  obtain ⟨⟨h2, k2, p2, w2, r2, o2, e2⟩, q2⟩ := k
  exact ⟨⟨h2, k2, p2, w2, r2, o2, by rw [e2, e1]⟩, fun a ha => q1 a (q2 a ha)⟩

/-- R253: a tag changes nothing but the tags. -/
theorem tagAtom_eq (s : State) (w : Who) (atom : Nat) : ∃ r, s.tagAtom w atom = { s with relTags := r } := by
  unfold State.tagAtom
  split
  · exact ⟨s.relTags, rfl⟩
  · exact ⟨_, rfl⟩

/-- R241: bytes of an atom that is neither poisoned nor offline are written at home. -/
theorem writeAtom_plain (s : State) (w : Who) (atom : Nat) (bs : List (Nat × Byte))
    (h1 : smGet (fun _ => false) s.poison atom = false) (h2 : s.offlineAt (atom * 32) = false) :
    NearHbm s (s.writeAtom w atom bs) ∧ ∀ q, (s.writeAtom w atom bs).rd8 q = (s.wrHbm none bs).rd8 q := by
  have e : s.writeAtom w atom bs = ((({ s with poison := smSet (fun _ => false) s.poison atom false } : State).wrHbm w.early bs).fire
      (fun x => !x.loc && x.atom == atom)).tagAtom w atom := by
    unfold State.writeAtom
    rw [h1, h2]
    rfl
  have e2 := State.wrHbm_eq w.early bs ({ s with poison := smSet (fun _ => false) s.poison atom false } : State)
  obtain ⟨r, e3⟩ := tagAtom_eq ((({ s with poison := smSet (fun _ => false) s.poison atom false } : State).wrHbm w.early bs).fire
      (fun x => !x.loc && x.atom == atom)) w atom
  rw [e3] at e
  refine ⟨⟨⟨_, _, _, _, r, s.order, by rw [e, e2]; rfl⟩, ?_⟩, ?_⟩
  · intro a ha
    rw [e, e2] at ha
    have ha' : smGet (fun _ => false) (smSet (fun _ => false) s.poison atom false) a = true := ha
    rw [smGet_set] at ha'
    split at ha'
    · simp at ha'
    · exact ha'
  · intro q
    rw [e]
    show smGet _ ((({ s with poison := smSet (fun _ => false) s.poison atom false } : State).wrHbm w.early bs).hbm) q = smGet _ (s.wrHbm none bs).hbm q
    rw [hbm_wrHbm w.early none bs { s with poison := smSet (fun _ => false) s.poison atom false } s rfl]

/-- R286: with no tile frozen or under tenure and nothing held, an action on an atom of this package is performed at once. -/
theorem homeFate_plain (s : State) (pa : Nat) (hp : paPkg pa = Config.pkg) (hs : s.heldStores = [])
    (ht : ∀ e ∈ s.tiles, e.2.state ≠ .frozen ∧ e.2.tenures.isEmpty = true) : s.homeFate pa = .now := by
  have h1 : s.pkgDown (paPkg pa) = false := by simp [State.pkgDown, hp]
  have h2 : s.frozenAt pa = false := by
    simp only [State.frozenAt, List.any_eq_false, Bool.and_eq_true, beq_iff_eq, not_and]
    intro e he hf; exact absurd hf (ht e he).1
  have h3 : s.tenuredAt pa = false := by
    simp only [State.tenuredAt, List.any_eq_false, Bool.and_eq_true, not_and]
    intro e he hf; rw [(ht e he).2] at hf; simp at hf
  simp [State.homeFate, h1, h2, h3, hs]

/-- R241, R286: the bytes of an atom stored at its home are written there. -/
theorem homeAct_store (s : State) (w : Who) (a : Nat) (bs : List (Nat × Byte)) (hb : ∀ e ∈ bs, e.1 / 32 = a) (hne : bs ≠ [])
    (hp : paPkg (a * 32) = Config.pkg) (hs : s.heldStores = [])
    (ht : ∀ e ∈ s.tiles, e.2.state ≠ .frozen ∧ e.2.tenures.isEmpty = true) :
    s.homeAct ⟨.store bs, w, .none⟩ = s.writeAtom w a bs := by
  obtain ⟨x, t, rfl⟩ := List.exists_cons_of_ne_nil hne
  have ha : x.1 / 32 = a := hb x (by simp)
  have e0 : (HomeAct.store (x :: t)).pa = x.1 := rfl
  have hx : paPkg x.1 = Config.pkg := by
    rw [← hp]; unfold paPkg bits
    have e2 : ∀ x : Nat, x / 2 ^ 46 = x / 32 / 2 ^ 41 := by intro x; omega
    have e1 : a * 32 / 32 = a := by omega
    rw [e2, e2 (a * 32), e1, ha]
  unfold State.homeAct
  dsimp only
  rw [e0, homeFate_plain s x.1 hx hs ht]
  show s.writeAtom w (x.1 / 32) (x :: t) = _
  rw [ha]

/-- Bytes of one atom by atoms. -/
theorem byAtom_one (bs : List (Nat × Byte)) (a : Nat) (hb : ∀ e ∈ bs, e.1 / 32 = a) (hne : bs ≠ []) : byAtom bs = [(a, bs)] := by
  have e1 : bs.map (fun e => e.1 / 32) = List.replicate bs.length a := by
    rw [List.eq_replicate_iff]; exact ⟨by simp, by intro b h; obtain ⟨e, he, rfl⟩ := List.mem_map.1 h; exact hb e he⟩
  have e2 : (List.replicate bs.length a).dedup = [a] := by
    apply List.replicate_dedup
    simpa using hne
  unfold byAtom
  rw [e1, e2]
  simp only [List.map_cons, List.map_nil]
  congr 2
  apply List.filter_eq_self.2
  intro e he; simpa using hb e he

/-- R246, R239: with results at once and no cached line, the bytes of an atom stored by any path are written at home. -/
theorem storeAtom_plain (s : State) (w : Who) (via : Via) (ord a : Nat) (bs : List (Nat × Byte)) (hb : ∀ e ∈ bs, e.1 / 32 = a)
    (hne : bs ≠ []) (hp : paPkg (a * 32) = Config.pkg) (hs : s.heldStores = []) (hr : s.relaxed = false)
    (hl : (s.coreOf w.core).cacheLines = []) (ht : ∀ e ∈ s.tiles, e.2.state ≠ .frozen ∧ e.2.tenures.isEmpty = true)
    (h1 : smGet (fun _ => false) s.poison a = false) (h2 : s.offlineAt (a * 32) = false) :
    NearHbm s (s.storeAtom w via ord a bs) ∧ ∀ q, (s.storeAtom w via ord a bs).rd8 q = (s.wrHbm none bs).rd8 q := by
  have e : s.storeAtom w via ord a bs = ({ s with order := s.order + 1 } : State).writeAtom
      { w with num := s.order, loose := ord == 2, strong := ord == 0 && via == .slot } a bs := by
    have e1 : ∀ w', ({ s with order := s.order + 1 } : State).homeStore w' .none bs = ({ s with order := s.order + 1 } : State).writeAtom w' a bs := by
      intro w'
      unfold State.homeStore
      rw [byAtom_one bs a hb hne]
      exact homeAct_store _ w' a bs hb hne hp hs ht
    have hl' : (({ s with order := s.order + 1 } : State).coreOf w.core).cacheLines = [] := hl
    have c1 : ({ s with order := s.order + 1 } : State).cacheDrop w.core bs = { s with order := s.order + 1 } := by
      unfold State.cacheDrop; rw [hl']; rfl
    have c2 : ({ s with order := s.order + 1 } : State).cacheStore w.core bs = { s with order := s.order + 1 } := by
      unfold State.cacheStore; rw [hl']; rfl
    unfold State.storeAtom
    dsimp only
    rw [if_neg (by simp [hr]), if_neg (c := s.relaxed = true) (by simp [hr]), c1, c2]
    rw [← e1]
    simp only [ite_self]
  rw [e]
  obtain ⟨n1, n2⟩ := writeAtom_plain ({ s with order := s.order + 1 } : State)
    { w with num := s.order, loose := ord == 2, strong := ord == 0 && via == .slot } a bs h1 h2
  have n0 : NearHbm s { s with order := s.order + 1 } := ⟨⟨_, _, _, _, _, _, rfl⟩, fun _ h => h⟩
  refine ⟨n0.trans n1, fun q => (n2 q).trans ?_⟩
  show smGet _ _ q = smGet _ _ q
  rw [hbm_wrHbm none none bs ({ s with order := s.order + 1 } : State) s rfl]

/-- R241, R245: a run of bytes stored atom by atom to atoms that are plain, by an operation that writes an atom's bytes: the bytes and
nothing else. -/
theorem storeAtoms_plain (F : State → Nat → List (Nat × Byte) → State) (s : State) (pa : Nat) (bs : List Byte)
    (hF : ∀ u a l, NearHbm s u → (∃ q, pa ≤ q ∧ q < pa + bs.length ∧ q / 32 = a) → (∀ e ∈ l, e.1 / 32 = a) → l ≠ [] →
      NearHbm u (F u a l) ∧ ∀ q, (F u a l).rd8 q = (u.wrHbm none l).rd8 q) :
    let t := (byAtom (placed pa bs)).foldl (fun s a => F s a.1 a.2) s
    NearHbm s t ∧ ∀ q, t.rd8 q = if pa ≤ q ∧ q < pa + bs.length then bs.getD (q - pa) 0 else s.rd8 q := by
  have key : ∀ (L : List Nat) (u : State), (∀ a ∈ L, ∃ q, pa ≤ q ∧ q < pa + bs.length ∧ q / 32 = a) → NearHbm s u →
      let t := (L.map (fun a => (a, (placed pa bs).filter (fun e => e.1 / 32 == a)))).foldl (fun s a => F s a.1 a.2) u
      NearHbm s t ∧ ∀ q, t.rd8 q = if (pa ≤ q ∧ q < pa + bs.length) ∧ q / 32 ∈ L then bs.getD (q - pa) 0 else u.rd8 q := by
    intro L
    induction L with
    | nil => intro u _ hu; exact ⟨hu, by simp⟩
    | cons a L ih =>
      intro u hL hu
      obtain ⟨q0, hq1, hq2, hq3⟩ := hL a (by simp)
      obtain ⟨n1, n2⟩ := hF u a ((placed pa bs).filter (fun e => e.1 / 32 == a)) hu ⟨q0, hq1, hq2, hq3⟩
        (fun e he => by rw [List.mem_filter] at he; simpa using he.2)
        (List.ne_nil_of_mem (a := (q0, bs.getD (q0 - pa) 0))
          (by rw [List.mem_filter]; exact ⟨(placed_iff _ _ _ _).2 ⟨hq1, hq2, rfl⟩, by simpa using hq3⟩))
      rw [List.map_cons, List.foldl_cons]
      obtain ⟨i1, i2⟩ := ih (F u a ((placed pa bs).filter (fun e => e.1 / 32 == a))) (fun b hb => hL b (by simp [hb])) (hu.trans n1)
      refine ⟨i1, fun q => ?_⟩
      rw [i2 q, n2 q]
      by_cases hq : pa ≤ q ∧ q < pa + bs.length
      · by_cases hm : q / 32 ∈ L
        · rw [if_pos ⟨hq, hm⟩, if_pos ⟨hq, by simp [hm]⟩]
        · rw [if_neg (fun h => hm h.2)]
          by_cases ha : q / 32 = a
          · rw [if_pos ⟨hq, by simp [ha]⟩]
            apply rd8_wrHbm_mem
            · intro e he heq
              rw [List.mem_filter] at he
              obtain ⟨x, v⟩ := e
              dsimp only at heq; subst heq
              exact ((placed_iff _ _ _ _).1 he.1).2.2.symm
            · refine ⟨(q, bs.getD (q - pa) 0), ?_, rfl⟩
              rw [List.mem_filter]
              exact ⟨(placed_iff _ _ _ _).2 ⟨hq.1, hq.2, rfl⟩, by simpa using ha⟩
          · rw [if_neg (fun h => by rcases List.mem_cons.1 h.2 with h | h; exacts [ha h, hm h])]
            apply State.rd8_wrHbm_ne
            intro e he heq
            rw [List.mem_filter] at he
            apply ha; rw [← heq]; simpa using he.2
      · rw [if_neg (fun h => hq h.1), if_neg (fun h => hq h.1)]
        apply State.rd8_wrHbm_ne
        intro e he heq
        rw [List.mem_filter] at he
        obtain ⟨x, v⟩ := e
        dsimp only at heq; subst heq
        have := (placed_iff _ _ _ _).1 he.1
        exact hq ⟨this.1, this.2.1⟩
  have hat : ∀ a, a ∈ ((placed pa bs).map (fun e => e.1 / 32)).dedup ↔ ∃ q, pa ≤ q ∧ q < pa + bs.length ∧ q / 32 = a := by
    intro a
    rw [List.mem_dedup, List.mem_map]
    constructor
    · rintro ⟨⟨x, v⟩, he, rfl⟩
      have := (placed_iff _ _ _ _).1 he
      exact ⟨x, this.1, this.2.1, rfl⟩
    · rintro ⟨q, h1, h2, rfl⟩
      exact ⟨(q, bs.getD (q - pa) 0), (placed_iff _ _ _ _).2 ⟨h1, h2, rfl⟩, rfl⟩
  obtain ⟨k1, k2⟩ := key ((placed pa bs).map (fun e => e.1 / 32)).dedup s (fun a ha => (hat a).1 ha) (NearHbm.refl s)
  refine ⟨k1, fun q => (k2 q).trans ?_⟩
  by_cases hq : pa ≤ q ∧ q < pa + bs.length
  · rw [if_pos ⟨hq, (hat _).2 ⟨q, hq.1, hq.2, rfl⟩⟩, if_pos hq]
  · rw [if_neg (fun h => hq h.1), if_neg hq]

/-- R229, R231: the physical address that translation gives keeps the offset in the 64 KiB page. -/
theorem translate_offset (s : State) (c asid : Nat) (va : Word) (w : Want) (p : Page) (h : s.translate c asid va w = .ok p) :
    p.pa % 65536 = va.toNat % 65536 := by
  have lp : ∀ (e l v : Nat), 16 ≤ l → (leafPage e l v).pa % 65536 = v % 65536 := by
    intro e l v hl
    obtain ⟨k, rfl⟩ := Nat.exists_eq_add_of_le hl
    have hd : (65536 : Nat) ∣ 2 ^ (16 + k) := ⟨2 ^ k, by rw [Nat.pow_add]⟩
    unfold leafPage
    dsimp only
    rw [Nat.add_mod, Nat.mod_eq_zero_of_dvd (Dvd.dvd.mul_left hd _), Nat.zero_add, Nat.mod_mod, Nat.mod_mod_of_dvd _ hd]
  have lb : ∀ l, 16 ≤ leafBits l := by intro l; unfold leafBits; split; · omega
                                       · split <;> omega
  have lf : ∀ p, s.leafFor c asid va w = .ok p → p.pa % 65536 = va.toNat % 65536 := by
    intro p hp
    unfold State.leafFor at hp
    dsimp only at hp
    split at hp
    · rename_i q hq
      rw [← Except.ok.inj hp]
      split at hq
      · simp at hq
      · have hm := List.mem_of_getElem? hq
        rw [List.mem_filter, List.mem_filterMap] at hm
        obtain ⟨⟨t, _, ht⟩, _⟩ := hm
        unfold TlbEntry.page? at ht
        dsimp only at ht
        split at ht
        · simp at ht
        · split at ht
          · rw [← Option.some.inj ht]; exact lp _ _ _ (lb _)
          · split at ht
            · rw [← Option.some.inj ht]; exact lp _ _ _ (by have := lb t.level; omega)
            · simp at ht
    · split at hp
      · simp at hp
      · rw [← Except.ok.inj hp]; exact lp _ _ _ (lb _)
  unfold State.translate at h
  split at h
  · simp at h
  · split at h
    · simp at h
    · rename_i q hq
      cases w <;> dsimp only at h <;>
        (split at h
         · simp at h
         · split at h
           · simp at h
           · split at h
             · simp at h
             · rw [← Except.ok.inj h]; exact lf q hq)

/-- The atoms of a plain access: of this package, not poisoned and not offline. -/
theorem Plain.atoms {s : State} {va : Word} {n : Nat} {w : Want} {pa : Nat} (h : Plain s va n w pa) :
    ∀ q, pa ≤ q → q < pa + n → paPkg (q / 32 * 32) = Config.pkg ∧ smGet (fun _ => false) s.poison (q / 32) = false ∧
      s.offlineAt (q / 32 * 32) = false := by
  obtain ⟨p, hp, e, _, _⟩ := h.page
  have ho := translate_offset s _ _ _ _ _ hp
  have h1 := h.onePage
  rw [e] at ho
  intro q h2 h3
  constructor
  · rw [← h.here]
    unfold paPkg bits
    have e1 : q / 32 * 32 / 65536 = pa / 65536 := by omega
    have e2 : ∀ x : Nat, x / 2 ^ 46 = x / 65536 / 2 ^ 30 := by intro x; omega
    rw [e2, e2 pa, e1]
  · have hr := h.readable
    unfold State.unreadable at hr
    rw [List.any_eq_false] at hr
    have := hr (q / 32 - pa / 32) (by rw [List.mem_range]; omega)
    have e3 : pa / 32 + (q / 32 - pa / 32) = q / 32 := by omega
    rw [e3] at this
    simpa using this

/-- R245, R247: bytes stored at home by a plain access are those bytes and nothing else, whatever the path. -/
theorem writePiece_plain (s : State) (w : Who) (via : Via) (sys : Bool) (p : Page) (bs : List Byte) (va : Word) (k : Want)
    (hc : w.core = s.cur.1) (h : Plain s va bs.length k p.pa) (h1 : p.host = false) (h2 : p.window = false) :
    NearHbm s (s.writePiece w via sys p (placed p.pa bs)) ∧
    ∀ q, (s.writePiece w via sys p (placed p.pa bs)).rd8 q = if p.pa ≤ q ∧ q < p.pa + bs.length then bs.getD (q - p.pa) 0 else s.rd8 q := by
  have e : s.writePiece w via sys p (placed p.pa bs) = (byAtom (placed p.pa bs)).foldl (fun s a => s.storeAtom w via p.ord a.1 a.2) s := by
    unfold State.writePiece
    simp [h1, h2]
  rw [e]
  refine storeAtoms_plain (fun s a l => s.storeAtom w via p.ord a l) s p.pa bs ?_
  rintro u a l ⟨⟨hh, kk, pp, ww, rr, oo, eu⟩, hpo⟩ ⟨q, hq1, hq2, rfl⟩ hl hne
  obtain ⟨a1, a2, a3⟩ := h.atoms q hq1 hq2
  refine storeAtom_plain u w via p.ord _ l hl hne a1 (by rw [eu]; exact h.noHeld) (by rw [eu]; exact h.atOnce)
    (by rw [eu, hc]; exact h.noLine) (by rw [eu]; exact h.noTile) ?_ (by rw [eu]; exact a3)
  by_contra hx
  rw [Bool.not_eq_false] at hx
  rw [hpo _ hx] at a2; simp at a2

/-- R233: with results at once no walk is left in a TLB. -/
theorem walkDues_atOnce (s : State) (c asid : Nat) (vas : List Word) (h : s.relaxed = false) : s.walkDues c asid vas = s := by
  simp [State.walkDues, h]

theorem piecesOf_one (va : Word) (n : Nat) (h : va.toNat % 65536 + n ≤ 65536) : piecesOf va n = [(va, n)] := by
  unfold piecesOf
  dsimp only
  rw [if_pos (by omega)]

/-- R245, R231: a plain global store of the issuing slot. -/
theorem writeG_plain (s : State) (w : Who) (via : Via) (sys : Bool) (bs : List Byte) (pa : Nat) (hc : w.core = s.cur.1)
    (ha : w.asid = s.me.asid.toNat) (h : Plain s w.va bs.length .write pa) :
    ∃ u, s.writeG w via sys bs = .ok u ∧ NearHbm s u ∧
      ∀ q, u.rd8 q = if pa ≤ q ∧ q < pa + bs.length then bs.getD (q - pa) 0 else s.rd8 q := by
  obtain ⟨p, hp, e, h1, h2⟩ := h.page
  subst e
  obtain ⟨n1, n2⟩ := writePiece_plain s { w with va := w.va } via sys p bs w.va .write hc h h1 h2
  refine ⟨_, ?_, n1, n2⟩
  have hh := h.notHeld true
  unfold State.writeG State.pagesOf
  rw [piecesOf_one _ _ h.onePage]
  simp only [List.mapM_cons, List.mapM_nil]
  rw [hc, ha, hp]
  simp [State.noHostLine, State.postRoom, State.walkDues, h.atOnce, h.noHeld, h1, h2, hh, Except.map, bind, Except.bind, pure, Except.pure]
  rw [← hc, ← ha]

/-- R248: with nothing held no access waits for a strongly ordered store. -/
theorem Plain.strong {s : State} {va : Word} {n : Nat} {w : Want} {pa : Nat} (h : Plain s va n w pa) (a : Word) (m : Nat) (k : Want) :
    s.strongWaits a m k = false := by
  simp [State.strongWaits, h.noHeld, h.noOut]

/-- R170, R245: a plain global store of the issuing slot, as its instruction makes it. -/
theorem writeMem_plain (s : State) (a : Word) (rel : Scope) (bs : List Byte) (pa : Nat) (h : Plain s a bs.length .write pa) :
    ∃ u, s.writeMem .glob a rel bs = .ok u ∧ NearHbm s u ∧
      ∀ q, u.rd8 q = if pa ≤ q ∧ q < pa + bs.length then bs.getD (q - pa) 0 else s.rd8 q := by
  unfold State.writeMem
  simp only [h.strong a bs.length .write, Bool.false_eq_true, if_false]
  exact writeG_plain s (s.who a rel) .slot s.isSystem bs pa rfl rfl h

/-- R245: a plain global load of the issuing slot. -/
theorem readG_plain (s : State) (va : Word) (n pa : Nat) (h : Plain s va n .read pa) :
    s.readG s.cur.1 s.me.asid.toNat va n = .ok ((List.range n).map (fun i => s.rd8 (pa + i))) := by
  obtain ⟨p, hp, e, h1, h2⟩ := h.page
  subst e
  have hl : (s.coreOf s.cur.1).cacheLines = [] := h.noLine
  have hk : s.pkgDown (paPkg p.pa) = false := by simp [State.pkgDown, h.here]
  have hs : ∀ b i, s.seenByte s.cur.1 b (p.pa + i) = s.rd8 (p.pa + i) := by
    intro b i
    unfold State.seenByte State.lineOf? State.outByte
    rw [h.noBuffer, hl, h.noOut]
    simp [bufByte]
  have hf : ∀ lo m, p.pa ≤ lo → lo + m ≤ p.pa + n → 0 < m → s.homeFault s.cur.1 va lo m = none := by
    intro lo m g1 g2 g3
    have q1 : paPkg lo = Config.pkg := by
      have := (h.atoms lo g1 (by omega)).1
      rw [← this]; unfold paPkg bits
      have e2 : ∀ x : Nat, x / 2 ^ 46 = x / 32 / 2 ^ 41 := by intro x; omega
      have e1 : lo / 32 * 32 / 32 = lo / 32 := by omega
      rw [e2, e2 (lo / 32 * 32), e1]
    have q2 : s.unreadable lo m = false := by
      unfold State.unreadable
      rw [List.any_eq_false]
      intro i hi
      rw [List.mem_range] at hi
      have hq := h.atoms (max lo ((lo / 32 + i) * 32)) (by omega) (by omega)
      have e3 : max lo ((lo / 32 + i) * 32) / 32 = lo / 32 + i := by omega
      rw [e3] at hq
      simp [hq.2.1, hq.2.2]
    have q3 : s.hostLine s.cur.1 lo m false = none := by
      have hh := h.notHeld false
      unfold State.hostLine at hh ⊢
      rw [if_neg (by rw [h.here]; simp)] at hh
      rw [if_neg (by rw [q1]; simp)]
      rw [List.findSome?_eq_none_iff] at hh ⊢
      intro i hi
      rw [List.mem_range] at hi
      have := hh (lo / 64 - p.pa / 64 + i) (by rw [List.mem_range]; omega)
      have e3 : p.pa / 64 + (lo / 64 - p.pa / 64 + i) = lo / 64 + i := by omega
      rw [e3] at this
      exact this
    unfold State.homeFault
    rw [q1, q2, q3]
    simp [State.pkgDown]
  have hp1 : s.readPiece s.cur.1 false p va n = .ok ((List.range n).map (fun i => s.rd8 (p.pa + i))) := by
    unfold State.readPiece
    simp only [h1, h2, hs, Bool.false_eq_true, if_false]
    have hx : ∀ l : List (Nat × Nat), (∀ x ∈ l, p.pa ≤ x.1 ∧ x.1 + x.2 ≤ p.pa + n ∧ 0 < x.2) →
        l.findSome? (fun x => s.homeFault s.cur.1 va x.1 x.2) = none := by
      intro l hl
      rw [List.findSome?_eq_none_iff]
      intro x hx
      obtain ⟨g1, g2, g3⟩ := hl x hx
      exact hf _ _ g1 g2 g3
    rcases Nat.eq_zero_or_pos n with rfl | hn
    · have hz : (if (p.cache && !false) = true then
          (lineParts p.pa 0).filter (fun x => (s.lineOf? s.cur.1 (x.1 / 64)).isNone) else [(p.pa, 0)]).findSome?
            (fun x => s.homeFault s.cur.1 va x.1 x.2) = none := by
        have h0 : ∀ lo, lo = p.pa → s.homeFault s.cur.1 va lo 0 = none := by
          rintro lo rfl
          unfold State.homeFault
          rw [h.here, h.readable, h.notHeld false]
          simp [State.pkgDown]
        rw [List.findSome?_eq_none_iff]
        intro x hx
        split at hx
        · rw [List.mem_filter] at hx
          have := hx.1
          unfold lineParts at this
          rw [List.mem_map] at this
          obtain ⟨i, hi, rfl⟩ := this
          rw [List.mem_range] at hi
          have e : Nat.min (p.pa + 0) ((p.pa / 64 + i + 1) * 64) - Nat.max p.pa ((p.pa / 64 + i) * 64) = 0 := by
            show min (p.pa + 0) _ - max p.pa _ = 0; omega
          have e2 : Nat.max p.pa ((p.pa / 64 + i) * 64) = p.pa := by show max p.pa _ = p.pa; omega
          dsimp only
          rw [e]
          exact h0 _ e2
        · rw [List.mem_singleton] at hx; subst hx; exact h0 _ rfl
      rw [hz]
    · rw [hx]
      intro x hx
      split at hx
      · rw [List.mem_filter] at hx
        have := hx.1
        unfold lineParts at this
        rw [List.mem_map] at this
        obtain ⟨i, hi, rfl⟩ := this
        rw [List.mem_range] at hi
        dsimp only
        rcases Nat.le_total p.pa ((p.pa / 64 + i) * 64) with hm | hm <;>
          rcases Nat.le_total (p.pa + n) ((p.pa / 64 + i + 1) * 64) with hk' | hk' <;>
          simp only [show ∀ a b : Nat, Nat.max a b = max a b from fun _ _ => rfl, show ∀ a b : Nat, Nat.min a b = min a b from fun _ _ => rfl,
            Nat.max_eq_right hm, Nat.max_eq_left hm, Nat.min_eq_left hk', Nat.min_eq_right hk'] <;> omega
      · rw [List.mem_singleton] at hx; subst hx; dsimp only; omega
  unfold State.readG State.pagesOf
  rw [piecesOf_one _ _ h.onePage]
  simp only [List.mapM_cons, List.mapM_nil]
  rw [hp]
  simp [Except.map, bind, Except.bind, pure, Except.pure, hp1]

/-- R238, R259: a plain global atomic of the issuing slot is performed at once, after its acquire has met the tag of its atom: it
answers the old value, and the new one is in memory. -/
theorem atomicG_plain (s : State) (w : Who) (ret : Bool) (n pa : Nat) (op : RmwOp) (r : Reply) (hc : w.core = s.cur.1)
    (ha : w.asid = s.me.asid.toNat) (h : Plain s w.va n .atomic pa) (h32 : ∀ q, pa ≤ q → q < pa + n → q / 32 = pa / 32) (hn : 0 < n) :
    let old := wordOfBytes ((List.range n).map (fun i => s.rd8 (pa + i)))
    let m := ({ s with order := s.order + 1 } : State).missAcq w.core pa r.acq
    ∃ u, s.atomicG w ret n op r = .ok (.done u old (op.eval old).1.isSome (op.eval old).2) ∧ NearHbm m u ∧
      ∀ q, u.rd8 q = match (op.eval old).1 with
        | some v => if pa ≤ q ∧ q < pa + n then (bytesOf n v).getD (q - pa) 0 else m.rd8 q
        | none => m.rd8 q := by
  obtain ⟨p, hp, e, h1, h2⟩ := h.page
  subst e
  intro old m
  have hk : s.pkgDown (paPkg p.pa) = false := by simp [State.pkgDown, h.here]
  have hl : (s.coreOf s.cur.1).cacheLines = [] := h.noLine
  have hpage : s.atomicPage w ret n = .ok (some p) := by
    unfold State.atomicPage
    rw [hc, ha, hp]
    simp [bind, Except.bind, pure, Except.pure, h1, h2, hk, h.readable, h.notHeld true]
  have hd : ({ s with order := s.order + 1 } : State).cacheDrop w.core [(p.pa, 0)] = { s with order := s.order + 1 } := by
    unfold State.cacheDrop
    rw [show (({ s with order := s.order + 1 } : State).coreOf w.core).cacheLines = [] from by rw [hc]; exact hl]; rfl
  have hf : ({ s with order := s.order + 1 } : State).homeFate p.pa = .now := homeFate_plain _ _ h.here h.noHeld h.noTile
  have hm : m.hbm = s.hbm ∧ (m.poison = s.poison ∧ ∀ a, m.offlineAt a = s.offlineAt a) := by
    show (State.missAcq _ _ _ _).hbm = _ ∧ (State.missAcq _ _ _ _).poison = _ ∧ ∀ a, (State.missAcq _ _ _ _).offlineAt a = _
    unfold State.missAcq
    split
    · exact ⟨rfl, rfl, fun _ => rfl⟩
    · unfold State.scopeMissAt
      split
      · exact ⟨rfl, rfl, fun _ => rfl⟩
      · split
        · exact ⟨rfl, rfl, fun _ => rfl⟩
        · split <;> exact ⟨rfl, rfl, fun _ => rfl⟩
  have ho : m.rdNat p.pa n = old := by
    show wordOfBytes ((List.range n).map fun i => smGet (fun _ => 0) m.hbm (p.pa + i)) = old
    rw [hm.1]
    rfl
  obtain ⟨a1, a2, a3⟩ := h.atoms p.pa (le_refl _) (by omega)
  obtain ⟨wn, hwn⟩ : ∃ wn, s.atomicG w ret n op r = .ok (.done
      (match (op.eval old).1 with | some v => m.writeAtom wn (p.pa / 32) (placed p.pa (bytesOf n v)) | none => m)
      old (op.eval old).1.isSome (op.eval old).2) := by
    refine ⟨{ w with num := s.order, loose := p.ord == 2, strong := p.ord == 0 }, ?_⟩
    unfold State.atomicG
    rw [hpage]
    simp only [walkDues_atOnce _ _ _ _ h.atOnce, h1, h2, Bool.false_eq_true, if_false]
    rw [if_neg (c := s.relaxed = true) (by simp [h.atOnce]), hd, hf]
    dsimp only
    unfold State.rmwAt
    dsimp only
    rw [show State.missAcq { s with order := s.order + 1 } w.core p.pa r.acq = m from rfl, ho]
    all_goals (cases (op.eval old).1 <;> rfl)
  rw [hwn]
  refine ⟨_, rfl, ?_⟩
  cases hv : (op.eval old).1 with
  | none => exact ⟨NearHbm.refl m, fun q => rfl⟩
  | some v =>
    have hb := bytesOf_length n v
    obtain ⟨n1, n2⟩ := writeAtom_plain m wn (p.pa / 32) (placed p.pa (bytesOf n v)) (by rw [hm.2.1]; exact a2) (by rw [hm.2.2]; exact a3)
    refine ⟨n1, fun q => (n2 q).trans ?_⟩
    dsimp only
    split
    · rename_i hq
      refine rd8_wrHbm_mem none q _ _ _ ?_ ⟨(q, (bytesOf n v).getD (q - p.pa) 0), (placed_iff _ _ _ _).2 ⟨hq.1, by omega, rfl⟩, rfl⟩
      intro x hx hxe
      obtain ⟨a, b⟩ := x
      dsimp only at hxe; subst hxe
      exact ((placed_iff _ _ _ _).1 hx).2.2.symm
    · rename_i hq
      apply State.rd8_wrHbm_ne
      intro x hx hxe
      obtain ⟨a, b⟩ := x
      dsimp only at hxe; subst hxe
      have := (placed_iff _ _ _ _).1 hx
      exact hq ⟨this.1, by omega⟩

/-- R168: bytes of local memory written. -/
theorem smGet_placed (off : Nat) (bs : List Byte) (m : SMap Byte) (o : Nat) :
    smGet (fun _ => 0) ((placed off bs).foldl (fun m e => smSet (fun _ => 0) m e.1 e.2) m) o =
      if off ≤ o ∧ o < off + bs.length then bs.getD (o - off) 0 else smGet (fun _ => 0) m o := by
  have e : ∀ (l : List (Nat × Byte)) (s : State), (s.wrHbm none l).hbm = l.foldl (fun m e => smSet (fun _ => 0) m e.1 e.2) s.hbm := by
    intro l
    induction l with
    | nil => intro s; rfl
    | cons x t ih => intro s; exact ih (s.wr8 none x.1 x.2)
  have h := e (placed off bs) { State.reset with hbm := m }
  have h2 : smGet (fun _ => 0) ((placed off bs).foldl (fun m e => smSet (fun _ => 0) m e.1 e.2) m) o =
      (({ State.reset with hbm := m } : State).wrHbm none (placed off bs)).rd8 o := by rw [← h]; rfl
  rw [h2]
  split
  · rename_i hq
    refine rd8_wrHbm_mem none o _ _ _ ?_ ⟨(o, bs.getD (o - off) 0), (placed_iff _ _ _ _).2 ⟨hq.1, hq.2, rfl⟩, rfl⟩
    intro x hx hxe
    obtain ⟨a, b⟩ := x
    dsimp only at hxe; subst hxe
    exact ((placed_iff _ _ _ _).1 hx).2.2.symm
  · rename_i hq
    rw [State.rd8_wrHbm_ne]
    · rfl
    · intro x hx hxe
      obtain ⟨a, b⟩ := x
      dsimp only at hxe; subst hxe
      have := (placed_iff _ _ _ _).1 hx
      exact hq ⟨this.1, this.2.1⟩

/-- R167, R168: a local store of the issuing slot. -/
theorem writeL_wrote (s : State) (off : Nat) (bs : List Byte) (h : s.myCore.locBad off bs.length = false) :
    ∃ t, s.writeL s.cur.1 off bs = .ok t ∧ { t with cores := s.cores, watches := s.watches } = s ∧
      (∀ d, d ≠ s.cur.1 → t.coreOf d = s.coreOf d) ∧ { t.myCore with localMem := s.myCore.localMem, locPoison := s.myCore.locPoison } = s.myCore ∧
      ∀ o, smGet (fun _ => 0) t.myCore.localMem o =
        if off ≤ o ∧ o < off + bs.length then bs.getD (o - off) 0 else smGet (fun _ => 0) s.myCore.localMem o := by
  have h' : (s.coreOf s.cur.1).locBad off bs.length = false := h
  refine ⟨(s.modCore s.cur.1 (fun k => k.wrLoc (placed off bs))).fire
    (fun w => w.loc && w.core == s.cur.1 && decide (w.atom * 32 < off + bs.length ∧ off < w.atom * 32 + 32)), ?_, rfl, ?_, ?_, ?_⟩
  · unfold State.writeL; rw [h']; rfl
  · intro d hd; exact State.coreOf_modCore_ne s (fun k => k.wrLoc (placed off bs)) hd
  · have e : ∀ f : Watch → Bool, ((s.modCore s.cur.1 (fun k => k.wrLoc (placed off bs))).fire f).myCore = s.myCore.wrLoc (placed off bs) :=
      fun f => State.coreOf_modCore_self s s.cur.1 (fun k => k.wrLoc (placed off bs))
    rw [e]; rfl
  · have e : ∀ f : Watch → Bool, ((s.modCore s.cur.1 (fun k => k.wrLoc (placed off bs))).fire f).myCore = s.myCore.wrLoc (placed off bs) :=
      fun f => State.coreOf_modCore_self s s.cur.1 (fun k => k.wrLoc (placed off bs))
    intro o
    rw [e]; exact smGet_placed off bs s.myCore.localMem o

end Sys2Proof.Safety

namespace Sys2Proof.Safety
open Sys2Proof.Machine

/-- The issuing slot, its core's RETIRED, the mode of running, the tiles and every byte of memory are as before. -/
def Quiet (s t : State) : Prop :=
  t.cur = s.cur ∧ t.me = s.me ∧ t.myCore.retired = s.myCore.retired ∧ t.relaxed = s.relaxed ∧ t.tiles = s.tiles ∧ SameMemory s t ∧
  ∀ c o n, (t.coreOf c).locBad o n = (s.coreOf c).locBad o n

theorem Quiet.refl (s : State) : Quiet s s :=
  ⟨rfl, rfl, rfl, rfl, rfl, ⟨fun _ => rfl, fun _ => rfl, fun _ _ => rfl⟩, fun _ _ _ => rfl⟩

theorem Quiet.trans {s t u : State} (h : Quiet s t) (k : Quiet t u) : Quiet s u :=
  ⟨k.1.trans h.1, k.2.1.trans h.2.1, k.2.2.1.trans h.2.2.1, k.2.2.2.1.trans h.2.2.2.1, k.2.2.2.2.1.trans h.2.2.2.2.1,
    h.2.2.2.2.2.1.trans k.2.2.2.2.2.1, fun c o n => (k.2.2.2.2.2.2 c o n).trans (h.2.2.2.2.2.2 c o n)⟩

/-- A change that leaves the cores, memory, tiles and the issuing slot's number is quiet. -/
theorem Quiet.of_cores {s t : State} (h1 : t.cores = s.cores) (h2 : t.cur = s.cur) (h3 : t.relaxed = s.relaxed) (h4 : t.tiles = s.tiles)
    (h5 : t.hbm = s.hbm) (h6 : t.hostMem = s.hostMem) : Quiet s t := by
  have hc : ∀ c, t.coreOf c = s.coreOf c := fun c => by simp [State.coreOf, h1]
  have hm : t.myCore = s.myCore := by show t.coreOf t.cur.1 = s.coreOf s.cur.1; rw [h2, hc]
  refine ⟨h2, ?_, by rw [hm], h3, h4, ⟨fun pa => by simp [State.rd8, h5], fun o => by simp [hostCell, h6], fun c o => by simp [locByte, hc]⟩,
    fun c o n => by rw [hc]⟩
  show t.myCore.slotOf t.cur.2 = s.myCore.slotOf s.cur.2
  rw [hm, h2]

theorem due_quiet (s : State) (e : Instr) : Quiet s (s.due e) := Quiet.of_cores rfl rfl rfl rfl rfl rfl

/-- R239: dropping the cached lines of a core is quiet. -/
theorem dropLines_quiet (s : State) (c : Nat) : Quiet s (s.modCore c (fun k => { k with cacheLines := [] })) := by
  have hc : ∀ d, ((s.modCore c (fun k => { k with cacheLines := [] })).coreOf d).slots = (s.coreOf d).slots ∧
      ((s.modCore c (fun k => { k with cacheLines := [] })).coreOf d).localMem = (s.coreOf d).localMem ∧
      ((s.modCore c (fun k => { k with cacheLines := [] })).coreOf d).retired = (s.coreOf d).retired ∧
      ∀ o n, ((s.modCore c (fun k => { k with cacheLines := [] })).coreOf d).locBad o n = (s.coreOf d).locBad o n := by
    intro d
    by_cases h : d = c
    · subst h; rw [State.coreOf_modCore_self]; exact ⟨rfl, rfl, rfl, fun _ _ => rfl⟩
    · rw [State.coreOf_modCore_ne _ _ h]; exact ⟨rfl, rfl, rfl, fun _ _ => rfl⟩
  refine ⟨rfl, ?_, (hc _).2.2.1, rfl, rfl, ⟨fun _ => rfl, fun _ => rfl, fun d o => by simp [locByte, (hc d).2.1]⟩, fun d => (hc d).2.2.2⟩
  show smGet _ ((s.modCore c (fun k => { k with cacheLines := [] })).coreOf s.cur.1).slots s.cur.2 = smGet _ (s.coreOf s.cur.1).slots s.cur.2
  rw [(hc _).1]

theorem acquire_quiet (s : State) (c : Nat) (sc : Scope) : Quiet s (s.acquire c sc) := by
  unfold State.acquire
  split
  · exact Quiet.refl s
  · exact dropLines_quiet s c

theorem scopeMissAt_quiet (s : State) (c pa : Nat) : Quiet s (s.scopeMissAt c pa) := by
  unfold State.scopeMissAt
  split
  · exact Quiet.refl s
  · split
    · exact Quiet.refl s
    · split
      · exact Quiet.of_cores rfl rfl rfl rfl rfl rfl
      · exact due_quiet _ _

theorem missAcq_quiet (s : State) (c key : Nat) (acq : Scope) : Quiet s (s.missAcq c key acq) := by
  unfold State.missAcq
  split
  · exact Quiet.refl s
  · exact scopeMissAt_quiet _ _ _

theorem foldl_quiet {α : Type} (f : State → α → State) (h : ∀ s x, Quiet s (f s x)) : ∀ (l : List α) (s : State), Quiet s (l.foldl f s) := by
  intro l
  induction l with
  | nil => intro s; exact Quiet.refl s
  | cons x t ih => intro s; exact (h s x).trans (ih _)

/-- R253, R250: an acquire changes no register and no byte of memory. -/
theorem acquireOrd_quiet (s : State) (o : Order) (sp : Space) (n : Nat) (as : List Word) : Quiet s (s.acquireOrd o sp n as) := by
  unfold State.acquireOrd
  split
  · exact Quiet.refl s
  · exact (foldl_quiet (fun s a => s.scopeMissAt s.cur.1 (a * 32)) (fun s a => scopeMissAt_quiet s _ _) _ s).trans (acquire_quiet _ _ _)

/-- R249: a drain of a cluster's buffer that holds nothing changes only the buffers' list. -/
theorem drainCluster_empty (s : State) (cl : Nat) (h : smGet (fun _ => []) s.clusterBuf cl = []) :
    s.drainCluster cl = { s with clusterBuf := smSet (fun _ => []) s.clusterBuf cl [] } := by
  unfold State.drainCluster State.bufOf
  rw [h]
  rfl

/-- R249: with nothing in the cluster's buffer and nothing in the way, a release goes straight on to its access. -/
theorem withRelease_plain (s : State) (o : Order) (f : State → State) (h : NoPending s o)
    (hb : smGet (fun _ => []) s.clusterBuf (clusterOf s.cur.1) = []) :
    ∃ b, s.withRelease (relScope o) false f = f { s with clusterBuf := b } ∧ smGet (fun _ => []) b (clusterOf s.cur.1) = [] := by
  unfold State.withRelease
  split
  · exact ⟨s.clusterBuf, rfl, hb⟩
  · rename_i hne
    have hrel : o.rel = true := by
      by_contra hx; rw [Bool.not_eq_true] at hx; simp [relScope, hx] at hne
    have hsc : relScope o = o.scope := by simp [relScope, hrel]
    obtain ⟨p1, p2, p3⟩ := h hrel
    have hd : ∃ b, s.releaseDrain s.cur.1 o.scope = { s with clusterBuf := b } ∧ smGet (fun _ => []) b (clusterOf s.cur.1) = [] := by
      cases o.scope <;> simp only [State.releaseDrain] <;>
        first
          | exact ⟨s.clusterBuf, rfl, hb⟩
          | exact ⟨_, drainCluster_empty s _ hb, by simp⟩
    obtain ⟨b, hd, hb'⟩ := hd
    refine ⟨b, ?_, hb'⟩
    have hp : s.releasePrep o.scope false = ({ s with clusterBuf := b }, false) := by
      unfold State.releasePrep
      simp only [Bool.false_and, Bool.false_eq_true, if_false]
      rw [hd]
      have hh : State.heldOf { s with clusterBuf := b } s.cur.1 s.cur.2 ((State.myAct { s with clusterBuf := b }).map (·.serial) |>.getD 0) false = false := by
        simp [State.heldOf, p2]
      rw [hh]
      have hq : (o.scope == Scope.pod && (!((State.myAct { s with clusterBuf := b }).map (·.posted) |>.getD []).isEmpty ||
          s.remoteOut.any (fun x => s.strongOwn x.who))) = false := by
        by_cases hpod : o.scope = .pod
        · have : (State.myAct { s with clusterBuf := b }) = s.me.act := rfl
          rw [this, (p3 hpod).1, List.any_eq_false.2 (fun x hx => by simp [(p3 hpod).2 x hx])]; simp
        · simp [hpod]
      change ((_ : State), false || (o.scope == Scope.pod && (!((State.myAct { s with clusterBuf := b }).map (·.posted) |>.getD []).isEmpty ||
          s.remoteOut.any (fun x => s.strongOwn x.who)))) = _
      rw [hq]
      rfl
    rw [hsc, hp]
    dsimp only
    have : State.myAct { s with clusterBuf := b } = s.me.act := rfl
    rw [this, p1]
    rfl

theorem walk_buf (s : State) (b : SMap (List BufStore)) (c : Nat) (v : Word) : ∀ f l base,
    State.walk { s with clusterBuf := b } c v f l base = s.walk c v f l base := by
  intro f
  induction f with
  | zero => intro l base; rfl
  | succ f ih =>
    intro l base
    have hr : ∀ x n, State.walkRead { s with clusterBuf := b } c v x n = s.walkRead c v x n := fun _ _ => rfl
    simp only [State.walk, hr, ih]

theorem rootOf_buf (s : State) (b : SMap (List BufStore)) (c asid : Nat) (v : Word) :
    State.rootOf { s with clusterBuf := b } c asid v = s.rootOf c asid v := by
  have hr : ∀ x n, State.walkRead { s with clusterBuf := b } c v x n = s.walkRead c v x n := fun _ _ => rfl
  simp only [State.rootOf, hr]

theorem walkVa_buf (s : State) (b : SMap (List BufStore)) (c asid : Nat) (v : Word) :
    State.walkVa { s with clusterBuf := b } c asid v = s.walkVa c asid v := by
  simp only [State.walkVa, rootOf_buf, walk_buf]

theorem translate_buf (s : State) (b : SMap (List BufStore)) (c asid : Nat) (v : Word) (k : Want) :
    State.translate { s with clusterBuf := b } c asid v k = s.translate c asid v k := by
  have hl : State.leafFor { s with clusterBuf := b } c asid v k = s.leafFor c asid v k := by
    simp only [State.leafFor, walkVa_buf]
  simp only [State.translate, hl]

theorem translate_cores (s : State) (k : SMap Core) (l : List Instr) (e : Nat) (ht : s.tlb = []) (c asid : Nat) (v : Word) (w : Want) :
    State.translate { s with cores := k, agenda := l, choice := e } c asid v w = s.translate c asid v w := by
  have hr : ∀ x n, State.walkRead { s with cores := k, agenda := l, choice := e } c v x n = s.walkRead c v x n := fun _ _ => rfl
  have hw : ∀ f n base, State.walk { s with cores := k, agenda := l, choice := e } c v f n base = s.walk c v f n base := by
    intro f
    induction f with
    | zero => intro n base; rfl
    | succ f ih => intro n base; simp only [State.walk, hr, ih]
  have ho : State.rootOf { s with cores := k, agenda := l, choice := e } c asid v = s.rootOf c asid v := by simp only [State.rootOf, hr]
  have hv : State.walkVa { s with cores := k, agenda := l, choice := e } c asid v = s.walkVa c asid v := by simp only [State.walkVa, ho, hw]
  have hl : State.leafFor { s with cores := k, agenda := l, choice := e } c asid v w = s.leafFor c asid v w := by
    simp only [State.leafFor, hv]
    simp [ht]
  simp only [State.translate, hl]

theorem mapM_congr {α β ε : Type} (f g : α → Except ε β) : ∀ l : List α, (∀ x ∈ l, f x = g x) → l.mapM f = l.mapM g := by
  intro l
  induction l with
  | nil => intro _; rfl
  | cons y t ih =>
    intro hl
    simp only [List.mapM_cons]
    rw [hl y (by simp), ih (fun z hz => hl z (by simp [hz]))]

/-- R173, R182: what an engine reads of global memory outside the device register window lies outside the cores. -/
theorem readEng_cores (s : State) (k : SMap Core) (l : List Instr) (e : Nat) (htlb : s.tlb = []) (c asid : Nat) (a : Word) (n : Nat)
    (h : ∀ x ∈ pageChunks a n, ∀ p, s.translate c asid x.1 .read = .ok p → p.window = false) :
    State.readEng { s with cores := k, agenda := l, choice := e } c asid true a n = s.readEng c asid true a n := by
  have hp : ∀ (x : Word × Nat) (p : Page), p.window = false → State.readPiece { s with cores := k, agenda := l, choice := e } c true p x.1 x.2 = s.readPiece c true p x.1 x.2 := by
    intro x p hw
    have hf : ∀ va q m, State.homeFault { s with cores := k, agenda := l, choice := e } c va q m = s.homeFault c va q m := fun _ _ _ => rfl
    have hs : ∀ q, State.seenByte { s with cores := k, agenda := l, choice := e } c false q = s.seenByte c false q := fun _ => rfl
    simp only [State.readPiece, hw, Bool.not_true, Bool.and_false, Bool.false_eq_true, if_false, hf, hs]
    rfl
  have hm : ∀ l : List (Word × Nat), (∀ x ∈ l, ∀ p, s.translate c asid x.1 .read = .ok p → p.window = false) →
      ∀ ps, l.mapM (fun x => (s.translate c asid x.1 .read).map (fun p => (p, x.1, x.2))) = .ok ps → ∀ y ∈ ps, y.1.window = false := by
    intro l
    induction l with
    | nil => intro _ ps h; simp [pure, Except.pure] at h; subst h; simp
    | cons x t ih =>
      intro hl ps he
      rw [List.mapM_cons] at he
      cases hx : s.translate c asid x.1 .read with
      | error e => rw [hx] at he; simp [Except.map, bind, Except.bind] at he
      | ok p =>
        rw [hx] at he
        cases ht : t.mapM (fun x => (s.translate c asid x.1 .read).map (fun p => (p, x.1, x.2))) with
        | error e => rw [ht] at he; simp [Except.map, bind, Except.bind] at he
        | ok qs =>
          rw [ht] at he
          simp [Except.map, bind, Except.bind, pure, Except.pure] at he
          subst he
          intro y hy
          rcases List.mem_cons.1 hy with rfl | hy
          · exact hl x (by simp) p hx
          · exact ih (fun z hz => hl z (by simp [hz])) qs ht y hy
  unfold State.readEng
  by_cases hn : n = 0
  · simp only [hn, if_true]
  · simp only [hn, if_false, Bool.not_true, Bool.false_eq_true, translate_cores s k l e htlb]
    cases he : (pageChunks a n).mapM (fun x => (s.translate c asid x.1 .read).map (fun p => (p, x.1, x.2))) with
    | error e => simp only [bind, Except.bind]
    | ok ps =>
      have hw := hm _ h ps he
      simp only [bind, Except.bind]
      rw [mapM_congr _ (fun x : Page × Word × Nat => s.readPiece c true x.1 x.2.1 x.2.2) ps (fun y hy => hp (y.2.1, y.2.2) y.1 (hw y hy))]

/-- A plain access stays plain when the buffers of other clusters change. -/
theorem Plain.buf {s : State} {va : Word} {n : Nat} {w : Want} {pa : Nat} (h : Plain s va n w pa) (b : SMap (List BufStore))
    (hb : smGet (fun _ => []) b (clusterOf s.cur.1) = []) : Plain { s with clusterBuf := b } va n w pa := by
  refine ⟨h.onePage, ?_, h.here, ?_, ?_, h.noTile, h.noHeld, h.noOut, hb, h.noLine, h.atOnce⟩
  · obtain ⟨p, hp⟩ := h.page
    exact ⟨p, (translate_buf s b _ _ va w).trans hp.1, hp.2⟩
  · have e : State.unreadable { s with clusterBuf := b } pa n = s.unreadable pa n := by simp only [State.unreadable, State.offlineAt]
    rw [e]; exact h.readable
  · intro inv
    have e : State.hostLine { s with clusterBuf := b } s.cur.1 pa n inv = s.hostLine s.cur.1 pa n inv := by simp only [State.hostLine]
    exact e.trans (h.notHeld inv)

/-- A change of HBM, poison, watches and buffers is quiet but for memory. -/
theorem NearHbm.facts {s t : State} (h : NearHbm s t) : t.cur = s.cur ∧ t.me = s.me ∧ t.myCore = s.myCore ∧ t.relaxed = s.relaxed ∧
    (∀ off, hostCell t off = hostCell s off) ∧ (∀ c off, locByte t c off = locByte s c off) ∧ t.deferred = s.deferred ∧
    t.clusterBuf = s.clusterBuf ∧ t.det = s.det := by
  obtain ⟨⟨h, k, p, w, r, o, e⟩, _⟩ := h
  subst e
  exact ⟨rfl, rfl, rfl, rfl, fun _ => rfl, fun _ _ => rfl, rfl, rfl, rfl⟩

end Sys2Proof.Safety
end

