-- ==== Sys2Proof/Laws/PerInstr.lean ====
section
/-! SUPPORT. The round trip of the encoding, one lemma per constructor: the opcode and the fields that the encoder writes for a
well-formed instruction name that instruction. -/
namespace Sys2Proof.Laws.RoundTrip

set_option Elab.async false
set_option linter.unusedSimpArgs false
set_option linter.unnecessarySeqFocus false
set_option linter.unreachableTactic false
set_option linter.unusedTactic false

/-- R36 to R45: the fields written for a well-formed instruction read as that instruction. -/
def Statement (i : Instr) : Prop := wellFormed i = true → ∀ f, encodeFields i = some f → candidate f = some i

theorem nop (g) : Statement (.nop g) := by
  intro hw fs h; (simp only [encodeFields, encAlu, encV1, encV2, Option.some.injEq] at h; subst h; simp [candidate, cand0, -Fin.ofNat_eq_cast])
theorem trap (g noretry imm) : Statement (.trap g noretry imm) := by
  intro hw fs h; (simp only [encodeFields, encAlu, encV1, encV2, Option.some.injEq] at h; subst h; simp [candidate, cand0, -Fin.ofNat_eq_cast])
theorem brk (g code) : Statement (.brk g code) := by
  intro hw fs h; (simp only [encodeFields, encAlu, encV1, encV2, Option.some.injEq] at h; subst h; simp [candidate, cand0, -Fin.ofNat_eq_cast])
theorem resume (g d a) : Statement (.resume g d a) := by
  intro hw fs h; (simp only [encodeFields, encAlu, encV1, encV2, Option.some.injEq] at h; subst h; simp [candidate, cand0, -Fin.ofNat_eq_cast])
theorem resumeAbort (g d a) : Statement (.resumeAbort g d a) := by
  intro hw fs h; (simp only [encodeFields, encAlu, encV1, encV2, Option.some.injEq] at h; subst h; simp [candidate, cand0, -Fin.ofNat_eq_cast])
theorem mfsr (g d n) : Statement (.mfsr g d n) := by
  intro hw fs h; (simp only [encodeFields, encAlu, encV1, encV2, Option.some.injEq] at h; subst h; simp [candidate, cand0, -Fin.ofNat_eq_cast])
theorem mtsr (g n a) : Statement (.mtsr g n a) := by
  intro hw fs h; (simp only [encodeFields, encAlu, encV1, encV2, Option.some.injEq] at h; subst h; simp [candidate, cand0, -Fin.ofNat_eq_cast])
theorem wait (g cond d a b c imm sp o) : Statement (.wait g cond d a b c imm sp o) := by
  intro hw fs h; (simp only [encodeFields, encAlu, encV1, encV2, Option.some.injEq] at h; subst h; simp [candidate, cand0, -Fin.ofNat_eq_cast])
theorem waitClk (g c) : Statement (.waitClk g c) := by
  intro hw fs h; (simp only [encodeFields, encAlu, encV1, encV2, Option.some.injEq] at h; subst h; simp [candidate, cand0, -Fin.ofNat_eq_cast])
theorem prio (g d b) : Statement (.prio g d b) := by
  intro hw fs h; cases b <;> (simp only [encodeFields, encAlu, encV1, encV2, Option.some.injEq] at h; subst h; simp [candidate, cand0, -Fin.ofNat_eq_cast])
theorem add (g d a b) : Statement (.add g d a b) := by
  intro hw fs h; cases b <;> (simp only [encodeFields, encAlu, encV1, encV2, Option.some.injEq] at h; subst h; simp [candidate, cand1, -Fin.ofNat_eq_cast])
theorem sub (g d a b) : Statement (.sub g d a b) := by
  intro hw fs h; cases b <;> (simp only [encodeFields, encAlu, encV1, encV2, Option.some.injEq] at h; subst h; simp [candidate, cand1, -Fin.ofNat_eq_cast])
theorem mul (g d a b) : Statement (.mul g d a b) := by
  intro hw fs h; cases b <;> (simp only [encodeFields, encAlu, encV1, encV2, Option.some.injEq] at h; subst h; simp [candidate, cand1, -Fin.ofNat_eq_cast])
theorem mulh (g d a b) : Statement (.mulh g d a b) := by
  intro hw fs h; cases b <;> (simp only [encodeFields, encAlu, encV1, encV2, Option.some.injEq] at h; subst h; simp [candidate, cand1, -Fin.ofNat_eq_cast])
theorem mulhu (g d a b) : Statement (.mulhu g d a b) := by
  intro hw fs h; cases b <;> (simp only [encodeFields, encAlu, encV1, encV2, Option.some.injEq] at h; subst h; simp [candidate, cand1, -Fin.ofNat_eq_cast])
theorem div (g d a b) : Statement (.div g d a b) := by
  intro hw fs h; cases b <;> (simp only [encodeFields, encAlu, encV1, encV2, Option.some.injEq] at h; subst h; simp [candidate, cand1, -Fin.ofNat_eq_cast])
theorem divu (g d a b) : Statement (.divu g d a b) := by
  intro hw fs h; cases b <;> (simp only [encodeFields, encAlu, encV1, encV2, Option.some.injEq] at h; subst h; simp [candidate, cand1, -Fin.ofNat_eq_cast])
theorem rem (g d a b) : Statement (.rem g d a b) := by
  intro hw fs h; cases b <;> (simp only [encodeFields, encAlu, encV1, encV2, Option.some.injEq] at h; subst h; simp [candidate, cand1, -Fin.ofNat_eq_cast])
theorem remu (g d a b) : Statement (.remu g d a b) := by
  intro hw fs h; cases b <;> (simp only [encodeFields, encAlu, encV1, encV2, Option.some.injEq] at h; subst h; simp [candidate, cand1, -Fin.ofNat_eq_cast])
theorem and (g d a b) : Statement (.and g d a b) := by
  intro hw fs h; cases b <;> (simp only [encodeFields, encAlu, encV1, encV2, Option.some.injEq] at h; subst h; simp [candidate, cand1, -Fin.ofNat_eq_cast])
theorem or (g d a b) : Statement (.or g d a b) := by
  intro hw fs h; cases b <;> (simp only [encodeFields, encAlu, encV1, encV2, Option.some.injEq] at h; subst h; simp [candidate, cand1, -Fin.ofNat_eq_cast])
theorem xor (g d a b) : Statement (.xor g d a b) := by
  intro hw fs h; cases b <;> (simp only [encodeFields, encAlu, encV1, encV2, Option.some.injEq] at h; subst h; simp [candidate, cand1, -Fin.ofNat_eq_cast])
theorem andn (g d a b) : Statement (.andn g d a b) := by
  intro hw fs h; cases b <;> (simp only [encodeFields, encAlu, encV1, encV2, Option.some.injEq] at h; subst h; simp [candidate, cand1, -Fin.ofNat_eq_cast])
theorem shl (g d a b) : Statement (.shl g d a b) := by
  intro hw fs h; cases b <;> (simp only [encodeFields, encAlu, encV1, encV2, Option.some.injEq] at h; subst h; simp [candidate, cand1, -Fin.ofNat_eq_cast])
theorem shr (g d a b) : Statement (.shr g d a b) := by
  intro hw fs h; cases b <;> (simp only [encodeFields, encAlu, encV1, encV2, Option.some.injEq] at h; subst h; simp [candidate, cand1, -Fin.ofNat_eq_cast])
theorem sar (g d a b) : Statement (.sar g d a b) := by
  intro hw fs h; cases b <;> (simp only [encodeFields, encAlu, encV1, encV2, Option.some.injEq] at h; subst h; simp [candidate, cand1, -Fin.ofNat_eq_cast])
theorem rot (g d a b) : Statement (.rot g d a b) := by
  intro hw fs h; cases b <;> (simp only [encodeFields, encAlu, encV1, encV2, Option.some.injEq] at h; subst h; simp [candidate, cand2, -Fin.ofNat_eq_cast])
theorem min (g d a b) : Statement (.min g d a b) := by
  intro hw fs h; cases b <;> (simp only [encodeFields, encAlu, encV1, encV2, Option.some.injEq] at h; subst h; simp [candidate, cand2, -Fin.ofNat_eq_cast])
theorem max (g d a b) : Statement (.max g d a b) := by
  intro hw fs h; cases b <;> (simp only [encodeFields, encAlu, encV1, encV2, Option.some.injEq] at h; subst h; simp [candidate, cand2, -Fin.ofNat_eq_cast])
theorem minu (g d a b) : Statement (.minu g d a b) := by
  intro hw fs h; cases b <;> (simp only [encodeFields, encAlu, encV1, encV2, Option.some.injEq] at h; subst h; simp [candidate, cand2, -Fin.ofNat_eq_cast])
theorem maxu (g d a b) : Statement (.maxu g d a b) := by
  intro hw fs h; cases b <;> (simp only [encodeFields, encAlu, encV1, encV2, Option.some.injEq] at h; subst h; simp [candidate, cand2, -Fin.ofNat_eq_cast])
theorem clz (g d a) : Statement (.clz g d a) := by
  intro hw fs h; (simp only [encodeFields, encAlu, encV1, encV2, Option.some.injEq] at h; subst h; simp [candidate, cand2, -Fin.ofNat_eq_cast])
theorem ctz (g d a) : Statement (.ctz g d a) := by
  intro hw fs h; (simp only [encodeFields, encAlu, encV1, encV2, Option.some.injEq] at h; subst h; simp [candidate, cand2, -Fin.ofNat_eq_cast])
theorem popc (g d a) : Statement (.popc g d a) := by
  intro hw fs h; (simp only [encodeFields, encAlu, encV1, encV2, Option.some.injEq] at h; subst h; simp [candidate, cand2, -Fin.ofNat_eq_cast])
theorem ext (g t d a) : Statement (.ext g t d a) := by
  intro hw fs h; (simp only [encodeFields, encAlu, encV1, encV2, Option.some.injEq] at h; subst h; simp [candidate, cand2, -Fin.ofNat_eq_cast])
theorem bfx (g signed d a pos lenm1) : Statement (.bfx g signed d a pos lenm1) := by
  intro hw fs h; (simp only [encodeFields, encAlu, encV1, encV2, Option.some.injEq] at h; subst h; simp [candidate, cand2, Fin.ext_iff, -Fin.ofNat_eq_cast] <;> omega)
theorem bfi (g d a pos lenm1) : Statement (.bfi g d a pos lenm1) := by
  intro hw fs h; (simp only [encodeFields, encAlu, encV1, encV2, Option.some.injEq] at h; subst h; simp [candidate, cand2, Fin.ext_iff, -Fin.ofNat_eq_cast] <;> omega)
theorem li (g zx d imm) : Statement (.li g zx d imm) := by
  intro hw fs h; (simp only [encodeFields, encAlu, encV1, encV2, Option.some.injEq] at h; subst h; simp [candidate, cand2, -Fin.ofNat_eq_cast])
theorem lih (g d imm) : Statement (.lih g d imm) := by
  intro hw fs h; (simp only [encodeFields, encAlu, encV1, encV2, Option.some.injEq] at h; subst h; simp [candidate, cand2, -Fin.ofNat_eq_cast])
theorem sel (g d p a b) : Statement (.sel g d p a b) := by
  intro hw fs h; cases b <;> (simp only [encodeFields, encAlu, encV1, encV2, Option.some.injEq] at h; subst h; simp [candidate, cand2, -Fin.ofNat_eq_cast])
theorem cmp (g cond d a b) : Statement (.cmp g cond d a b) := by
  intro hw fs h; cases b <;> (simp only [encodeFields, encAlu, encV1, encV2, Option.some.injEq] at h; subst h; simp [candidate, cand3, -Fin.ofNat_eq_cast])
theorem plog (g op d a b) : Statement (.plog g op d a b) := by
  intro hw fs h; (simp only [encodeFields, encAlu, encV1, encV2, Option.some.injEq] at h; subst h; simp [candidate, cand3, -Fin.ofNat_eq_cast])
theorem pmov (g f) : Statement (.pmov g f) := by
  intro hw fs h; cases f <;> (simp only [encodeFields, encAlu, encV1, encV2, Option.some.injEq] at h; subst h; simp [candidate, cand3, pmovOf, -Fin.ofNat_eq_cast])
theorem tstm (g cond t d m) : Statement (.tstm g cond t d m) := by
  intro hw fs h; (simp only [encodeFields, encAlu, encV1, encV2, Option.some.injEq] at h; subst h; simp [candidate, cand3, -Fin.ofNat_eq_cast])
theorem ptset (g f d a) : Statement (.ptset g f d a) := by
  intro hw fs h; cases f with
  | all b => cases b <;> (simp only [encodeFields, Option.some.injEq] at h; subst h; simp [candidate, cand3, ptsetOf])
  | _ => simp only [encodeFields, Option.some.injEq] at h; subst h; simp [candidate, cand3, ptsetOf]
theorem ptget (g f d a) : Statement (.ptget g f d a) := by
  intro hw fs h; (simp only [encodeFields, encAlu, encV1, encV2, Option.some.injEq] at h; subst h; simp [candidate, cand3, -Fin.ofNat_eq_cast])
theorem ptadv (g steps d b) : Statement (.ptadv g steps d b) := by
  intro hw fs h; cases b <;> (simp only [encodeFields, encAlu, encV1, encV2, Option.some.injEq] at h; subst h; simp [candidate, cand3, -Fin.ofNat_eq_cast])
theorem br (g imm) : Statement (.br g imm) := by
  intro hw fs h; (simp only [encodeFields, encAlu, encV1, encV2, Option.some.injEq] at h; subst h; simp [candidate, cand3, -Fin.ofNat_eq_cast])
theorem jal (g d imm) : Statement (.jal g d imm) := by
  intro hw fs h; (simp only [encodeFields, encAlu, encV1, encV2, Option.some.injEq] at h; subst h; simp [candidate, cand3, -Fin.ofNat_eq_cast])
theorem jalr (g d a imm) : Statement (.jalr g d a imm) := by
  intro hw fs h; (simp only [encodeFields, encAlu, encV1, encV2, Option.some.injEq] at h; subst h; simp [candidate, cand3, -Fin.ofNat_eq_cast])
theorem loop (g d imm) : Statement (.loop g d imm) := by
  intro hw fs h; (simp only [encodeFields, encAlu, encV1, encV2, Option.some.injEq] at h; subst h; simp [candidate, cand3, -Fin.ofNat_eq_cast])
theorem ld (g t d m sp o) : Statement (.ld g t d m sp o) := by
  intro hw fs h; cases m <;> (simp only [encodeFields, encAlu, encV1, encV2, Option.some.injEq] at h; subst h; simp [candidate, cand4, Fields.mode, -Fin.ofNat_eq_cast])
theorem st (g t m c sp o) : Statement (.st g t m c sp o) := by
  intro hw fs h; cases m <;> (simp only [encodeFields, encAlu, encV1, encV2, Option.some.injEq] at h; subst h; simp [candidate, cand4, Fields.mode, -Fin.ofNat_eq_cast])
theorem vld (g t d m z sp o) : Statement (.vld g t d m z sp o) := by
  intro hw fs h; cases m <;> (simp only [encodeFields, encAlu, encV1, encV2, Option.some.injEq] at h; subst h; simp [candidate, cand4, Fields.mode, -Fin.ofNat_eq_cast])
theorem vst (g t m c msk sp o) : Statement (.vst g t m c msk sp o) := by
  intro hw fs h; cases m <;> (simp only [encodeFields, encAlu, encV1, encV2, Option.some.injEq] at h; subst h; simp [candidate, cand4, Fields.mode, -Fin.ofNat_eq_cast])
theorem vlds (g t d m b z sp o) : Statement (.vlds g t d m b z sp o) := by
  intro hw fs h; cases m <;> first | (simp [wellFormed, AMode.isPlain, AMode.isBase] at hw; done) | (simp only [encodeFields, Option.some.injEq] at h; subst h; simp [candidate, cand4, Fields.mode, -Fin.ofNat_eq_cast])
theorem vsts (g t m b c msk sp o) : Statement (.vsts g t m b c msk sp o) := by
  intro hw fs h; cases m <;> first | (simp [wellFormed, AMode.isPlain, AMode.isBase] at hw; done) | (simp only [encodeFields, Option.some.injEq] at h; subst h; simp [candidate, cand4, Fields.mode, -Fin.ofNat_eq_cast])
theorem vgth (g t it d m b z sp o) : Statement (.vgth g t it d m b z sp o) := by
  intro hw fs h; cases m <;> first | (simp [wellFormed, AMode.isPlain, AMode.isBase] at hw; done) | (simp only [encodeFields, Option.some.injEq] at h; subst h; simp [candidate, cand4, Fields.mode, -Fin.ofNat_eq_cast])
theorem vsct (g t it m b c msk sp o) : Statement (.vsct g t it m b c msk sp o) := by
  intro hw fs h; cases m <;> first | (simp [wellFormed, AMode.isPlain, AMode.isBase] at hw; done) | (simp only [encodeFields, Option.some.injEq] at h; subst h; simp [candidate, cand4, Fields.mode, -Fin.ofNat_eq_cast])
theorem amo (g op t d m c sp o) : Statement (.amo g op t d m c sp o) := by
  intro hw fs h; cases m <;> (simp only [encodeFields, encAlu, encV1, encV2, Option.some.injEq] at h; subst h; simp [candidate, cand5, Fields.mode, -Fin.ofNat_eq_cast])
theorem amocas (g t p m b c sp o) : Statement (.amocas g t p m b c sp o) := by
  intro hw fs h; cases m <;> first | (simp [wellFormed, AMode.isPlain] at hw; done) | (simp only [encodeFields, Option.some.injEq] at h; subst h; simp [candidate, cand5, Fields.mode])
theorem amof (g op det d m c o) : Statement (.amof g op det d m c o) := by
  intro hw fs h; cases m <;> (simp only [encodeFields, encAlu, encV1, encV2, Option.some.injEq] at h; subst h; simp [candidate, cand5, Fields.mode, -Fin.ofNat_eq_cast])
theorem vamof (g det it m b c msk o) : Statement (.vamof g det it m b c msk o) := by
  intro hw fs h; cases m <;> first | (simp [wellFormed, AMode.isPlain, AMode.isBase] at hw; done) | (simp only [encodeFields, Option.some.injEq] at h; subst h; simp [candidate, cand5, Fields.mode, -Fin.ofNat_eq_cast])
theorem drclose (g d a scope) : Statement (.drclose g d a scope) := by
  intro hw fs h; (simp only [encodeFields, encAlu, encV1, encV2, Option.some.injEq] at h; subst h; simp [candidate, cand5, -Fin.ofNat_eq_cast])
theorem ldf (g d p m o) : Statement (.ldf g d p m o) := by
  intro hw fs h; cases m <;> (simp only [encodeFields, encAlu, encV1, encV2, Option.some.injEq] at h; subst h; simp [candidate, cand5, Fields.mode, -Fin.ofNat_eq_cast])
theorem ldft (g d p m o) : Statement (.ldft g d p m o) := by
  intro hw fs h; cases m <;> (simp only [encodeFields, encAlu, encV1, encV2, Option.some.injEq] at h; subst h; simp [candidate, cand5, Fields.mode, -Fin.ofNat_eq_cast])
theorem stf (g p m c o) : Statement (.stf g p m c o) := by
  intro hw fs h; cases m <;> (simp only [encodeFields, encAlu, encV1, encV2, Option.some.injEq] at h; subst h; simp [candidate, cand5, Fields.mode, -Fin.ofNat_eq_cast])
theorem fence (g scope) : Statement (.fence g scope) := by
  intro hw fs h; (simp only [encodeFields, encAlu, encV1, encV2, Option.some.injEq] at h; subst h; simp [candidate, cand5, -Fin.ofNat_eq_cast])
theorem vadd (g t sat r z d a b) : Statement (.vadd g t sat r z d a b) := by
  intro hw fs h; cases b <;> (simp only [encodeFields, encAlu, encV1, encV2, Option.some.injEq] at h; subst h; simp [candidate, cand6, -Fin.ofNat_eq_cast])
theorem vsub (g t sat r z d a b) : Statement (.vsub g t sat r z d a b) := by
  intro hw fs h; cases b <;> (simp only [encodeFields, encAlu, encV1, encV2, Option.some.injEq] at h; subst h; simp [candidate, cand6, -Fin.ofNat_eq_cast])
theorem vmul (g t sat r z d a b) : Statement (.vmul g t sat r z d a b) := by
  intro hw fs h; cases b <;> (simp only [encodeFields, encAlu, encV1, encV2, Option.some.injEq] at h; subst h; simp [candidate, cand6, -Fin.ofNat_eq_cast])
theorem vfma (g t sat r z d a b c) : Statement (.vfma g t sat r z d a b c) := by
  intro hw fs h; cases b <;> (simp only [encodeFields, encAlu, encV1, encV2, Option.some.injEq] at h; subst h; simp [candidate, cand6, -Fin.ofNat_eq_cast])
theorem vfms (g t sat r z d a b c) : Statement (.vfms g t sat r z d a b c) := by
  intro hw fs h; cases b <;> (simp only [encodeFields, encAlu, encV1, encV2, Option.some.injEq] at h; subst h; simp [candidate, cand6, -Fin.ofNat_eq_cast])
theorem vmin (g t z d a b) : Statement (.vmin g t z d a b) := by
  intro hw fs h; cases b <;> (simp only [encodeFields, encAlu, encV1, encV2, Option.some.injEq] at h; subst h; simp [candidate, cand6, -Fin.ofNat_eq_cast])
theorem vmax (g t z d a b) : Statement (.vmax g t z d a b) := by
  intro hw fs h; cases b <;> (simp only [encodeFields, encAlu, encV1, encV2, Option.some.injEq] at h; subst h; simp [candidate, cand6, -Fin.ofNat_eq_cast])
theorem vabs (g t sat z d a) : Statement (.vabs g t sat z d a) := by
  intro hw fs h; (simp only [encodeFields, encAlu, encV1, encV2, Option.some.injEq] at h; subst h; simp [candidate, cand6, -Fin.ofNat_eq_cast])
theorem vneg (g t sat z d a) : Statement (.vneg g t sat z d a) := by
  intro hw fs h; (simp only [encodeFields, encAlu, encV1, encV2, Option.some.injEq] at h; subst h; simp [candidate, cand6, -Fin.ofNat_eq_cast])
theorem vrcp (g t r z d a) : Statement (.vrcp g t r z d a) := by
  intro hw fs h; (simp only [encodeFields, encAlu, encV1, encV2, Option.some.injEq] at h; subst h; simp [candidate, cand6, -Fin.ofNat_eq_cast])
theorem vrsq (g t r z d a) : Statement (.vrsq g t r z d a) := by
  intro hw fs h; (simp only [encodeFields, encAlu, encV1, encV2, Option.some.injEq] at h; subst h; simp [candidate, cand6, -Fin.ofNat_eq_cast])
theorem vexp2 (g t r z d a) : Statement (.vexp2 g t r z d a) := by
  intro hw fs h; (simp only [encodeFields, encAlu, encV1, encV2, Option.some.injEq] at h; subst h; simp [candidate, cand6, -Fin.ofNat_eq_cast])
theorem vlog2 (g t r z d a) : Statement (.vlog2 g t r z d a) := by
  intro hw fs h; (simp only [encodeFields, encAlu, encV1, encV2, Option.some.injEq] at h; subst h; simp [candidate, cand6, -Fin.ofNat_eq_cast])
theorem vand (g t z d a b) : Statement (.vand g t z d a b) := by
  intro hw fs h; cases b <;> (simp only [encodeFields, encAlu, encV1, encV2, Option.some.injEq] at h; subst h; simp [candidate, cand6, -Fin.ofNat_eq_cast])
theorem vor (g t z d a b) : Statement (.vor g t z d a b) := by
  intro hw fs h; cases b <;> (simp only [encodeFields, encAlu, encV1, encV2, Option.some.injEq] at h; subst h; simp [candidate, cand6, -Fin.ofNat_eq_cast])
theorem vxor (g t z d a b) : Statement (.vxor g t z d a b) := by
  intro hw fs h; cases b <;> (simp only [encodeFields, encAlu, encV1, encV2, Option.some.injEq] at h; subst h; simp [candidate, cand6, -Fin.ofNat_eq_cast])
theorem vshl (g t z d a b) : Statement (.vshl g t z d a b) := by
  intro hw fs h; cases b <;> (simp only [encodeFields, encAlu, encV1, encV2, Option.some.injEq] at h; subst h; simp [candidate, cand7, -Fin.ofNat_eq_cast])
theorem vshr (g t z d a b) : Statement (.vshr g t z d a b) := by
  intro hw fs h; cases b <;> (simp only [encodeFields, encAlu, encV1, encV2, Option.some.injEq] at h; subst h; simp [candidate, cand7, -Fin.ofNat_eq_cast])
theorem vsar (g t z d a b) : Statement (.vsar g t z d a b) := by
  intro hw fs h; cases b <;> (simp only [encodeFields, encAlu, encV1, encV2, Option.some.injEq] at h; subst h; simp [candidate, cand7, -Fin.ofNat_eq_cast])
theorem vcmp (g cond t z d a b) : Statement (.vcmp g cond t z d a b) := by
  intro hw fs h; cases b <;> (simp only [encodeFields, encAlu, encV1, encV2, Option.some.injEq] at h; subst h; simp [candidate, cand7, -Fin.ofNat_eq_cast])
theorem vsel (g t k d a b) : Statement (.vsel g t k d a b) := by
  intro hw fs h; (simp only [encodeFields, encAlu, encV1, encV2, Option.some.injEq] at h; subst h; simp [candidate, cand7, -Fin.ofNat_eq_cast])
theorem vcvt (g td ts part sat r z d a) : Statement (.vcvt g td ts part sat r z d a) := by
  intro hw fs h; (simp only [encodeFields, encAlu, encV1, encV2, Option.some.injEq] at h; subst h; simp [candidate, cand7, -Fin.ofNat_eq_cast])
theorem vqnt (g td part d a b c) : Statement (.vqnt g td part d a b c) := by
  intro hw fs h; (simp only [encodeFields, encAlu, encV1, encV2, Option.some.injEq] at h; subst h; simp [candidate, cand7, -Fin.ofNat_eq_cast])
theorem vdeq (g td ts part z d a) : Statement (.vdeq g td ts part z d a) := by
  intro hw fs h; (simp only [encodeFields, encAlu, encV1, encV2, Option.some.injEq] at h; subst h; simp [candidate, cand7, -Fin.ofNat_eq_cast])
theorem vscale (g t k r z d a b) : Statement (.vscale g t k r z d a b) := by
  intro hw fs h; cases b <;> (simp only [encodeFields, encAlu, encV1, encV2, Option.some.injEq] at h; subst h; simp [candidate, cand7, -Fin.ofNat_eq_cast])
theorem vred (g op t r msk d a) : Statement (.vred g op t r msk d a) := by
  intro hw fs h; (simp only [encodeFields, encAlu, encV1, encV2, Option.some.injEq] at h; subst h; simp [candidate, cand7, -Fin.ofNat_eq_cast])
theorem vscan (g op ex t r z d a b) : Statement (.vscan g op ex t r z d a b) := by
  intro hw fs h; cases b <;> (simp only [encodeFields, encAlu, encV1, encV2, Option.some.injEq] at h; subst h; simp [candidate, cand7, -Fin.ofNat_eq_cast])
theorem vperm (g t z d a b two) : Statement (.vperm g t z d a b two) := by
  intro hw fs h; cases two <;> (simp only [encodeFields, encAlu, encV1, encV2, Option.some.injEq] at h; subst h; simp [candidate, cand7, -Fin.ofNat_eq_cast])
theorem vbcast (g t z d f) : Statement (.vbcast g t z d f) := by
  intro hw fs h; cases f <;> (simp only [encodeFields, encAlu, encV1, encV2, Option.some.injEq] at h; subst h; simp [candidate, cand7, bcastOf, Fin.ext_iff, -Fin.ofNat_eq_cast] <;> omega)
theorem vins (g t d a n) : Statement (.vins g t d a n) := by
  intro hw fs h; cases n <;> (simp only [encodeFields, encAlu, encV1, encV2, Option.some.injEq] at h; subst h; simp [candidate, cand7, laneOf, Fin.ext_iff, -Fin.ofNat_eq_cast] <;> omega)
theorem vext (g t d a n) : Statement (.vext g t d a n) := by
  intro hw fs h; cases n <;> (simp only [encodeFields, encAlu, encV1, encV2, Option.some.injEq] at h; subst h; simp [candidate, cand7, laneOf, Fin.ext_iff, -Fin.ofNat_eq_cast] <;> omega)
theorem vmov (g t z d a) : Statement (.vmov g t z d a) := by
  intro hw fs h; (simp only [encodeFields, encAlu, encV1, encV2, Option.some.injEq] at h; subst h; simp [candidate, cand7, -Fin.ofNat_eq_cast])
theorem vldi (g t z d a imm) : Statement (.vldi g t z d a imm) := by
  intro hw fs h; (simp only [encodeFields, encAlu, encV1, encV2, Option.some.injEq] at h; subst h; simp [candidate, cand8, -Fin.ofNat_eq_cast])
theorem vzip (g t part z d a b) : Statement (.vzip g t part z d a b) := by
  intro hw fs h; (simp only [encodeFields, encAlu, encV1, encV2, Option.some.injEq] at h; subst h; simp [candidate, cand8, -Fin.ofNat_eq_cast])
theorem vunzip (g t part z d a b) : Statement (.vunzip g t part z d a b) := by
  intro hw fs h; (simp only [encodeFields, encAlu, encV1, encV2, Option.some.injEq] at h; subst h; simp [candidate, cand8, -Fin.ofNat_eq_cast])
theorem vslide (g t k z d a b) : Statement (.vslide g t k z d a b) := by
  intro hw fs h; (simp only [encodeFields, encAlu, encV1, encV2, Option.some.injEq] at h; subst h; simp [candidate, cand8, Fin.ext_iff, -Fin.ofNat_eq_cast] <;> omega)
theorem vdot (g t sat r z d a b c) : Statement (.vdot g t sat r z d a b c) := by
  intro hw fs h; (simp only [encodeFields, encAlu, encV1, encV2, Option.some.injEq] at h; subst h; simp [candidate, cand8, -Fin.ofNat_eq_cast])
theorem vsat (g t t2 z d a) : Statement (.vsat g t t2 z d a) := by
  intro hw fs h; (simp only [encodeFields, encAlu, encV1, encV2, Option.some.injEq] at h; subst h; simp [candidate, cand8, -Fin.ofNat_eq_cast])
theorem mkand (g d a b) : Statement (.mkand g d a b) := by
  intro hw fs h; (simp only [encodeFields, encAlu, encV1, encV2, Option.some.injEq] at h; subst h; simp [candidate, cand8, -Fin.ofNat_eq_cast])
theorem mkor (g d a b) : Statement (.mkor g d a b) := by
  intro hw fs h; (simp only [encodeFields, encAlu, encV1, encV2, Option.some.injEq] at h; subst h; simp [candidate, cand8, -Fin.ofNat_eq_cast])
theorem mkxor (g d a b) : Statement (.mkxor g d a b) := by
  intro hw fs h; (simp only [encodeFields, encAlu, encV1, encV2, Option.some.injEq] at h; subst h; simp [candidate, cand8, -Fin.ofNat_eq_cast])
theorem mknot (g d a) : Statement (.mknot g d a) := by
  intro hw fs h; (simp only [encodeFields, encAlu, encV1, encV2, Option.some.injEq] at h; subst h; simp [candidate, cand8, -Fin.ofNat_eq_cast])
theorem mkpop (g t d a) : Statement (.mkpop g t d a) := by
  intro hw fs h; (simp only [encodeFields, encAlu, encV1, encV2, Option.some.injEq] at h; subst h; simp [candidate, cand8, -Fin.ofNat_eq_cast])
theorem mkfst (g t d a) : Statement (.mkfst g t d a) := by
  intro hw fs h; (simp only [encodeFields, encAlu, encV1, encV2, Option.some.injEq] at h; subst h; simp [candidate, cand8, -Fin.ofNat_eq_cast])
theorem mkset (g d a) : Statement (.mkset g d a) := by
  intro hw fs h; cases a <;> (simp only [encodeFields, encAlu, encV1, encV2, Option.some.injEq] at h; subst h; simp [candidate, cand8, -Fin.ofNat_eq_cast])
theorem mkget (g d a) : Statement (.mkget g d a) := by
  intro hw fs h; (simp only [encodeFields, encAlu, encV1, encV2, Option.some.injEq] at h; subst h; simp [candidate, cand8, -Fin.ofNat_eq_cast])
theorem mxcfgAscale (g tok a) : Statement (.mxcfgAscale g tok a) := by
  intro hw fs h; cases tok <;> cases a <;> (simp only [encodeFields, encAlu, encV1, encV2, Option.some.injEq] at h; subst h; simp [candidate, candA, -Fin.ofNat_eq_cast])
theorem mxcfgAreset (g tok) : Statement (.mxcfgAreset g tok) := by
  intro hw fs h; cases tok <;> (simp only [encodeFields, encAlu, encV1, encV2, Option.some.injEq] at h; subst h; simp [candidate, candA, -Fin.ofNat_eq_cast])
theorem mxld (g tok f a b o) : Statement (.mxld g tok f a b o) := by
  intro hw fs h; cases tok <;> cases f <;> (simp only [encodeFields, encAlu, encV1, encV2, Option.some.injEq] at h; subst h; simp [candidate, candA, mxldOf, Fin.ext_iff, -Fin.ofNat_eq_cast] <;> omega)
theorem mxldv (g tok r64 slot a b o) : Statement (.mxldv g tok r64 slot a b o) := by
  intro hw fs h; cases tok <;> cases r64 <;> (simp only [encodeFields, encAlu, encV1, encV2, Option.some.injEq] at h; subst h; simp [candidate, candA, Fin.ext_iff, -Fin.ofNat_eq_cast] <;> omega)
theorem mxmma (g tok ta tb h16 d x y o) : Statement (.mxmma g tok ta tb h16 d x y o) := by
  intro hw fs h; cases tok <;> cases h16 <;> cases x <;> cases y <;> (simp only [encodeFields, encAlu, encV1, encV2, Option.some.injEq] at h; subst h; simp [candidate, candA, mxOpA, mxOpB, Fin.ext_iff, -Fin.ofNat_eq_cast] <;> omega)
theorem mxzero (g tok mask) : Statement (.mxzero g tok mask) := by
  intro hw fs h; cases tok <;> (simp only [encodeFields, encAlu, encV1, encV2, Option.some.injEq] at h; subst h; simp [candidate, candA, -Fin.ofNat_eq_cast])
theorem mxsca (g tok ts ta d s a b) : Statement (.mxsca g tok ts ta d s a b) := by
  intro hw fs h; cases tok <;> (simp only [encodeFields, encAlu, encV1, encV2, Option.some.injEq] at h; subst h; simp [candidate, candA, Fin.ext_iff, -Fin.ofNat_eq_cast] <;> omega)
theorem mxrd (g tok d s row lg) : Statement (.mxrd g tok d s row lg) := by
  intro hw fs h; cases tok <;> (simp only [encodeFields, encAlu, encV1, encV2, Option.some.injEq] at h; subst h; simp [candidate, candA, Fin.ext_iff, -Fin.ofNat_eq_cast] <;> omega)
theorem mxst (g tok t sat r s a b sp o) : Statement (.mxst g tok t sat r s a b sp o) := by
  intro hw fs h; cases tok <;> cases sat <;> (simp only [encodeFields, encAlu, encV1, encV2, Option.some.injEq] at h; subst h; simp [candidate, candA, Fin.ext_iff, sub3, -Fin.ofNat_eq_cast] <;> omega)
theorem mxattn (g tok q a b nm1 o) : Statement (.mxattn g tok q a b nm1 o) := by
  intro hw fs h; cases tok <;> (simp only [encodeFields, encAlu, encV1, encV2, Option.some.injEq] at h; subst h; simp [candidate, candA, Fin.ext_iff, -Fin.ofNat_eq_cast] <;> omega)
theorem mxafin (g tok a b o) : Statement (.mxafin g tok a b o) := by
  intro hw fs h; cases tok <;> (simp only [encodeFields, encAlu, encV1, encV2, Option.some.injEq] at h; subst h; simp [candidate, candA, -Fin.ofNat_eq_cast])
theorem mxwait (g) : Statement (.mxwait g) := by
  intro hw fs h; (simp only [encodeFields, encAlu, encV1, encV2, Option.some.injEq] at h; subst h; simp [candidate, candA, -Fin.ofNat_eq_cast])
theorem mxprg (g tok) : Statement (.mxprg g tok) := by
  intro hw fs h; cases tok <;> (simp only [encodeFields, encAlu, encV1, encV2, Option.some.injEq] at h; subst h; simp [candidate, candA, -Fin.ofNat_eq_cast])
theorem cpy (g tok dir d a b o) : Statement (.cpy g tok dir d a b o) := by
  intro hw fs h; cases tok <;> cases b <;> (simp only [encodeFields, encAlu, encV1, encV2, Option.some.injEq] at h; subst h; simp [candidate, candB, -Fin.ofNat_eq_cast])
theorem cpy2d (g tok a imm sp o) : Statement (.cpy2d g tok a imm sp o) := by
  intro hw fs h; cases tok <;> (simp only [encodeFields, encAlu, encV1, encV2, Option.some.injEq] at h; subst h; simp [candidate, candB, -Fin.ofNat_eq_cast])
theorem cpyt (g tok pack d a o) : Statement (.cpyt g tok pack d a o) := by
  intro hw fs h; cases tok <;> (simp only [encodeFields, encAlu, encV1, encV2, Option.some.injEq] at h; subst h; simp [candidate, candB, -Fin.ofNat_eq_cast])
theorem ringcfg (g tok a imm sp) : Statement (.ringcfg g tok a imm sp) := by
  intro hw fs h; cases tok <;> (simp only [encodeFields, encAlu, encV1, encV2, Option.some.injEq] at h; subst h; simp [candidate, candB, -Fin.ofNat_eq_cast])
theorem ringcfgOff (g tok ring) : Statement (.ringcfgOff g tok ring) := by
  intro hw fs h; cases tok <;> (simp only [encodeFields, encAlu, encV1, encV2, Option.some.injEq] at h; subst h; simp [candidate, candB, Fin.ext_iff, -Fin.ofNat_eq_cast] <;> omega)
theorem rsend (g tok glob d ring a b o) : Statement (.rsend g tok glob d ring a b o) := by
  intro hw fs h; cases tok <;> (simp only [encodeFields, encAlu, encV1, encV2, Option.some.injEq] at h; subst h; simp [candidate, candB, Fin.ext_iff, -Fin.ofNat_eq_cast] <;> omega)
theorem rfwd (g tok d ring a) : Statement (.rfwd g tok d ring a) := by
  intro hw fs h; cases tok <;> (simp only [encodeFields, encAlu, encV1, encV2, Option.some.injEq] at h; subst h; simp [candidate, candB, Fin.ext_iff, -Fin.ofNat_eq_cast] <;> omega)
theorem rfree (g tok ring a) : Statement (.rfree g tok ring a) := by
  intro hw fs h; cases tok <;> (simp only [encodeFields, encAlu, encV1, encV2, Option.some.injEq] at h; subst h; simp [candidate, candB, Fin.ext_iff, -Fin.ofNat_eq_cast] <;> omega)
theorem send (g d a b hid q len) : Statement (.send g d a b hid q len) := by
  intro hw fs h; (simp only [encodeFields, encAlu, encV1, encV2, Option.some.injEq] at h; subst h; simp [candidate, candB, Fin.ext_iff, sendImm, -Fin.ofNat_eq_cast] <;> omega)
theorem sendv (g d a b hid q len) : Statement (.sendv g d a b hid q len) := by
  intro hw fs h; (simp only [encodeFields, encAlu, encV1, encV2, Option.some.injEq] at h; subst h; simp [candidate, candB, Fin.ext_iff, sendImm, -Fin.ofNat_eq_cast] <;> omega)
theorem sendc (g d a b hid q len lines) : Statement (.sendc g d a b hid q len lines) := by
  intro hw fs h; (simp only [encodeFields, encAlu, encV1, encV2, Option.some.injEq] at h; subst h; simp [candidate, candB, Fin.ext_iff, sendImm, -Fin.ofNat_eq_cast] <;> omega)
theorem reply (g b hid q len) : Statement (.reply g b hid q len) := by
  intro hw fs h; (simp only [encodeFields, encAlu, encV1, encV2, Option.some.injEq] at h; subst h; simp [candidate, candB, Fin.ext_iff, sendImm, -Fin.ofNat_eq_cast] <;> omega)
theorem reth (g) : Statement (.reth g) := by
  intro hw fs h; (simp only [encodeFields, encAlu, encV1, encV2, Option.some.injEq] at h; subst h; simp [candidate, candB, -Fin.ofNat_eq_cast])
theorem htset (g d a b c id) : Statement (.htset g d a b c id) := by
  intro hw fs h; (simp only [encodeFields, encAlu, encV1, encV2, Option.some.injEq] at h; subst h; simp [candidate, candB, Fin.ext_iff, -Fin.ofNat_eq_cast] <;> omega)
theorem qcfg (g d a q) : Statement (.qcfg g d a q) := by
  intro hw fs h; (simp only [encodeFields, encAlu, encV1, encV2, Option.some.injEq] at h; subst h; simp [candidate, candB, Fin.ext_iff, -Fin.ofNat_eq_cast] <;> omega)
theorem bindIn (g n a) : Statement (.bindIn g n a) := by
  intro hw fs h; (simp only [encodeFields, encAlu, encV1, encV2, Option.some.injEq] at h; subst h; simp [candidate, candB, Fin.ext_iff, -Fin.ofNat_eq_cast] <;> omega)
theorem bindOut (g n a) : Statement (.bindOut g n a) := by
  intro hw fs h; (simp only [encodeFields, encAlu, encV1, encV2, Option.some.injEq] at h; subst h; simp [candidate, candB, Fin.ext_iff, -Fin.ofNat_eq_cast] <;> omega)
theorem unbindIn (g n) : Statement (.unbindIn g n) := by
  intro hw fs h; (simp only [encodeFields, encAlu, encV1, encV2, Option.some.injEq] at h; subst h; simp [candidate, candC, Fin.ext_iff, -Fin.ofNat_eq_cast] <;> omega)
theorem unbindOut (g n) : Statement (.unbindOut g n) := by
  intro hw fs h; (simp only [encodeFields, encAlu, encV1, encV2, Option.some.injEq] at h; subst h; simp [candidate, candC, Fin.ext_iff, -Fin.ofNat_eq_cast] <;> omega)
theorem chsend (g n a o) : Statement (.chsend g n a o) := by
  intro hw fs h; (simp only [encodeFields, encAlu, encV1, encV2, Option.some.injEq] at h; subst h; simp [candidate, candC, Fin.ext_iff, -Fin.ofNat_eq_cast] <;> omega)
theorem chtst (g p n b) : Statement (.chtst g p n b) := by
  intro hw fs h; cases b <;> (simp only [encodeFields, encAlu, encV1, encV2, Option.some.injEq] at h; subst h; simp [candidate, candC, -Fin.ofNat_eq_cast])
theorem bar (g scope id b) : Statement (.bar g scope id b) := by
  intro hw fs h; cases b <;> (simp only [encodeFields, encAlu, encV1, encV2, Option.some.injEq] at h; subst h; simp [candidate, candC, -Fin.ofNat_eq_cast])
theorem spawn (g d m sp) : Statement (.spawn g d m sp) := by
  intro hw fs h; cases m <;> (simp only [encodeFields, encAlu, encV1, encV2, Option.some.injEq] at h; subst h; simp [candidate, candC, Fields.mode, -Fin.ofNat_eq_cast])
theorem thnew (g d m sp) : Statement (.thnew g d m sp) := by
  intro hw fs h; cases m <;> (simp only [encodeFields, encAlu, encV1, encV2, Option.some.injEq] at h; subst h; simp [candidate, candC, Fields.mode, -Fin.ofNat_eq_cast])
theorem thsplit (g dim d a b) : Statement (.thsplit g dim d a b) := by
  intro hw fs h; cases b <;> (simp only [encodeFields, encAlu, encV1, encV2, Option.some.injEq] at h; subst h; simp [candidate, candC, -Fin.ofNat_eq_cast])
theorem thjoin (g d a) : Statement (.thjoin g d a) := by
  intro hw fs h; (simp only [encodeFields, encAlu, encV1, encV2, Option.some.injEq] at h; subst h; simp [candidate, candC, -Fin.ofNat_eq_cast])
theorem thfrz (g d a) : Statement (.thfrz g d a) := by
  intro hw fs h; (simp only [encodeFields, encAlu, encV1, encV2, Option.some.injEq] at h; subst h; simp [candidate, candC, -Fin.ofNat_eq_cast])
theorem thfrzThaw (g d a) : Statement (.thfrzThaw g d a) := by
  intro hw fs h; (simp only [encodeFields, encAlu, encV1, encV2, Option.some.injEq] at h; subst h; simp [candidate, candC, -Fin.ofNat_eq_cast])
theorem thfree (g d a) : Statement (.thfree g d a) := by
  intro hw fs h; (simp only [encodeFields, encAlu, encV1, encV2, Option.some.injEq] at h; subst h; simp [candidate, candC, -Fin.ofNat_eq_cast])
theorem thinfo (g sel d a) : Statement (.thinfo g sel d a) := by
  intro hw fs h; (simp only [encodeFields, encAlu, encV1, encV2, Option.some.injEq] at h; subst h; simp [candidate, candC, -Fin.ofNat_eq_cast])
theorem txsub (g d m sp) : Statement (.txsub g d m sp) := by
  intro hw fs h; cases m <;> (simp only [encodeFields, encAlu, encV1, encV2, Option.some.injEq] at h; subst h; simp [candidate, candC, Fields.mode, -Fin.ofNat_eq_cast])
theorem txrst (g d m sp) : Statement (.txrst g d m sp) := by
  intro hw fs h; cases m <;> (simp only [encodeFields, encAlu, encV1, encV2, Option.some.injEq] at h; subst h; simp [candidate, candC, Fields.mode, -Fin.ofNat_eq_cast])
theorem txnum (g d) : Statement (.txnum g d) := by
  intro hw fs h; (simp only [encodeFields, encAlu, encV1, encV2, Option.some.injEq] at h; subst h; simp [candidate, candC, -Fin.ofNat_eq_cast])
theorem txnumOpen (g d) : Statement (.txnumOpen g d) := by
  intro hw fs h; (simp only [encodeFields, encAlu, encV1, encV2, Option.some.injEq] at h; subst h; simp [candidate, candC, -Fin.ofNat_eq_cast])
theorem txver (g new d k) : Statement (.txver g new d k) := by
  intro hw fs h; (simp only [encodeFields, encAlu, encV1, encV2, Option.some.injEq] at h; subst h; simp [candidate, candC, Fin.ext_iff, -Fin.ofNat_eq_cast] <;> omega)
theorem txabort (g) : Statement (.txabort g) := by
  intro hw fs h; (simp only [encodeFields, encAlu, encV1, encV2, Option.some.injEq] at h; subst h; simp [candidate, candC, -Fin.ofNat_eq_cast])
theorem activationStart (core slot queue) : Statement (.activationStart core slot queue) := fun _ f h => by simp [encodeFields] at h
theorem porterActivation (core) : Statement (.porterActivation core) := fun _ f h => by simp [encodeFields] at h
theorem budgetTrap (core slot) : Statement (.budgetTrap core slot) := fun _ f h => by simp [encodeFields] at h
theorem scoreboardWriteLands (core slot id) : Statement (.scoreboardWriteLands core slot id) := fun _ f h => by simp [encodeFields] at h
theorem tokenLands (core slot id) : Statement (.tokenLands core slot id) := fun _ f h => by simp [encodeFields] at h
theorem predicateResolves (core slot id) : Statement (.predicateResolves core slot id) := fun _ f h => by simp [encodeFields] at h
theorem copyCommandStart (core) : Statement (.copyCommandStart core) := fun _ f h => by simp [encodeFields] at h
theorem matrixCommandStart (core) : Statement (.matrixCommandStart core) := fun _ f h => by simp [encodeFields] at h
theorem commandCompletion (core e) : Statement (.commandCompletion core e) := fun _ f h => by simp [encodeFields] at h
theorem fsresp (v) : Statement (.fsresp v) := fun _ f h => by simp [encodeFields] at h
theorem fsqIdx (v) : Statement (.fsqIdx v) := fun _ f h => by simp [encodeFields] at h
theorem faultAnswerTimeout (core slot e) : Statement (.faultAnswerTimeout core slot e) := fun _ f h => by simp [encodeFields] at h
theorem lateReport (core cause addr pc) : Statement (.lateReport core cause addr pc) := fun _ f h => by simp [encodeFields] at h
theorem drainComplete (core slot) : Statement (.drainComplete core slot) := fun _ f h => by simp [encodeFields] at h
theorem sendBufferDeparture (core slot) : Statement (.sendBufferDeparture core slot) := fun _ f h => by simp [encodeFields] at h
theorem messageArrival (core m) : Statement (.messageArrival core m) := fun _ f h => by simp [encodeFields] at h
theorem heapReplay (core queue) : Statement (.heapReplay core queue) := fun _ f h => by simp [encodeFields] at h
theorem heapReplayResume (core queue) : Statement (.heapReplayResume core queue) := fun _ f h => by simp [encodeFields] at h
theorem agentPortPlacement (core queue) : Statement (.agentPortPlacement core queue) := fun _ f h => by simp [encodeFields] at h
theorem agentPortRetry (core) : Statement (.agentPortRetry core) := fun _ f h => by simp [encodeFields] at h
theorem channelEntryArrival (tag data rel writer port) : Statement (.channelEntryArrival tag data rel writer port) := fun _ f h => by simp [encodeFields] at h
theorem creditReturn (core slot port) : Statement (.creditReturn core slot port) := fun _ f h => by simp [encodeFields] at h
theorem chtstTimeout (core slot id) : Statement (.chtstTimeout core slot id) := fun _ f h => by simp [encodeFields] at h
theorem waitWake (core slot) : Statement (.waitWake core slot) := fun _ f h => by simp [encodeFields] at h
theorem waitPoll (core slot) : Statement (.waitPoll core slot) := fun _ f h => by simp [encodeFields] at h
theorem waitTimeout (core slot) : Statement (.waitTimeout core slot) := fun _ f h => by simp [encodeFields] at h
theorem barrierInheritance (gid) : Statement (.barrierInheritance gid) := fun _ f h => by simp [encodeFields] at h
theorem preemptPost (core queue) : Statement (.preemptPost core queue) := fun _ f h => by simp [encodeFields] at h
theorem preemptWithdraw (core queue) : Statement (.preemptWithdraw core queue) := fun _ f h => by simp [encodeFields] at h
theorem bankRole (core slot v) : Statement (.bankRole core slot v) := fun _ f h => by simp [encodeFields] at h
theorem homeAccess (part) : Statement (.homeAccess part) := fun _ f h => by simp [encodeFields] at h
theorem scopeMissReport (core act atom) : Statement (.scopeMissReport core act atom) := fun _ f h => by simp [encodeFields] at h
theorem detUpdateArrival (u) : Statement (.detUpdateArrival u) := fun _ f h => by simp [encodeFields] at h
theorem invalidationDoorbell (b) : Statement (.invalidationDoorbell b) := fun _ f h => by simp [encodeFields] at h
theorem invalidationCompletion : Statement .invalidationCompletion := fun _ f h => by simp [encodeFields] at h
theorem walkCompletion (core asid page) : Statement (.walkCompletion core asid page) := fun _ f h => by simp [encodeFields] at h
theorem offlnAck (v) : Statement (.offlnAck v) := fun _ f h => by simp [encodeFields] at h
theorem lmmapMoveComplete (idx) : Statement (.lmmapMoveComplete idx) := fun _ f h => by simp [encodeFields] at h
theorem tenureRequestArrival (r a) : Statement (.tenureRequestArrival r a) := fun _ f h => by simp [encodeFields] at h
theorem tenureRequestResend (lm) : Statement (.tenureRequestResend lm) := fun _ f h => by simp [encodeFields] at h
theorem tenureGrant (r p) : Statement (.tenureGrant r p) := fun _ f h => by simp [encodeFields] at h
theorem dispatch (num) : Statement (.dispatch num) := fun _ f h => by simp [encodeFields] at h
theorem commitGrant (num h) : Statement (.commitGrant num h) := fun _ f h => by simp [encodeFields] at h
theorem homeReceipt (num handle data) : Statement (.homeReceipt num handle data) := fun _ f h => by simp [encodeFields] at h
theorem tileOperationArrival (src slot asid op) : Statement (.tileOperationArrival src slot asid op) := fun _ f h => by simp [encodeFields] at h
theorem tileAnswer (core slot a) : Statement (.tileAnswer core slot a) := fun _ f h => by simp [encodeFields] at h
theorem crateRelease (ring core crate) : Statement (.crateRelease ring core crate) := fun _ f h => by simp [encodeFields] at h
theorem kick (q v) : Statement (.kick q v) := fun _ f h => by simp [encodeFields] at h
theorem cancel (q v) : Statement (.cancel q v) := fun _ f h => by simp [encodeFields] at h
theorem qctlResume (q) : Statement (.qctlResume q) := fun _ f h => by simp [encodeFields] at h
theorem qctlHold (q) : Statement (.qctlHold q) := fun _ f h => by simp [encodeFields] at h
theorem qctlRelease (q) : Statement (.qctlRelease q) := fun _ f h => by simp [encodeFields] at h
theorem qctlEnable (q) : Statement (.qctlEnable q) := fun _ f h => by simp [encodeFields] at h
theorem qctlDisable (q) : Statement (.qctlDisable q) := fun _ f h => by simp [encodeFields] at h
theorem queueDisableComplete (q) : Statement (.queueDisableComplete q) := fun _ f h => by simp [encodeFields] at h
theorem packetRead (q) : Statement (.packetRead q) := fun _ f h => by simp [encodeFields] at h
theorem packetReread (q) : Statement (.packetReread q) := fun _ f h => by simp [encodeFields] at h
theorem nopPacket (q) : Statement (.nopPacket q) := fun _ f h => by simp [encodeFields] at h
theorem txnPacket (q) : Statement (.txnPacket q) := fun _ f h => by simp [encodeFields] at h
theorem msgPacket (q) : Statement (.msgPacket q) := fun _ f h => by simp [encodeFields] at h
theorem launchPacket (q) : Statement (.launchPacket q) := fun _ f h => by simp [encodeFields] at h
theorem gangPacket (q) : Statement (.gangPacket q) := fun _ f h => by simp [encodeFields] at h
theorem waitsigPacket (q) : Statement (.waitsigPacket q) := fun _ f h => by simp [encodeFields] at h
theorem waitsigReread (q id) : Statement (.waitsigReread q id) := fun _ f h => by simp [encodeFields] at h
theorem signalPacket (q) : Statement (.signalPacket q) := fun _ f h => by simp [encodeFields] at h
theorem fetchfencePacket (q) : Statement (.fetchfencePacket q) := fun _ f h => by simp [encodeFields] at h
theorem indirectPacket (q) : Statement (.indirectPacket q) := fun _ f h => by simp [encodeFields] at h
theorem ringPacket (q) : Statement (.ringPacket q) := fun _ f h => by simp [encodeFields] at h
theorem packetCompletion (q id ok) : Statement (.packetCompletion q id ok) := fun _ f h => by simp [encodeFields] at h
theorem taskTake (core) : Statement (.taskTake core) := fun _ f h => by simp [encodeFields] at h
theorem taskSteal (core) : Statement (.taskSteal core) := fun _ f h => by simp [encodeFields] at h
theorem terminationSweep (lid) : Statement (.terminationSweep lid) := fun _ f h => by simp [encodeFields] at h
theorem liveUpdate (u) : Statement (.liveUpdate u) := fun _ f h => by simp [encodeFields] at h
theorem coreDrain (core) : Statement (.coreDrain core) := fun _ f h => by simp [encodeFields] at h
theorem coreDrainComplete (core) : Statement (.coreDrainComplete core) := fun _ f h => by simp [encodeFields] at h
theorem coreReadmit (core) : Statement (.coreReadmit core) := fun _ f h => by simp [encodeFields] at h
theorem managementRegisterWrite (off v) : Statement (.managementRegisterWrite off v) := fun _ f h => by simp [encodeFields] at h
theorem tenureRelease (num handle) : Statement (.tenureRelease num handle) := fun _ f h => by simp [encodeFields] at h
theorem forcedIssue (core slot) : Statement (.forcedIssue core slot) := fun _ f h => by simp [encodeFields] at h
theorem mxldvRowFault (core) : Statement (.mxldvRowFault core) := fun _ f h => by simp [encodeFields] at h
theorem gangSlotReservation : Statement .gangSlotReservation := fun _ f h => by simp [encodeFields] at h
theorem remoteStoreResponse (core slot id ok) : Statement (.remoteStoreResponse core slot id ok) := fun _ f h => by simp [encodeFields] at h
theorem birspArrival (line data keep) : Statement (.birspArrival line data keep) := fun _ f h => by simp [encodeFields] at h
theorem hostMemWrite (off data) : Statement (.hostMemWrite off data) := fun _ f h => by simp [encodeFields] at h
theorem hostMemRead (off n hold) : Statement (.hostMemRead off n hold) := fun _ f h => by simp [encodeFields] at h
theorem correctedError (u) : Statement (.correctedError u) := fun _ f h => by simp [encodeFields] at h
theorem selfTestResult (u pass) : Statement (.selfTestResult u pass) := fun _ f h => by simp [encodeFields] at h
theorem roundClose : Statement .roundClose := fun _ f h => by simp [encodeFields] at h
theorem reservationAndNumbering : Statement .reservationAndNumbering := fun _ f h => by simp [encodeFields] at h
theorem closureArrival (pkg round next) : Statement (.closureArrival pkg round next) := fun _ f h => by simp [encodeFields] at h
theorem podTimeoutExpiry (pkg) : Statement (.podTimeoutExpiry pkg) := fun _ f h => by simp [encodeFields] at h
theorem outOfServiceDeclaration (pkg round) : Statement (.outOfServiceDeclaration pkg round) := fun _ f h => by simp [encodeFields] at h
theorem podJoin (pkg running) : Statement (.podJoin pkg running) := fun _ f h => by simp [encodeFields] at h
theorem joinNotice (pkg) : Statement (.joinNotice pkg) := fun _ f h => by simp [encodeFields] at h
theorem joinRound (pkg round) : Statement (.joinRound pkg round) := fun _ f h => by simp [encodeFields] at h
theorem flitReceive (port good) : Statement (.flitReceive port good) := fun _ f h => by simp [encodeFields] at h
theorem portRetrain (port lo hi) : Statement (.portRetrain port lo hi) := fun _ f h => by simp [encodeFields] at h
theorem portRecalibration (port) : Statement (.portRecalibration port) := fun _ f h => by simp [encodeFields] at h
theorem hbmPhyRetrain (chan done) : Statement (.hbmPhyRetrain chan done) := fun _ f h => by simp [encodeFields] at h
theorem ringSetupNotice (ring fromPred peer s csize) : Statement (.ringSetupNotice ring fromPred peer s csize) := fun _ f h => by simp [encodeFields] at h
theorem ringSetupAnswer (ring fromSucc ok) : Statement (.ringSetupAnswer ring fromSucc ok) := fun _ f h => by simp [encodeFields] at h
theorem ringBlockArrival (ring blk origin data) : Statement (.ringBlockArrival ring blk origin data) := fun _ f h => by simp [encodeFields] at h
theorem ringBlockAck (ring blk ok) : Statement (.ringBlockAck ring blk ok) := fun _ f h => by simp [encodeFields] at h
theorem ringReleaseArrival (ring) : Statement (.ringReleaseArrival ring) := fun _ f h => by simp [encodeFields] at h
theorem ringSkipNotice (ring blk) : Statement (.ringSkipNotice ring blk) := fun _ f h => by simp [encodeFields] at h
theorem ringTeardownNotice (ring) : Statement (.ringTeardownNotice ring) := fun _ f h => by simp [encodeFields] at h
theorem liveUpdateHandover : Statement .liveUpdateHandover := fun _ f h => by simp [encodeFields] at h
theorem failover : Statement .failover := fun _ f h => by simp [encodeFields] at h
theorem operatingPointChange (pt) : Statement (.operatingPointChange pt) := fun _ f h => by simp [encodeFields] at h
theorem thermalThrottle : Statement .thermalThrottle := fun _ f h => by simp [encodeFields] at h
theorem thermalRaise : Statement .thermalRaise := fun _ f h => by simp [encodeFields] at h
theorem thermalTrip : Statement .thermalTrip := fun _ f h => by simp [encodeFields] at h
theorem cbData (core slot v) : Statement (.cbData core slot v) := fun _ f h => by simp [encodeFields] at h
theorem cbCtl (core v) : Statement (.cbCtl core v) := fun _ f h => by simp [encodeFields] at h
theorem packageReset (pkg) : Statement (.packageReset pkg) := fun _ f h => by simp [encodeFields] at h
theorem managementWithdrawRequest : Statement .managementWithdrawRequest := fun _ f h => by simp [encodeFields] at h
theorem illegalInstructionTrap : Statement .illegalInstructionTrap := fun _ f h => by simp [encodeFields] at h

end Sys2Proof.Laws.RoundTrip
end

