-- ==== Sys2Proof/Laws/Vector.lean ====
section
/-! SUPPORT. Laws of vector lanes (R137, R140): reading a lane of a packed vector, and what a vector result changes. -/
namespace Sys2Proof.Machine

set_option Elab.async false

/-- The number whose digits in base 2^w are a list, the first lowest. -/
def packNat (w : Nat) (xs : List Nat) : Nat := xs.foldr (fun x a => x % 2 ^ w + 2 ^ w * a) 0

theorem packNat_lt (w : Nat) (xs : List Nat) : packNat w xs < 2 ^ (w * xs.length) := by
  induction xs with
  | nil => simp [packNat]
  | cons x t ih =>
    have h1 : x % 2 ^ w < 2 ^ w := Nat.mod_lt _ (Nat.two_pow_pos w)
    have e : packNat w (x :: t) = x % 2 ^ w + 2 ^ w * packNat w t := rfl
    rw [e, List.length_cons, Nat.mul_succ, Nat.add_comm (w * t.length) w, Nat.pow_add]
    have h2 : 2 ^ w * (packNat w t + 1) ≤ 2 ^ w * 2 ^ (w * t.length) := Nat.mul_le_mul_left _ ih
    rw [Nat.mul_succ] at h2
    omega

theorem packNat_digit (w : Nat) (xs : List Nat) : ∀ i, i < xs.length → packNat w xs / 2 ^ (w * i) % 2 ^ w = xs.getD i 0 % 2 ^ w := by
  induction xs with
  | nil => intro i h; simp at h
  | cons x t ih =>
    intro i h
    have e : packNat w (x :: t) = x % 2 ^ w + 2 ^ w * packNat w t := rfl
    have hp : 0 < 2 ^ w := Nat.two_pow_pos w
    cases i with
    | zero => rw [e]; simp
    | succ i =>
      have h' : i < t.length := by simpa using h
      have e2 : (x % 2 ^ w + 2 ^ w * packNat w t) / 2 ^ w = packNat w t := by
        rw [Nat.add_mul_div_left _ _ hp, Nat.div_eq_of_lt (Nat.mod_lt _ hp), Nat.zero_add]
      rw [e, Nat.mul_succ, Nat.add_comm (w * i) w, Nat.pow_add, ← Nat.div_div_eq_div_mul, e2, ih i h']
      simp

/-- R137: a lane of a packed vector. -/
theorem laneOf_packLanes (w : Nat) (xs : List Nat) (i : Nat) (hl : w * xs.length ≤ 512) (hi : i < xs.length) :
    laneOf w (packLanes w xs) i = xs.getD i 0 % 2 ^ w := by
  have h : packNat w xs < 2 ^ 512 := lt_of_lt_of_le (packNat_lt w xs) (Nat.pow_le_pow_right (by decide) hl)
  have e : (packLanes w xs).toNat = packNat w xs := by
    show (BitVec.ofNat 512 (packNat w xs)).toNat = _
    rw [BitVec.toNat_ofNat, Nat.mod_eq_of_lt h]
  rw [laneOf, e, packNat_digit w xs i hi]

theorem laneOf_lt (w : Nat) (v : Vec) (i : Nat) : laneOf w v i < 2 ^ w := Nat.mod_lt _ (Nat.two_pow_pos w)

/-- R140: a lane of a merged result. -/
theorem laneOf_mergeLanes (w n : Nat) (mask : Word) (zro : Bool) (old : Vec) (f : Nat → Nat × Flags) (i : Nat)
    (hi : i < 512 / w) : laneOf w (mergeLanes w n mask zro old f).1 i =
      if i < n then (if mask.getLsbD i then (f i).1 % 2 ^ w else if zro then 0 else laneOf w old i) else laneOf w old i := by
  have hlen : w * (512 / w) ≤ 512 := Nat.mul_div_le 512 w
  unfold mergeLanes
  dsimp only
  rw [laneOf_packLanes _ _ _ (by simpa using hlen) (by simpa using hi)]
  have hm : laneOf w old i % 2 ^ w = laneOf w old i := Nat.mod_eq_of_lt (laneOf_lt w old i)
  rw [List.getD_eq_getElem?_getD, List.map_map]
  simp only [List.getElem?_map, List.getElem?_range hi, Option.map_some, Option.getD_some, Function.comp]
  split
  · split
    · rfl
    · split
      · simp
      · exact hm
  · exact hm

end Sys2Proof.Machine

namespace Sys2Proof.Safety
open Sys2Proof.Machine

theorem OnlySlot.refl (s : State) : OnlySlot s s :=
  ⟨⟨rfl, fun _ _ => rfl⟩, rfl, fun _ _ => rfl, ⟨fun _ => rfl, fun _ => rfl, fun _ _ => rfl⟩⟩

theorem OnlySlot.cur_eq {s t : State} (h : OnlySlot s t) : t.cur = s.cur := h.1.cur_eq

/-- R113: setting flags changes the flags of the slot. -/
theorem orFlags_eq (s : State) (f : Flags) : OnlySlot s (s.orFlags f) ∧ (s.orFlags f).relaxed = s.relaxed ∧
    (s.orFlags f).myCore.retired = s.myCore.retired ∧ (s.orFlags f).me = { s.me with flags := s.me.flags ||| f } := by
  unfold State.orFlags
  split
  · rename_i h
    subst h
    exact ⟨OnlySlot.refl s, rfl, rfl, by simp⟩
  · exact ⟨onlySlot_modMe s _, rfl, by simp, by simp⟩

/-- R114, R128: the rounding mode and the state of the generator it leaves. -/
theorem rounding_eq (s : State) (r : Rnd) : OnlySlot s (s.rounding r).2.2 ∧ (s.rounding r).1 = s.me.modeOf r ∧
    (s.rounding r).2.1 = seedOf s r ∧ (s.rounding r).2.2.relaxed = s.relaxed ∧ (s.rounding r).2.2.myCore.retired = s.myCore.retired ∧
    (s.rounding r).2.2.me = { s.me with srseed := seedOf s r } := by
  unfold State.rounding seedOf
  dsimp only
  split
  · exact ⟨onlySlot_modMe s _, rfl, rfl, rfl, by simp, by simp⟩
  · exact ⟨OnlySlot.refl s, rfl, rfl, rfl, rfl, rfl⟩

/-- R93, R113: a vector result that lands at once. -/
theorem putV_eq (s : State) (d : Vreg) (r : Vec × Flags) (h : s.relaxed = false) :
    OnlySlot s (s.putV d r) ∧ (s.putV d r).myCore.retired = s.myCore.retired + 1 ∧
    (s.putV d r).me = { ({ s.me with flags := s.me.flags ||| r.2 } : Slot).setV d r.1 with pc := nextPc s.me.pc } := by
  obtain ⟨h1, h2, h3, h4⟩ := orFlags_eq s r.2
  have e : s.putV d r = ((s.orFlags r.2).modMe (fun x => x.setV d r.1)).complete := by
    simp [State.putV, State.land, h2, h, Slot.landValue, vecOf]
  rw [e]
  refine ⟨h1.trans (onlySlot_update _ _), ?_, ?_⟩
  · simp [h3]
  · simp [h4]

/-- R140: the flags of merged lanes are those of the lanes that take their result. -/
theorem mergeLanes_flags (w n : Nat) (mask : Word) (zro : Bool) (old : Vec) (f : Nat → Nat × Flags) (hn : n ≤ 512 / w) (b : Nat) :
    (mergeLanes w n mask zro old f).2.getLsbD b = decide (∃ i, i < n ∧ mask.getLsbD i = true ∧ (f i).2.getLsbD b = true) := by
  have fold : ∀ (xs : List (Nat × Flags)) (a : Flags), (xs.foldl (fun a r => a ||| r.2) a).getLsbD b = (a.getLsbD b || xs.any (fun r => r.2.getLsbD b)) := by
    intro xs
    induction xs with
    | nil => intro a; simp
    | cons x t ih => intro a; rw [List.foldl_cons, ih]; simp [Bool.or_assoc]
  unfold mergeLanes
  dsimp only
  have e0 : (0 : Flags).getLsbD b = false := by simp
  rw [fold, e0, Bool.false_or, List.any_map, Bool.eq_iff_iff, decide_eq_true_eq, List.any_eq_true]
  constructor
  · rintro ⟨i, _, h⟩
    rw [Function.comp] at h
    split at h
    · split at h
      · exact ⟨i, ‹_›, ‹_›, h⟩
      · split at h <;> simp at h
    · simp at h
  · rintro ⟨i, hi, hm, h⟩
    exact ⟨i, List.mem_range.2 (lt_of_lt_of_le hi hn), by simp [hi, hm, h]⟩

/-- R137, R140: what a vector instruction that rounds by r and merges lanes leaves. -/
theorem merged_wrote (u : State) (r : Rnd) (d : Vreg) (w n : Nat) (mask : Word) (zro : Bool) (f : Nat → Nat × Flags)
    (h : u.relaxed = false) (hn : n ≤ 512 / w) :
    WroteV u ((u.rounding r).2.2.putV d (mergeLanes w n mask zro (u.me.v d) f)) r d w n mask zro f := by
  obtain ⟨r1, r2, r3, r4, r5, r6⟩ := rounding_eq u r
  obtain ⟨p1, p2, p3⟩ := putV_eq (u.rounding r).2.2 d (mergeLanes w n mask zro (u.me.v d) f) (r4.trans h)
  refine ⟨r1.trans p1, ⟨?_, ?_⟩, ⟨?_, ?_⟩, ?_, ?_, ?_⟩
  · rw [p3, r6]
  · rw [p2, r5]
  · intro q hq
    rw [p3, r6]
    have e := Slot.v_setV ({ ({ u.me with srseed := seedOf u r } : Slot) with flags := u.me.flags ||| (mergeLanes w n mask zro (u.me.v d) f).2 }) d q
      (mergeLanes w n mask zro (u.me.v d) f).1
    rw [if_neg hq] at e
    exact e
  · intro i hi
    rw [p3, r6]
    have e := Slot.v_setV ({ ({ u.me with srseed := seedOf u r } : Slot) with flags := u.me.flags ||| (mergeLanes w n mask zro (u.me.v d) f).2 }) d d
      (mergeLanes w n mask zro (u.me.v d) f).1
    rw [if_pos rfl] at e
    rw [← laneOf_mergeLanes w n mask zro (u.me.v d) f i hi]
    exact congrArg (fun v => Machine.laneOf w v i) e
  · intro b _
    rw [p3, r6, ← mergeLanes_flags w n mask zro (u.me.v d) f hn b]
    exact BitVec.getLsbD_or ..
  · show _ = seedOf u r
    rw [p3, r6]; rfl
  · rw [p3, r6]; rfl

theorem Ty.width_lanes (t : Ty) : t.lanes ≤ 512 / t.width := Nat.le_of_eq rfl

/-- R96, R108: a vector instruction whose guard acts, whose registers are not under lease and whose sources are there. -/
theorem vecOp_gives (g : Guard) (writes : List Nat) (srcs : List VSrc) (f : State → List Vec → List Vec → State) (s u : State)
    (vs ps : List Vec) (h : s.me.acts g = true) (hl : s.me.leaseOf (vregsOf srcs ++ writes) = none) (ht : s.takeSrcs srcs = .ok vs ps u) :
    vecOp g writes srcs f s = .next (f u vs ps) := by
  simp [vecOp, guarded_acts h, State.withVecs, hl, ht]

/-- R137, R140: the mould of lane instructions. -/
theorem vecLanes_gives (g : Guard) (t : Ty) (r : Rnd) (z : MaskZ) (d : Vreg) (srcs : List VSrc)
    (f : List Vec → Nat → Nat → Nat → Nat × Flags) (s u : State) (vs ps : List Vec) (h : s.me.acts g = true)
    (hl : s.me.leaseOf (vregsOf srcs ++ [d.val]) = none) (ht : s.takeSrcs srcs = .ok vs ps u) (hr : u.relaxed = false) :
    ∃ t', vecLanes g t r z d srcs f s = .next t' ∧
      WroteV u t' r d t.width t.lanes (u.me.m z.msk) z.zro (fun i => f vs (u.me.modeOf r) i (srDraw (seedOf u r) i)) := by
  refine ⟨_, vecOp_gives g _ srcs _ s u vs ps h hl ht, ?_⟩
  obtain ⟨_, r2, r3, _, _, r6⟩ := rounding_eq u r
  have em : (u.rounding r).2.2.me.m z.msk = u.me.m z.msk := by rw [r6]; rfl
  have ev : (u.rounding r).2.2.me.v d = u.me.v d := by rw [r6]; rfl
  have := merged_wrote u r d t.width t.lanes (u.me.m z.msk) z.zro
    (fun i => f vs (u.me.modeOf r) i (srDraw (seedOf u r) i)) hr (Ty.width_lanes t)
  dsimp only
  rw [em, ev, r2, r3]
  exact this

end Sys2Proof.Safety
end

