-- ==== Sys2Proof/Laws/Results.lean ====
section
/-! SUPPORT. What the shared shapes of the instructions give: the lemmas that a result statement is put together from. -/
set_option Elab.async false
namespace Sys2Proof.Laws
open Sys2Proof.Machine Sys2Proof.Safety

/-- A next state that is as P says. -/
theorem gives_of {i : Instr} {s t : State} {P : State → Prop} (h : exec i s = .next t) (p : P t) : Gives i s P := ⟨t, h, p⟩

/-- A write of a scalar register, its value rewritten. -/
theorem gives_wroteS {i : Instr} {s t : State} {d : Sreg} {v w : Word} (h : exec i s = .next t) (h2 : WroteS s t d v) (e : v = w) :
  Gives i s (fun t => WroteS s t d w) := ⟨t, h, e ▸ h2⟩

/-- What a two-operand scalar instruction gives when its guard acts. -/
theorem gives_alu {i : Instr} {g : Guard} {d a : Sreg} {b : Src} {f : Word → Word → Word} {s : State} (hi : exec i s = aluOp g d a b f s)
  (h : s.me.acts g = true) {w : Word} (e : f (s.me.s a) (s.me.src b) = w) : Gives i s (fun t => WroteS s t d w) :=
  ⟨_, hi.trans (guarded_acts h), e ▸ putReg_wrote _ _ _⟩

/-- What a multiply or divide gives when its guard acts. -/
theorem gives_aluLate {i : Instr} {g : Guard} {d a : Sreg} {b : Src} {f : Word → Word → Word} {s : State} (hi : exec i s = aluLate g d a b f s)
  (h : s.me.acts g = true) (hr : s.relaxed = false) {w : Word} (e : f (s.me.s a) (s.me.src b) = w) : Gives i s (fun t => WroteS s t d w) :=
  ⟨_, hi.trans (guarded_acts h), e ▸ putS_wrote _ _ _ _ hr⟩

/-- What a one-operand scalar instruction gives when its guard acts. -/
theorem gives_aluUn {i : Instr} {g : Guard} {d a : Sreg} {f : Word → Word} {s : State} (hi : exec i s = aluUn g d a f s)
  (h : s.me.acts g = true) {w : Word} (e : f (s.me.s a) = w) : Gives i s (fun t => WroteS s t d w) :=
  ⟨_, hi.trans (guarded_acts h), e ▸ putReg_wrote _ _ _⟩

/-- What a guarded instruction gives when its guard acts. -/
theorem gives_guarded {i : Instr} {s : State} {f : State → State} {P : State → Prop} {g : Guard} (hg : s.me.acts g = true) (hi : exec i s = guarded g f s) (p : P (f s)) : Gives i s P :=
  ⟨_, hi.trans (guarded_acts hg), p⟩

/-- The count of ones below bit k is the number of set bits. -/
theorem onesIn_eq_length : ∀ (k : Nat) (x : Nat), onesIn k x = ((List.range k).filter (fun i => x.testBit i)).length := by
  intro k
  induction k with
  | zero => intro x; rfl
  | succ k ih =>
    intro x
    rw [onesIn, ih, List.range_succ_eq_map, List.filter_cons, List.filter_map, ]
    have : ((fun i => x.testBit i) ∘ Nat.succ) = (fun i => (x / 2).testBit i) := by
      funext i; simp [Nat.testBit_succ]
    rw [this]
    by_cases h : x % 2 = 1
    · have : x.testBit 0 = true := by simp [Nat.testBit_zero, h]
      simp [this, h]; omega
    · have : x.testBit 0 = false := by simp [Nat.testBit_zero]; omega
      have h2 : x % 2 = 0 := by omega
      simp [this, h2]

/-- The first position at which a test holds, or the end. -/
theorem find_range_least (p : Nat → Bool) (k : Nat) : let n := ((List.range k).find? p).getD k
    n ≤ k ∧ (∀ i, i < n → p i = false) ∧ (n < k → p n = true) := by
  intro n
  rcases h : (List.range k).find? p with _ | m
  · have hn : n = k := by simp [n, h]
    rw [List.find?_range_eq_none] at h
    refine ⟨by omega, ?_, by omega⟩
    intro i hi; have := h i (by omega); simpa using this
  · have hn : n = m := by simp [n, h]
    rw [List.find?_range_eq_some] at h
    rw [hn]
    obtain ⟨h1, h2, h3⟩ := h
    refine ⟨by simp at h2; omega, ?_, fun _ => h1⟩
    intro i hi; have := h3 i hi; simpa using this

/-- The value of a written predicate, rewritten. -/
theorem wroteP_eq {s t : State} {d : Fin 8} {v w : Bool} (h : WroteP s t d v) (e : v = w) : WroteP s t d w := e ▸ h

/-- The value of a written mask, rewritten. -/
theorem wroteM_eq {s t : State} {d : Fin 8} {v w : Word} (h : WroteM s t d v) (e : v = w) : WroteM s t d w := e ▸ h

/-- The value of a written scalar register, rewritten. -/
theorem wroteS_eq {s t : State} {d : Sreg} {v w : Word} (h : WroteS s t d v) (e : v = w) : WroteS s t d w := e ▸ h

/-- The value of a written pointer, rewritten. -/
theorem wrotePtr_eq {s t : State} {d : Fin 8} {v w : Ptr} (h : WrotePtr s t d v) (e : v = w) : WrotePtr s t d w := e ▸ h

/-- The low n bits of a mask are zero when each is. -/
theorem mask_low_zero (n : Nat) (m : Word) : (m.toNat % 2 ^ n = 0 ↔ ∀ i, i < n → m.getLsbD i = false) := by
  constructor
  · intro h i hi
    have := congrArg (fun x => Nat.testBit x i) h
    simp only [Nat.testBit_mod_two_pow, hi, Nat.zero_testBit, decide_true, Bool.true_and] at this; exact this
  · intro h
    apply Nat.eq_of_testBit_eq
    intro i
    rw [Nat.testBit_mod_two_pow, Nat.zero_testBit]
    by_cases hi : i < n
    · simp [hi]; exact h i hi
    · simp [hi]

/-- The low n bits of a mask are ones when each is. -/
theorem mask_low_ones (n : Nat) (m : Word) : (m.toNat % 2 ^ n = 2 ^ n - 1 ↔ ∀ i, i < n → m.getLsbD i = true) := by
  constructor
  · intro h i hi
    have := congrArg (fun x => Nat.testBit x i) h
    simp only [Nat.testBit_mod_two_pow, Nat.testBit_two_pow_sub_one, hi, decide_true, Bool.true_and] at this; exact this
  · intro h
    apply Nat.eq_of_testBit_eq
    intro i
    rw [Nat.testBit_mod_two_pow, Nat.testBit_two_pow_sub_one]
    by_cases hi : i < n
    · simp [hi]; exact h i hi
    · simp [hi]

/-- No lane type has more than 64 lanes. -/
theorem lanes_le_64 (ty : Ty) : ty.lanes ≤ 64 := by cases ty <;> decide

/-- What the landing of a scalar load leaves. -/
theorem land_loaded (s u : State) (kind : SbKind) (d : Sreg) (a v : Word) (m : AMode) (hr : u.relaxed = false) (hme : u.me = s.me) 
   (hret : u.myCore.retired = s.myCore.retired) :
    LoadedS s ((u.land kind .scalar d.val a (vecW v)).modMe (fun x => x.bump m)).complete m d v := by
  have hb : ∀ x : Slot, (x.bump m).pc = x.pc := by intro x; cases m <;> rfl
  have hbs : ∀ x : Slot, (x.bump m).sregs = x.sregs := by intro x; cases m <;> rfl
  refine ⟨⟨?_, ?_⟩, ⟨?_, ?_⟩, ?_⟩
  · simp [State.land, hr, Slot.landValue, hme, hb]
  · simp [State.land, hr, hret]
  · simp [State.land, hr, Slot.landValue, hme, Slot.s, hbs, vecW]
    by_cases h : d = 0 <;> simp [Slot.setS, h]
  · intro r hne
    simp [State.land, hr, Slot.landValue, hme, Slot.s, hbs, vecW]
    by_cases h : d = 0
    · simp [Slot.setS, h]
    · have : ¬ (r.val = d.val) := fun e => hne (Fin.ext e)
      simp [Slot.setS, h, this]
  · simp [State.land, hr, Slot.landValue, hme]
    by_cases h : d = 0 <;> cases m <;> simp [Slot.setS, h, Slot.bump, Slot.setPtr, Slot.ptr]

/-- The pointer of the addressing mode advances and control passes. -/
theorem bump_bumped (s u : State) (m : AMode) (hme : u.me = s.me) (hret : u.myCore.retired = s.myCore.retired) :
    Bumped s (u.modMe (fun x => x.bump m)).complete m := by
  have hb : ∀ x : Slot, (x.bump m).pc = x.pc := by intro x; cases m <;> rfl
  refine ⟨⟨?_, ?_⟩, ?_⟩
  · simp [hme, hb]
  · simp [hret]
  · simp [hme]; cases m <;> rfl

/-- A landing result changes no byte of memory. -/
theorem land_sameMemory (u : State) (kind : SbKind) (c : SbClass) (r : Nat) (a : Word) (v : Vec) (m : AMode) :
    SameMemory u ((u.land kind c r a v).modMe (fun x => x.bump m)).complete :=
  ((onlySlot_modMe u _).trans (onlySlot_update _ _)).2.2.2

/-- The word of a list of bytes, as a sum. -/
theorem wordOfBytes_sum (bs : List Byte) : wordOfBytes bs = (bs.mapIdx (fun i b => b.toNat * 256 ^ i)).sum := by
  have : ∀ (bs : List Byte) (k : Nat), (bs.mapIdx (fun i b => b.toNat * 256 ^ (i + k))).sum = 256 ^ k * wordOfBytes bs := by
    intro bs
    induction bs with
    | nil => intro k; rfl
    | cons b t ih =>
      intro k
      rw [List.mapIdx_cons, List.sum_cons]
      have e : (List.mapIdx (fun i b => b.toNat * 256 ^ (i + 1 + k)) t) = List.mapIdx (fun i b => b.toNat * 256 ^ (i + (k + 1))) t := by
        congr 1; funext i b; congr 2; omega
      rw [e, ih (k + 1)]
      show _ = 256 ^ k * (b.toNat + 256 * wordOfBytes t)
      rw [Nat.pow_succ]; ring
  have := this bs 0
  simpa using this.symm

/-- Lane functions that agree write the same vector. -/
theorem wroteV_congr {s t : State} {r : Rnd} {d : Vreg} {w n : Nat} {mask : Word} {zro : Bool} {f f' : Nat → Nat × Flags}
    (h : WroteV s t r d w n mask zro f) (e : ∀ i, i < n → (f i).1 % 2 ^ w = (f' i).1 % 2 ^ w ∧ (f i).2 = (f' i).2) :
    WroteV s t r d w n mask zro f' := by
  obtain ⟨h1, h2, ⟨h3, h4⟩, h5, h6, h7⟩ := h
  refine ⟨h1, h2, ⟨h3, ?_⟩, ?_, h6, h7⟩
  · intro i hi
    rw [h4 i hi]
    split
    · rw [(e i ‹_›).1]
    · rfl
  · intro b hb
    rw [h5 b hb]
    congr 1
    rw [decide_eq_decide]
    constructor
    · rintro ⟨i, h1, h2, h3⟩; exact ⟨i, h1, h2, (e i h1).2 ▸ h3⟩
    · rintro ⟨i, h1, h2, h3⟩; exact ⟨i, h1, h2, (e i h1).2 ▸ h3⟩

/-- What a lane-wise vector instruction gives. -/
theorem gives_vecLanes {i : Instr} {s u : State} {vs ps : List Vec} (g : Guard) (t : Ty) (r : Rnd) (z : MaskZ) (d : Vreg) (srcs : List VSrc)
    (f : List Vec → Nat → Nat → Nat → Nat × Flags) {f' : Nat → Nat × Flags}
    (hi : exec i s = vecLanes g t r z d srcs f s) (h : s.me.acts g = true)
    (hl : s.me.leaseOf (vregsOf srcs ++ [d.val]) = none) (ht : s.takeSrcs srcs = .ok vs ps u) (hr : u.relaxed = false)
    (e : ∀ i, i < t.lanes → (f vs (u.me.modeOf r) i (srDraw (seedOf u r) i)).1 % 2 ^ t.width = (f' i).1 % 2 ^ t.width ∧
      (f vs (u.me.modeOf r) i (srDraw (seedOf u r) i)).2 = (f' i).2) :
    Gives i s (fun t' => WroteV u t' r d t.width t.lanes (u.me.m z.msk) z.zro f') := by
  obtain ⟨t', h1, h2⟩ := vecLanes_gives g t r z d srcs f s u vs ps h hl ht hr
  exact ⟨t', hi.trans h1, wroteV_congr h2 e⟩

/-- What writing a packed list of lanes leaves. -/
theorem putV_packed_wrote (u : State) (d : Vreg) (w : Nat) (mask : Word) (xs : List Nat) (f : Nat → Nat × Flags)
    (h : u.relaxed = false) (hx : xs.length = 512 / w) (hm : ∀ i, i < 512 / w → mask.getLsbD i = true) (z : Bool)
    (e : ∀ i, i < 512 / w → xs.getD i 0 % 2 ^ w = (f i).1 % 2 ^ w) (e2 : ∀ i, (f i).2 = 0) :
    WroteV u (u.putV d (packLanes w xs, 0)) .rne d w (512 / w) mask z f := by
  obtain ⟨p1, p2, p3⟩ := putV_eq u d (packLanes w xs, 0) h
  refine ⟨p1, ⟨by rw [p3], by rw [p2]⟩, ⟨?_, ?_⟩, ?_, ?_, ?_⟩
  · intro q hq
    rw [p3]
    have e := Slot.v_setV ({ u.me with flags := u.me.flags ||| 0 } : Slot) d q (packLanes w xs)
    rw [if_neg hq] at e
    exact e
  · intro i hi
    rw [p3, if_pos hi, if_pos (hm i hi), ← e i hi]
    have e := Slot.v_setV ({ u.me with flags := u.me.flags ||| 0 } : Slot) d d (packLanes w xs)
    rw [if_pos rfl] at e
    rw [← laneOf_packLanes w xs i (by rw [hx]; exact Nat.mul_div_le 512 w) (by omega)]
    exact congrArg (fun v => Machine.laneOf w v i) e
  · intro b _
    rw [p3]
    have : ¬ ∃ i, i < 512 / w ∧ mask.getLsbD i = true ∧ (f i).2.getLsbD b = true := by
      rintro ⟨i, _, _, h⟩; rw [e2 i] at h; simp at h
    simp [this]
  · show _ = u.me.srseed
    rw [p3]; rfl
  · rw [p3]; simp [Slot.setV]

/-- What a vector move or bit instruction gives. -/
theorem gives_vecMove {i : Instr} {s u : State} {vs ps : List Vec} (g : Guard) (t : Ty) (z : MaskZ) (d : Vreg) (srcs : List VSrc)
    (f : List Vec → Nat → Nat) {f' : Nat → Nat}
    (hi : exec i s = vecMove g t z d srcs f s) (h : s.me.acts g = true)
    (hl : s.me.leaseOf (vregsOf srcs ++ [d.val]) = none) (ht : s.takeSrcs srcs = .ok vs ps u) (hr : u.relaxed = false)
    (e : ∀ i, i < t.lanes → f vs i % 2 ^ t.width = f' i % 2 ^ t.width) :
    Gives i s (fun t' => WroteV u t' .rne d t.width t.lanes (u.me.m z.msk) z.zro (fun i => (f' i, 0))) :=
  gives_vecLanes g t .rne z d srcs (fun vs _ i _ => (f vs i, 0)) hi h hl ht hr (fun i hi => ⟨e i hi, rfl⟩)

/-- The bits of a number put together bit by bit. -/
theorem fold_bits (f : Nat → Bool) : ∀ n, let x := (List.range n).foldl (fun acc i => acc + (f i).toNat * 2 ^ i) 0
    x < 2 ^ n ∧ ∀ i, x.testBit i = (decide (i < n) && f i) := by
  intro n
  induction n with
  | zero => simp
  | succ n ih =>
    simp only [List.range_succ, List.foldl_append, List.foldl_cons, List.foldl_nil]
    generalize (List.range n).foldl (fun acc i => acc + (f i).toNat * 2 ^ i) 0 = x at ih
    obtain ⟨h1, h2⟩ := ih
    have hb : (f n).toNat < 2 := by cases f n <;> decide
    refine ⟨by rw [Nat.pow_succ]; nlinarith, fun i => ?_⟩
    rw [Nat.add_comm, Nat.mul_comm, Nat.testBit_two_pow_mul_add _ h1]
    by_cases hi : i < n
    · simp [hi, h2, Nat.lt_succ_of_lt hi]
    · rw [if_neg hi]
      by_cases he : i = n
      · subst he; simp; cases f i <;> rfl
      · have : i - n ≠ 0 := by omega
        obtain ⟨k, hk⟩ := Nat.exists_eq_succ_of_ne_zero this
        have hlt : ¬ i < n + 1 := by omega
        rw [hk]; simp [hlt, Nat.testBit_succ]
        cases f n <;> simp

/-- The issuing slot after a scalar write with flags. -/
theorem putS_me (u : State) (kind : SbKind) (d : Sreg) (v : Word) (f : Flags) (h : u.relaxed = false) :
    OnlySlot u (u.putS kind d v f) ∧ (u.putS kind d v f).myCore.retired = u.myCore.retired + 1 ∧
    (u.putS kind d v f).me = { ({ u.me with flags := u.me.flags ||| f } : Slot).setS d v with pc := nextPc u.me.pc } := by
  obtain ⟨h1, h2, h3, h4⟩ := orFlags_eq u f
  have e : u.putS kind d v f = ((u.orFlags f).modMe (fun x => x.setS d v)).complete := by
    simp [State.putS, State.land, h2, h, Slot.landValue, vecW]
  rw [e]
  refine ⟨h1.trans (onlySlot_update _ _), ?_, ?_⟩
  · simp [h3]
  · simp [h4]

/-- What the end of a reduction leaves. -/
theorem reduction_ends (u : State) (r : Rnd) (e : Sreg) (v : Word) (fl : Flags) (h : u.relaxed = false) :
    let t' := (u.rounding r).2.2.putS .arith e v fl
    OnlySlot u t' ∧ Retired u t' ∧ SeedAfter u t' r ∧ ScalarSet u t' e v ∧
        t'.me.flags = u.me.flags ||| fl ∧
        { t'.me with pc := u.me.pc, sregs := u.me.sregs, flags := u.me.flags, srseed := u.me.srseed } = u.me := by
  intro t'
  obtain ⟨r1, r2, r3, r4, r5, r6⟩ := rounding_eq u r
  obtain ⟨p1, p2, p3⟩ := putS_me (u.rounding r).2.2 .arith e v fl (r4.trans h)
  refine ⟨r1.trans p1, ⟨?_, ?_⟩, ?_, ⟨?_, fun q hq => ?_⟩, ?_, ?_⟩
  · rw [p3, r6]
  · rw [p2, r5]
  · show _ = seedOf u r; rw [p3, r6]; simp
  · rw [p3, r6]
    by_cases he : e = 0 <;> simp [Slot.s, Slot.setS, he]
  · rw [p3, r6]
    by_cases he : e = 0 <;> simp [Slot.s, Slot.setS, he]
    have : ¬ (q.val = e.val) := fun hh => hq (Fin.ext hh)
    simp [this]
  · rw [p3, r6]; simp
  · rw [p3, r6]; unfold Slot.setS; split <;> rfl

/-- A fold that keeps the better of two gives the best. -/
theorem fold_best (le : Nat → Nat → Prop) (tr : ∀ a b c, le a b → le b c → le a c) (rf : ∀ a, le a a) (op : Nat → Nat → Nat)
    (h1 : ∀ a b, op a b = a ∨ op a b = b) (h2 : ∀ a b, le (op a b) a ∧ le (op a b) b) :
    ∀ (xs : List Nat) (x : Nat), (xs.foldl op x ∈ x :: xs) ∧ ∀ y ∈ x :: xs, le (xs.foldl op x) y := by
  intro xs
  induction xs with
  | nil => intro x; simp [rf]
  | cons y t ih =>
    intro x
    obtain ⟨i1, i2⟩ := ih (op x y)
    rw [List.foldl_cons]
    generalize t.foldl op (op x y) = q at *
    refine ⟨?_, ?_⟩
    · rcases List.mem_cons.1 i1 with h | h
      · rcases h1 x y with k | k <;> simp [h, k]
      · simp [h]
    · intro z hz
      have hq := i2 (op x y) (by simp)
      simp only [List.mem_cons] at hz
      rcases hz with rfl | rfl | hz
      · exact tr _ _ _ hq (h2 _ _).1
      · exact tr _ _ _ hq (h2 _ _).2
      · exact i2 z (by simp [hz])

/-- A lane of a vector that a conversion of a part has merged. -/
theorem laneOf_mergePart (w base n : Nat) (mask : Word) (zro : Bool) (old : Vec) (f : Nat → Nat × Flags) (j : Nat)
    (hj : j < 512 / w) : Machine.laneOf w (mergePart w base n mask zro old f).1 j =
      if base ≤ j ∧ j < base + n then
        (if mask.getLsbD (j - base) then (f (j - base)).1 % 2 ^ w else if zro then 0 else Machine.laneOf w old j)
      else Machine.laneOf w old j := by
  have hlen : w * (512 / w) ≤ 512 := Nat.mul_div_le 512 w
  unfold mergePart
  dsimp only
  rw [laneOf_packLanes _ _ _ (by simpa using hlen) (by simpa using hj)]
  have hm : Machine.laneOf w old j % 2 ^ w = Machine.laneOf w old j := Nat.mod_eq_of_lt (laneOf_lt w old j)
  rw [List.getD_eq_getElem?_getD, List.map_map]
  simp only [List.getElem?_map, List.getElem?_range hj, Option.map_some, Option.getD_some, Function.comp]
  split
  · split
    · rfl
    · split
      · simp
      · exact hm
  · exact hm

end Sys2Proof.Laws
end

