-- ==== Sys2Proof/Tests/Slice0.lean ====
section
/-! SUPPORT. Tests of the model against the spec's own worked encodings and values, and for each statement of the certificates a
state and operands that meet its hypotheses. -/
set_option Elab.async false
namespace Sys2Proof.Tests
open Sys2Proof.Machine Sys2Proof.Safety

/-- The guard p0. -/
def g0 : Guard := ⟨false, 0⟩
/-- No ordering. -/
def o0 : Order := ⟨.none, false, false⟩

/-! Decoding: words that the spec writes out, family by family. -/

/-- R50, R376, R377, R378, R81, R88: control. -/
theorem test_decode_control :
    decode 0x010000000000000000000000#96 = .instr (.nop g0) ∧
    decode 0x020000000000000000000007#96 = .instr (.trap g0 false 7) ∧
    decode 0x030000000000000000000020#96 = .instr (.brk g0 0x20) ∧
    decode 0x0400C2000000000000000000#96 = .instr (.resume g0 3 2) ∧
    decode 0x0400C2000001000000000000#96 = .instr (.resumeAbort g0 3 2) ∧
    decode 0xBC0000000000000000000000#96 = .instr (.reth g0) ∧
    decode 0xC30000240002300000000000#96 = .instr (.bar g0 .sg 2 (.reg 9)) := by decide +kernel

/-- R40, R99, R100, R107: scalar, compare and pointer instructions. -/
theorem test_decode_scalar :
    decode 0x1000C4000000800000000064#96 = .instr (.add g0 3 4 (.imm 100)) ∧
    decode 0x1001040000008000FFFFFFFE#96 = .instr (.add g0 4 4 (.imm 0xFFFFFFFE)) ∧
    decode 0x2901C200000100000000070C#96 = .instr (.bfx g0 true 7 2 12 7) ∧
    decode 0x300083100002000000000000#96 = .instr (.cmp g0 .lt 2 3 (.reg 4)) ∧
    decode 0x360040000001800000000003#96 = .instr (.ptadv g0 true 1 (.imm 3)) := by decide +kernel

/-- R32, R82, R85: branches. -/
theorem test_decode_branch :
    decode 0x3810000000000000FFFFFFFA#96 = .instr (.br ⟨false, 1⟩ 0xFFFFFFFA) ∧
    decode 0x3A003F000000000000000000#96 = .instr (.jalr g0 0 63 0) ∧
    decode 0x3B01400000000000FFFFFFF1#96 = .instr (.loop g0 5 0xFFFFFFF1) := by decide +kernel

/-- R170, R171, R259 to R270: loads, stores and atomics. -/
theorem test_decode_memory :
    decode 0x400144000200380A00000010#96 = .instr (.ld g0 .i32 5 (.base 4 16) .glob ⟨.sg, true, false⟩) ∧
    decode 0x41000B00C700540B00000000#96 = .instr (.st g0 .n64 (.base 11 0) 12 .glob ⟨.pod, false, true⟩) ∧
    decode 0x430001007802003800000000#96 = .instr (.vst g0 .f32 (.post 1) (.reg 7) 2 .glob o0) ∧
    decode 0x500006008700440B00000000#96 = .instr (.amo g0 .add .n64 0 (.base 6 0) 8 .glob ⟨.pkg, false, true⟩) ∧
    decode 0x520003004808000A00000000#96 = .instr (.amof g0 .add true 0 (.base 3 0) 4 o0) ∧
    decode 0x5801C4003000480B00000000#96 = .instr (.ldf g0 7 3 (.base 4 0) ⟨.pkg, true, false⟩) ∧
    decode 0x5402C7000000400000000000#96 = .instr (.drclose g0 11 7 .pkg) ∧
    decode 0x5C0000000000500000000000#96 = .instr (.fence g0 .pod) := by decide +kernel

/-- R138, R143: vector instructions. -/
theorem test_decode_vector :
    decode 0x600042140800003800000000#96 = .instr (.vadd g0 .f32 false .rne ⟨3, true⟩ 1 (.reg 2) (.vec (.reg 5))) ∧
    decode 0x630105086800008000000000#96 =
      .instr (.vfma g0 .f32 false .rtz ⟨0, false⟩ 4 (.reg 5) (.vec (.reg 2)) (.reg 6)) := by decide +kernel

/-- R181, R187, R191, R198, R200: matrix commands. -/
theorem test_decode_matrix :
    decode 0xA20004149002480C00000001#96 = .instr (.mxldv g0 (some 9) true 1 4 5 ⟨.pkg, true, false⟩) ∧
    decode 0xA200083C0002000800000001#96 = .instr (.mxldv g0 none true 1 8 15 o0) ∧
    decode 0xA30006000BD1000000000102#96 = .instr (.mxmma g0 none .e4m3 .cb8 false 2 (.loc 6) (.slot 1) o0) ∧
    decode 0xA30000000BD0000000000100#96 = .instr (.mxmma g0 none .e4m3 .cb8 false 0 (.slot 0) (.slot 1) o0) ∧
    decode 0xA80007200A00000000000F00#96 = .instr (.mxattn g0 none 0 7 8 15 o0) ∧
    decode 0xAA0000000000000000000000#96 = .instr (.mxwait g0) := by decide +kernel

/-- R175, R332: copy and ring commands. -/
theorem test_decode_copy :
    decode 0xB10002009000480400000000#96 = .instr (.cpy2d g0 (some 9) 2 0 .loc ⟨.pkg, true, false⟩) ∧
    decode 0xB501420C9000000400000003#96 = .instr (.rsend g0 (some 9) false 5 3 2 3 o0) ∧
    decode 0xB6924300A000000400000003#96 = .instr (.rfwd ⟨true, 1⟩ (some 10) 9 3 3) := by decide +kernel

/-- R213, R355: messages and tasks. -/
theorem test_decode_message :
    decode 0xB801420C0000000000001228#96 = .instr (.send g0 5 2 3 40 2 2) ∧
    decode 0xB80248140000000000001247#96 = .instr (.send g0 9 8 5 71 2 2) ∧
    decode 0xBB00002C0000000000000B48#96 = .instr (.reply g0 11 72 3 1) ∧
    decode 0xC40144000000000800000000#96 = .instr (.spawn g0 5 (.base 4 0) .glob) := by decide +kernel

/-- R290, R291, R316 to R319: tiles and transactions. -/
theorem test_decode_tile :
    decode 0xC80144000000000800000000#96 = .instr (.thnew g0 5 (.base 4 0) .glob) ∧
    decode 0xC90185000001800000000004#96 = .instr (.thsplit g0 1 6 5 (.imm 4)) ∧
    decode 0xCE0144000000000800000000#96 = .instr (.txsub g0 5 (.base 4 0) .glob) ∧
    decode 0xCF01C2000000000000000040#96 = .instr (.txrst g0 7 (.base 2 0x40) .loc) ∧
    decode 0xCF0287000000000000000000#96 = .instr (.txrst g0 10 (.base 7 0) .loc) ∧
    decode 0xD000C0000000000000000000#96 = .instr (.txnum g0 3) ∧
    decode 0xD10100000000000000000002#96 = .instr (.txver g0 false 4 2) ∧
    decode 0xD20000000000000000000000#96 = .instr (.txabort g0) := by decide +kernel

/-- R36, R37, R45: an opcode of no instruction; a reserved bit; GN without GP; a TOK of s0; ACQ without SCOPE. -/
theorem test_decode_illegal :
    decode 0xFF0000000000000000000000#96 = .illegalInstruction ∧ decode 0#96 = .illegalInstruction ∧
    decode 0x010000000000000000000001#96 = .illegalEncoding ∧ decode 0x018000000000000000000000#96 = .illegalEncoding ∧
    decode 0xA00000000000000400000000#96 = .illegalEncoding ∧ decode 0x400144000200080A00000010#96 = .illegalEncoding := by
  decide +kernel

/-! Ill-formed terms, one for each check of wellFormed. -/

/-- R45, R110, R39, R168, R94: guard, register number, order, space, token. -/
theorem test_illformed_common :
    wellFormed (.nop ⟨true, 0⟩) = false ∧ wellFormed (.mfsr g0 1 0x004) = false ∧ wellFormed (.mtsr g0 0x139 1) = false ∧
    wellFormed (.ld g0 .i32 1 (.base 2 0) .glob ⟨.none, true, false⟩) = false ∧
    wellFormed (.ld g0 .i32 1 (.base 2 0) .glob ⟨.pkg, false, true⟩) = false ∧
    wellFormed (.st g0 .i32 (.base 2 0) 1 .glob ⟨.pkg, true, false⟩) = false ∧
    wellFormed (.ld g0 .i32 1 (.base 2 0) .loc ⟨.pkg, true, false⟩) = false ∧
    wellFormed (.wait g0 .eq 1 2 3 4 0 .glob ⟨.pkg, false, false⟩) = false ∧
    wellFormed (.mxzero g0 (some 0) 1) = false ∧ wellFormed (.fence g0 .none) = false ∧
    wellFormed (.drclose g0 1 2 .core) = false ∧ wellFormed (.bar g0 .pod 0 (.imm 1)) = false := by decide

/-- R40, R99, R85, R103, R169, R258 to R262: types, bit fields, LOOP with s0, addressing modes, predicates. -/
theorem test_illformed_scalar :
    wellFormed (.ext g0 .f32 1 2) = false ∧ wellFormed (.bfx g0 true 1 2 60 4) = false ∧ wellFormed (.loop g0 0 0) = false ∧
    wellFormed (.tstm g0 .any .cb8 1 2) = false ∧ wellFormed (.ld g0 .f32 1 (.base 2 0) .glob o0) = false ∧
    wellFormed (.vlds g0 .i32 1 (.idx 1 2) 3 ⟨0, false⟩ .glob o0) = false ∧
    wellFormed (.vgth g0 .i32 .i32 1 (.post 1) (.reg 2) ⟨0, false⟩ .glob o0) = false ∧
    wellFormed (.vgth g0 .i32 .i64 1 (.base 1 0) (.reg 2) ⟨0, false⟩ .glob o0) = false ∧
    wellFormed (.amo g0 .add .i16 1 (.base 2 0) 3 .glob o0) = false ∧
    wellFormed (.amocas g0 .i32 0 (.base 2 0) 3 4 .glob o0) = false ∧
    wellFormed (.amof g0 .add true 1 (.base 2 0) 3 o0) = false ∧
    wellFormed (.ldf g0 1 0 (.base 2 0) o0) = false := by decide

/-- R44, R138 to R160: banks, lane values, rounding, type pairs, parts, lane numbers. -/
theorem test_illformed_vector :
    let z : MaskZ := ⟨0, false⟩
    wellFormed (.vadd g0 .f32 false .rne z 1 (.reg 2) (.vec (.reg 4))) = false ∧
    wellFormed (.vadd g0 .f16 false .rne z 1 (.reg 2) (.imm 0x10000)) = false ∧
    wellFormed (.vadd g0 .f32 true .rne z 1 (.reg 2) (.vec (.reg 3))) = false ∧
    wellFormed (.vadd g0 .i32 false .rtz z 1 (.reg 2) (.vec (.reg 3))) = false ∧
    wellFormed (.vabs g0 .n32 false z 1 (.reg 2)) = false ∧ wellFormed (.vrcp g0 .i32 .rne z 1 (.reg 2)) = false ∧
    wellFormed (.vand g0 .f32 z 1 (.reg 2) (.vec (.reg 3))) = false ∧
    wellFormed (.vcmp g0 .un .i32 z 1 (.reg 2) (.vec (.reg 3))) = false ∧
    wellFormed (.vcvt g0 .f32 .f16 2 false .rne z 1 (.reg 2)) = false ∧
    wellFormed (.vqnt g0 .f16 false 1 (.reg 2) (.reg 3) 1) = false ∧
    wellFormed (.vdeq g0 .f32 .i8 0 z 1 (.reg 2)) = false ∧ wellFormed (.vscale g0 .f32 7 .rne z 1 (.reg 2) (.imm 0)) = false ∧
    wellFormed (.vred g0 .xor .f32 .rne 0 1 (.reg 2)) = false ∧ wellFormed (.vins g0 .i64 1 2 (.imm 8)) = false ∧
    wellFormed (.vslide g0 .i64 9 z 1 (.reg 2) (.reg 3)) = false ∧ wellFormed (.vsat g0 .i8 .i16 z 1 (.reg 2)) = false ∧
    wellFormed (.vdot g0 .f32 false .rne z 1 (.reg 2) (.reg 3) (.reg 4)) = false := by decide

/-- R191 to R196, R213, R288: engine commands, messages and descriptors. -/
theorem test_illformed_commands :
    wellFormed (.mxmma g0 none .e4m3 .bf16 false 0 (.slot 0) (.slot 1) o0) = false ∧
    wellFormed (.mxmma g0 none .bf16 .bf16 false 0 (.slot 0) (.slot 1) ⟨.core, true, false⟩) = false ∧
    wellFormed (.mxsca g0 none .i32 .f32 0 1 (.reg 2) (.reg 3)) = false ∧ wellFormed (.mxrd g0 none 31 0 0 1) = false ∧
    wellFormed (.mxst g0 none .i32 true .rne 0 1 2 .glob o0) = false ∧
    wellFormed (.send g0 1 2 3 16 1 0) = false ∧ wellFormed (.sendv g0 1 2 31 16 1 5) = false ∧
    wellFormed (.sendc g0 1 2 3 16 1 4 2) = false ∧ wellFormed (.spawn g0 1 (.post 1) .glob) = false := by decide

/-! Small states. -/

/-- Bytes from an address on, zeros left out. -/
def bytesAt (a : Nat) (bs : List Byte) : SMap Byte := (bs.zipIdx.map (fun e => (a + e.2, e.1))).filter (fun e => e.2 != 0)

/-- R228 to R230: an address space 0 whose one leaf maps 4 TiB from address 0 to itself, for reads, writes and fetches, with A and D
set and DET. -/
def tables : SMap Byte :=
  bytesAt 0x100000 (bytesOf 16 (0x110000 + 1)) ++ bytesAt 0x110000 (bytesOf 8 (0x120000 + 1)) ++
  bytesAt 0x120000 (bytesOf 8 (2 ^ 61 + 0x3E3))

/-- A message to queue 1, handler 16. -/
def hello : Message := ⟨0, 1, 16, 0, .plain, 3, 0, 0, false, 5, [], none⟩

/-- An activation of handler 16. -/
def actUser : Activation :=
  { serial := 7, queue := some 1, msg := hello, hid := 16, system := false, txn := none, restart := false, gang := none, launch := none }

/-- A running slot: s1 0xFF, s2 −4096, s3 0x200000, s4 = 2, s5 = 7. -/
def runSlot : Slot :=
  { mode := .running, act := some actUser, pc := 0x40, level := 3, ceil := 9,
    sregs := [(1, 0xFF), (2, 0xFFFFFFFFFFFFF000), (3, 0x200000), (4, 2), (5, 7)] }

/-- The package with a running slot 0 of core 0 and the tables. -/
def demo : State :=
  { cores := [(0, { slots := [(0, runSlot)] })], hbm := tables, fe := { astbase := 0x100001 } }

/-- The package demo with its running slot changed. -/
def demoWith (f : Slot → Slot) : State := demo.modMe f

/-- The package demo with the activation of its running slot changed. -/
def demoAct (f : Activation → Activation) : State := demo.modMyAct f

/-- The package demo with core 0 changed. -/
def demoCore (f : Core → Core) : State := demo.modCore 0 f

/-- The package demo with an activation that is a system activation. -/
def demoSys : State := demoAct (fun a => { a with system := true })

/-- The package demo with a fetch line of branch targets at its PC. -/
def demoCode : State := { demo with hbm := bytesAt 0x40 (lineOf 0x010000000000000000000000#96) ++ tables }

/-- Scalar register 6 holds a value. -/
def demoReg (s : State) (v : Word) : State := s.modMe (fun x => x.setS 6 v)

/-- A command of activation 7 of slot 0. -/
def cmd (i : Instr) (ops : List Word := []) (vecs : List Vec := []) (data : List Byte := []) : EngCmd :=
  { instr := i, slot := 0, serial := 7, asid := 0, system := false, pc := 0x20, ops := ops, vecs := vecs, data := data }


theorem witness_Plain : Plain demo 0x200000 8 .write 0x200000 ∧ Plain demo 0x200000 8 .read 0x200000 ∧ Plain demo 0x200000 16 .atomic 0x200000 := by
  refine ⟨⟨by decide, ⟨⟨2 ^ 61 + 0x3E3, 0x200000⟩, ?_⟩, ?_, ?_, ?_, ?_, ?_, ?_, ?_, ?_, ?_⟩, ⟨by decide, ⟨⟨2 ^ 61 + 0x3E3, 0x200000⟩, ?_⟩, ?_, ?_, ?_, ?_, ?_, ?_, ?_, ?_, ?_⟩,
    ⟨by decide, ⟨⟨2 ^ 61 + 0x3E3, 0x200000⟩, ?_⟩, ?_, ?_, ?_, ?_, ?_, ?_, ?_, ?_, ?_⟩⟩ <;> decide +kernel

/-! For each statement: states and operands that meet the hypotheses of its clauses, at the ends of their ranges. -/

/-- The result of an operation that may fail is a value with a property. -/
def okAnd {ε α : Type} (x : Except ε α) (P : α → Bool) : Bool := match x with | .ok a => P a | .error _ => false

/-- The sources of an instruction are there, and what it takes has a property. -/
def takes (s : State) (l : List VSrc) (P : List Vec → List Vec → State → Bool) : Bool :=
  match s.takeSrcs l with | .ok vs ps u => P vs ps u | _ => false

/-- An instruction answers a next state with a property. -/
def runs (i : Instr) (s : State) (P : State → Bool) : Bool := match exec i s with | .next t => P t | _ => false

/-- A fetch line whose slots 0 and 1 pair: NOP and ADD s3, s4, 100. -/
def pairLine : List Byte :=
  let w0 : IWord := 0x010000000000000000000000#96
  let w1 : IWord := 0x1000C4000000800000000064#96
  let lw := 0x21 + onesIn 96 w0.toNat % 2 * 2 ^ 14 + onesIn 96 w1.toNat % 2 * 2 ^ 15
  bytesOf 4 (lw + onesIn 32 lw % 2 * 2 ^ 19) ++ bytesOf 12 w0.toNat ++ bytesOf 12 w1.toNat ++ List.replicate 36 0

/-- The package demo with a pair at its PC. -/
def demoPair : State := { demo with hbm := bytesAt 0x40 pairLine ++ tables }

/-- The word in a slot of a line decodes to an instruction. -/
def slotIs (bs : List Byte) (k : Nat) (i : Instr) : Bool := match decode (slotWord bs k) with | .instr j => decide (j = i) | _ => false

theorem witness_StepRunsDecoded :
    (demo.fe.trip = false ∧ demo.pairNext = none ∧ { demo with agenda := [.thermalThrottle] }.agenda = [.thermalThrottle]) ∧
    (∀ was ∈ [none, some (SrWas.level 3)],
     let s := { demo with pairNext := some ⟨0, 0, .add g0 3 4 (.imm 100), some 9, was⟩ }
     let u := { s with pairNext := none, cur := (0, 0) }
     let w := u.modMyAct (fun a => { a with pairSr := some 9 })
     w.me.mode = .running ∧ w.me.wait = .none ∧ w.hazard 0 0 none (.add g0 3 4 (.imm 100)) = false ∧ w.me.badRegs = [] ∧
     (w.myAct.map (·.cmds)).getD [] = []) ∧
    (let u := { demoWith (fun x => { x with mode := .faultService }) with pairNext := none, cur := (0, 0) }
     u.me.mode ≠ .running) ∧
    (let s := demoCode
     let w := (s.choose 0 0).beginUnit
     s.agenda = [] ∧ s.forced = none ∧ s.nextIssue = some (0, 0) ∧ (s.slotOf 0 0).age < 4096 ∧ (s.choose 0 0).entryFault = none ∧ pcSlot (s.slotOf 0 0).pc ≤ 4 ∧ w.me.badRegs = [] ∧ (w.myAct.map (·.cmds)).getD [] = [] ∧
     okAnd ((s.choose 0 0).fetchLine 0 0 0x40 false) (fun bs => lparOk (lineWord bs) && sparOk bs 0 && lineOk (lineWord bs) && !lwBit (lineWord bs) 5 &&
       slotIs bs 0 (.nop g0)) = true) ∧
    (let s := demoPair
     let w := (s.choose 0 0).beginUnit
     s.agenda = [] ∧ s.forced = none ∧ s.nextIssue = some (0, 0) ∧ (s.slotOf 0 0).age < 4096 ∧ (s.choose 0 0).entryFault = none ∧ pcSlot (s.slotOf 0 0).pc ≤ 4 ∧ w.me.badRegs = [] ∧ (w.myAct.map (·.cmds)).getD [] = [] ∧
     okAnd ((s.choose 0 0).fetchLine 0 0 0x40 false) (fun bs => lparOk (lineWord bs) && sparOk bs 0 && sparOk bs 1 && lineOk (lineWord bs) &&
       lwBit (lineWord bs) 5 && slotIs bs 0 (.nop g0) && slotIs bs 1 (.add g0 3 4 (.imm 100))) = true) ∧
    pairOk (.nop g0) (.add g0 3 4 (.imm 100)) = true := by
  decide +kernel

theorem witness_DecodeEncode :
    wellFormed (.bfx g0 true 7 2 63 0) = true ∧ (encode (.bfx g0 true 7 2 63 0)).isSome = true ∧
    decode 0x1000C4000000800000000064#96 = .instr (.add g0 3 4 (.imm 100)) := by decide +kernel

theorem witness_GuardOffPasses :
    demo.me.acts ⟨true, 0⟩ = false ∧ demo.me.acts ⟨false, 7⟩ = false ∧ demo.me.pending .pred 7 = false ∧
    (encodeFields (.nop ⟨true, 0⟩)).map (·.tok) = some false ∧ (encodeFields (.mxzero ⟨true, 0⟩ (some 9) 7)).map (·.tok) = some true := by
  decide +kernel

theorem witness_EveryStepAnswers : demo.fe.trip = false ∧ { demo with fe := { trip := true } }.fe.trip = true := by decide +kernel

theorem witness_MemoryStaysCanonical :
    (match step { demo with agenda := [.thermalThrottle] } with | .next _ => true | _ => false) = true ∧
    Memory.wf demo.hbm ∧ HostMemory.wf demo.hostMem ∧ Memory.wf (demo.coreOf 0).localMem ∧ smWf (fun _ => {}) demo.tiles := by decide +kernel

theorem witness_ScalarResults :
    demo.me.acts g0 = true ∧ demo.me.acts ⟨true, 1⟩ = true ∧ Ty.i8.isInt = true ∧ Ty.n64.isInt = true ∧
    (0 : Fin 64).val + (63 : Fin 64).val + 1 ≤ 64 ∧ (63 : Fin 64).val + (0 : Fin 64).val + 1 ≤ 64 := by decide +kernel

theorem witness_MultiplyDivideResults : demo.me.acts g0 = true ∧ demo.relaxed = false := by decide +kernel

theorem witness_PredicateAndMaskResults : demo.me.acts g0 = true ∧ Ty.f32.isMaskTy = true := by decide +kernel

theorem witness_PointerResults : demo.me.acts g0 = true := by decide +kernel

theorem witness_NopAndPrio : demo.me.acts g0 = true := by decide +kernel

theorem witness_BranchesTaken :
    demoCode.me.acts g0 = true ∧ demoCode.checkTarget 0 0 0x40 = .ok () ∧ demoCode.checkTarget 0 0 0x44 = .ok () ∧
    demoCode.checkTarget 0 0 (demoCode.me.s 0 + (0x41#32).signExtend 64) = .ok () ∧
    1 < (demoCode.me.s 4).toNat ∧ (demoCode.me.s 0).toNat ≤ 1 := by decide +kernel

theorem witness_BranchTargetFaults :
    demoCode.me.acts g0 = true ∧ demoCode.cur.2 ≠ 4 ∧ demoCode.me.act.bind (·.gang) = none ∧ 1 < (demoCode.me.s 4).toNat ∧
    5 ≤ (0x45 : Nat) % 64 ∧ canonical 0x0080000000000000#64 = false ∧
    okAnd (demo.fetchLine 0 0 0x1000 false) (fun bs => lparOk (lineWord bs) && !lwBit (lineWord bs) 0) = true := by decide +kernel

theorem witness_SpecialRegisters :
    demo.me.acts g0 = true ∧ demo.relaxed = false ∧ sregAssigned 0x000 = true ∧ sregAssigned 0x138 = true ∧
    demo.isSystem = false ∧ demo.me.act.bind (·.gang) = none ∧
    demo.me.act.bind (·.pairSr) = none ∧ (demoAct (fun a => { a with pairSr := some 5 })).me.act.bind (·.pairSr) = some 5 := by decide +kernel

/-- The porter of core 0 runs an activation in place of the slot, and serves a fault of slot 2. -/
def demoPorter : State :=
  ({ demo with cur := (0, 4) }.modSlot 0 4 (fun _ => { runSlot with act := some { actUser with queue := none, system := true } })).modCore 0
    (fun k => { k with serving := some (.service 2) })

theorem witness_TrapsAbort :
    demo.me.acts g0 = true ∧ demo.cur.2 ≠ 4 ∧ demo.me.act.bind (·.gang) = none ∧
    demoPorter.me.acts g0 = true ∧ demoPorter.cur.2 = 4 ∧ demoPorter.myCore.serving = some (.service 2) := by decide +kernel

/-- Slot 2 of core 0 is in fault service, with an entry that has a value and one that has none. -/
def demoStopped (cause : Word) : State :=
  demoSys.modSlot 0 2 (fun _ => { runSlot with mode := .faultService, frec := {
    cause := cause, rpc := 0x80, addr := 0x77,
    saved := [⟨3, .load, .scalar, 5, 0, 0, false, some 9, none, none, 0⟩, ⟨4, .load, .scalar, 6, 0, 0, false, none, none, none, 0⟩] } })

theorem witness_BreakAndResume :
    (let s := demoCore (fun k => { k with brkEn := 2 })
     s.me.acts g0 = true ∧ s.me.act.bind (·.queue) = some 1 ∧ s.myCore.brkEn.getLsbD 1 = true ∧ s.cur.2 ≠ 4) ∧
    demoPorter.me.acts g0 = true ∧ demo.myCore.brkEn.getLsbD 1 = false ∧
    (let s := demoStopped 0x80000010
     s.me.acts g0 = true ∧ s.isSystem = true ∧ (s.me.s 4).toNat = 2 ∧ (s.me.s 0).toNat ≤ 3 ∧ (s.slotOf 0 0).mode ≠ .faultService ∧
     (s.slotOf 0 2).mode = .faultService ∧ (s.slotOf 0 2).frec.cause.toNat % 256 = 0x10 ∧
     (s.slotOf 0 2).frec.saved.all (fun e => e.fail.isNone) = true ∧ (s.slotOf 0 2).act.bind (·.gang) = none) ∧
    demo.isSystem = false := by decide +kernel

/-- Slot 2 of core 0 has stopped on a row fault of its MXLDV, or the matrix engine serves a fault of its own. -/
def demoRow (raised : Nat) : State :=
  (demoStopped 0x80000011).modCore 0 (fun k => { k with
    rowProg := { k.rowProg with held := true }
    matrix := { q := [{ cmd (.mxldv g0 none true 1 1 4 o0) [0x200000, 64] with slot := 2 }], fault := some { addr := 0x99, row := 3, write := false, cycle := 0, since := 0, raised := raised } } })

/-- The copy engine serves a fault of its head command. -/
def demoCopyFault : State :=
  demoSys.modCore 0 (fun k => { k with copy := { q := [cmd (.cpy g0 none 2 1 4 (.imm 4) o0) [0x200010, 0, 4]], fault := some { addr := 0x99, row := 0, write := false, cycle := 0, since := 0, raised := 2 } } })

theorem witness_BreakAndResume_engines :
    (let s := demoRow 1
     (s.me.s 4).toNat = 2 ∧ (s.slotOf 0 2).mode = .faultService ∧ (s.slotOf 0 2).frec.cause.toNat % 256 = 0x11 ∧ s.rowFaultOf 0 2 = true ∧
     s.myCore.matrix.q.isEmpty = false) ∧
    ((demoReg (demoRow 2) 24).me.s 6).toNat = 24 ∧ ((demoRow 2).myCore.eng .matrix).fault.map (·.raised) = some 2 ∧ (demoRow 2).isSystem = true ∧
    ((demoReg demoCopyFault 8).me.s 6).toNat = 8 ∧ (demoCopyFault.myCore.eng .copy).fault.map (·.raised) = some 2 ∧
    (demoSys.myCore.eng .copy).fault.all (fun f => f.raised != 2) = true ∧ demoSys.cur.2 ≠ 4 ∧ demoSys.me.act.bind (·.gang) = none ∧
    (∀ i ∈ [32, 4, 16, 9], 32 ≤ i ∨ (i / 8 % 2 = 0 ∧ (3 < i % 8 ∨ i / 16 % 2 = 1)) ∨ (i / 8 % 2 = 1 ∧ i % 8 ≠ 0)) := by decide +kernel

/-- A slot that waits on memory for at most lim clocks since t0, its watched unit written. -/
def demoWait (cond : WCond) (lim t0 poll : Word) (acq : Scope := .none) : State :=
  { demo with cycle := 3000, watches := [⟨0, 0, 0x200000 / 32, false, true⟩] }.modMe
    (fun x => { x with wait := .mem 9 cond 0x200000 0 lim t0 poll .glob acq })

theorem witness_WaitsBeginAndEnd :
    (demo.me.acts g0 = true ∧ (demo.me.s 3 + (0#32).signExtend 64).toNat % 8 = 0 ∧
      okAnd (demo.readMem .glob (demo.me.s 3) 8) (fun bs => wordOfBytes bs == 0) = true ∧ demo.me.act.bind (·.waitT0) = none ∧
      demo.me.s 0 = 0 ∧ demo.me.s 5 = 7 ∧ ({ demo with cycle := 3000 }.me.s 5).toNat ≤ ({ demo with cycle := 3000 }.cycle - 2993).toNat) ∧
    (∀ acq ∈ [Scope.none, .core, .pod],
     let s := demoWait .eq 0 0 3000 acq
     (s.slotOf 0 0).mode = .running ∧ (s.slotOf 0 0).wait = .mem 9 .eq 0x200000 0 0 0 3000 .glob acq ∧
     okAnd ({ s with cur := (0, 0) }.readMem .glob 0x200000 8) (fun bs => wordOfBytes bs == 0) = true ∧
     (s.watches.any (fun w => w.core == 0 && w.slot == 0 && w.fired)) = true ∧ (3000#64).toNat ≤ s.cycle.toNat) ∧
    (let s := demoWait .ne 2000 1000 9999
     (2000#64) ≠ 0 ∧ (2000#64).toNat ≤ (s.cycle - 1000).toNat) ∧
    (let s := { demo with cycle := 3000 }.modMe (fun x => { x with wait := .clk 2000 1000 })
     (s.slotOf 0 0).mode = .running ∧ (s.slotOf 0 0).wait = .clk 2000 1000 ∧ (2000#64).toNat ≤ (s.cycle - 1000).toNat) := by decide +kernel

/-- The package demo with bytes at 0x200000 of HBM and at 0 of the local memory of core 0. -/
def demoMem : State :=
  { demo with hbm := tables ++ bytesAt 0x200000 [1, 2, 3, 0xF4, 5, 6, 7, 8, 9, 10, 11, 12, 13, 14, 15, 16] }.modCore 0
    (fun k => { k with localMem := bytesAt 0 [0x11, 0x22, 0x33, 0x99, 0x55, 0x66, 0x77, 0x88] })

/-- Bank 0 of core 0 is off. -/
def demoOff : State := demoMem.modCore 0 (fun k => { k with bankRole := 0xAAAAAA5500000003 })

theorem witness_LoadsSeeMemory : demoMem.myCore.locBad 0 8 = false ∧ demoMem.myCore.locBad (262144 - 4) 4 = false ∧
    demoMem.myCore.locErr (262144 - 4) 4 = false := by decide +kernel

theorem witness_LoadsSeeMemory_global : Plain demo 0x200000 16 .atomic 0x200000 := witness_Plain.2.2

theorem witness_ScalarLoads :
    demoMem.me.acts g0 = true ∧ demoMem.relaxed = false ∧ (demoMem.readMem .loc (demoMem.me.addr 8 (.base 0 0)) 8).isOk = true ∧
    (demoMem.readMem .glob (demoMem.me.addr 1 (.base 3 0)) 1).isOk = true := by decide +kernel

theorem witness_ScalarStores :
    demo.me.acts g0 = true ∧ (o0.rel = true → False) ∧ demo.relaxed = false ∧ smGet (fun _ => []) demo.clusterBuf (clusterOf demo.cur.1) = [] ∧
    demo.myCore.locBad (demo.me.addr 8 (.base 0 0)).toNat 8 = false ∧ demo.me.addr 8 (.base 3 0) = 0x200000 := by decide +kernel

theorem witness_AccessFaults :
    demoOff.me.acts g0 = true ∧ o0.rel = false ∧ demoOff.cur.2 ≠ 4 ∧ demoOff.me.act.bind (·.gang) = none ∧
    demoOff.myCore.locBad (demoOff.me.addr 4 (.base 0 8191)).toNat 4 = true ∧ demoMem.myCore.locBad 262141 4 = true ∧
    canonical ((demoReg demoMem 0x0100000000000000).me.addr 4 (.base 6 0)) = false ∧
    (match demoMem.translate 0 demoMem.me.asid.toNat 0x0001000000000000 .read with | .error (.trans a) => a == 0x0001000000000000 | _ => false) = true := by
  decide +kernel

/-- Vector registers 2 and 3 hold 32-bit lanes. -/
def demoVec : State := demoMem.modMe (fun x => (x.setV 2 (packLanes 32 [1, 2, 3, 0])).setV 3 (packLanes 32 [10, 20, 30]))

/-- A local atom of core 0 holds an uncorrectable error. -/
def demoLocErr : State := demoMem.modCore 0 (fun k => { k with locPoison := [(0, true)] })

theorem witness_AccessFaults_error : demoLocErr.me.acts g0 = true ∧ demoLocErr.myCore.locBad 28 4 = false ∧ demoLocErr.myCore.locErr 28 4 = true := by
  decide +kernel

theorem witness_VectorLoads :
    demoVec.me.acts g0 = true ∧ demoVec.me.leaseOf [9] = none ∧ demoVec.me.leaseOf (vregsOf [.reg 2] ++ [9]) = none ∧
    takes demoVec [] (fun _ _ u => !u.relaxed && (u.me.act.map (·.lanesDone)).getD 0 == 0 && (u.me.act.map (·.lanesVal)).getD 0 == 0 &&
      (List.range 16).all (fun i => (u.readMem .glob (0x200000 + BitVec.ofNat 64 (i * 4)) 4).isOk && (u.readMem .glob (0x200000 + BitVec.ofNat 64 i * u.me.s 4) 4).isOk)) = true ∧
    takes demoVec [.reg 2] (fun vs _ u => !u.relaxed && (List.range 16).all (fun i =>
      (u.readMem .glob (0x200000 + BitVec.ofInt 64 (tyInt .i32 (Machine.laneOf 32 (vs.getD 0 0) i)) * 4) 4).isOk)) = true := by decide +kernel

theorem witness_VectorStores :
    demoVec.me.acts g0 = true ∧ demoVec.me.leaseOf (vregsOf [.reg 3]) = none ∧ demoVec.me.leaseOf (vregsOf [.reg 2, .reg 3]) = none ∧
    takes demoVec [.reg 3] (fun vs _ u => (u.me.act.map (·.lanesDone)).getD 0 == 0 &&
      ([0, 15].foldlM (fun (w : State) i => w.writeMem .loc (BitVec.ofNat 64 (i * 4)) .none (bytesOf 4 (Machine.laneOf 32 (vs.getD 0 0) i))) u).isOk) = true ∧
    takes demoVec [.reg 2, .reg 3] (fun vs _ u =>
      ([0, 15].foldlM (fun (w : State) i => w.writeMem .loc (BitVec.ofInt 64 (tyInt .i32 (Machine.laneOf 32 (vs.getD 0 0) i)) * 4) .none
        (bytesOf 4 (Machine.laneOf 32 (vs.getD 1 0) i))) u).isOk) = true := by decide +kernel

theorem witness_VectorStores_release :
    demoVec.me.acts g0 = true ∧ (demoVec.releasePrep .pod false).2 = false ∧ (demoVec.releasePrep .pod false).1.me.act.bind Activation.pendingFault = none ∧
    (demoVec.releasePrep .pod false).1.me.leaseOf (vregsOf [.reg 3]) = none ∧
    takes (demoVec.releasePrep .pod false).1 [.reg 3] (fun vs _ u => (u.me.act.map (·.lanesDone)).getD 0 == 0 &&
      ([0, 15].foldlM (fun (w : State) i => w.writeMem .glob (0x200000 + BitVec.ofNat 64 (i * 4)) .pod (bytesOf 4 (Machine.laneOf 32 (vs.getD 0 0) i))) u).isOk) = true := by
  decide +kernel

theorem witness_VectorStores_aligned (k : Fin 8) (hk : k = 1 ∨ k = 0) :
    let u := (demoVec.modMe (fun x => x.setM 1 0x30)).modMyAct (fun a => { a with popped := [] })
    (u.me.addr 4 (.base 3 0)).toNat % 64 = 0 ∧ (k = 1 → ((List.range 16).filter (fun i => (u.me.m k).getLsbD i)).head? = some 4) ∧
    Plain u (u.me.addr 4 (.base 3 0) + BitVec.ofNat 64 (4 * 4)) (64 - 4 * 4) .write (0x200000 + 4 * 4) ∧
    (k = 0 → ((List.range 16).filter (fun i => (u.me.m k).getLsbD i)).head? = some 0) := by
  intro u
  have hp : Plain u (u.me.addr 4 (.base 3 0) + BitVec.ofNat 64 (4 * 4)) (64 - 4 * 4) .write (0x200000 + 4 * 4) :=
    ⟨by decide +kernel, ⟨⟨2 ^ 61 + 0x3E3, 0x200010⟩, by decide +kernel⟩, by decide +kernel, by decide +kernel, by decide +kernel, by decide +kernel,
      by decide +kernel, by decide +kernel, by decide +kernel, by decide +kernel, by decide +kernel⟩
  refine ⟨by decide +kernel, ?_, hp, ?_⟩
  · rintro rfl; decide +kernel
  · rintro rfl; decide +kernel

theorem witness_LocalWrites : demoMem.myCore.locBad (262144 - 4) 4 = false ∧ demoMem.myCore.locBad (262144 - 3) 4 = true := by decide +kernel

theorem witness_IntegerAtomics :
    demoMem.me.acts g0 = true ∧ demoMem.relaxed = false ∧ Ty.i32.isInt = true ∧ 32 ≤ Ty.i32.width ∧ Ty.n64.isInt = true ∧ o0.rel = false ∧
    smGet (fun _ => []) demoMem.clusterBuf 0 = [] ∧ (demoMem.me.addr 4 (.base 0 0)).toNat % 4 = 0 ∧ demoMem.myCore.locBad 0 4 = false ∧
    (demoMem.me.addr 4 (.base 3 2)).toNat % 4 ≠ 0 ∧ demoMem.cur.2 ≠ 4 ∧ demoMem.me.act.bind (·.gang) = none := by decide +kernel

theorem witness_FloatingAtomics :
    demoVec.me.acts g0 = true ∧ (demoVec.me.addr 4 (.base 3 0)).toNat % 4 = 0 ∧
    okAnd (demoVec.translate 0 0 0x200000 .atomic) (fun p => p.det) = true ∧ demoVec.me.detSpill.toNat % 32 = 0 ∧
    demoVec.det.closed.contains 0 = false ∧ demoVec.det.spilled = [] ∧ demoVec.det.baskets = [] ∧
    demoVec.me.leaseOf (vregsOf [.reg 2, .reg 3]) = none ∧
    takes demoVec [.reg 2, .reg 3] (fun _ _ u => (u.me.act.map (·.lanesDone)).getD 0 == 0) = true := by decide +kernel

/-- One lane of VAMOF with both orders at pod scope is performed; where a tile under tenure holds it, it is held. -/
theorem witness_FloatingAtomics_lanes :
    (demoVec.releasePrep .pod false).2 = false ∧ (demoVec.releasePrep .pod false).1.me.act.bind Activation.pendingFault = none ∧
    (demoVec.releasePrep .pod false).1.me.leaseOf (vregsOf [.reg 2, .reg 3]) = none ∧
    takes (demoVec.releasePrep .pod false).1 [.reg 2, .reg 3] (fun _ _ u => okAnd (u.atomicMe .glob 0x200004 4 false .pod (.amof .add 7) (.slot none none .n32 .pod))
      (fun r => match r with | .done _ _ _ _ => true | .later _ => false)) = true ∧
    okAnd ({ demo with heldStores := [⟨.store [(0x200000, 9)], { core := 0, slot := 1, serial := 3, va := 0x200000 }, .none⟩] }.atomicMe .glob 0x200004 4 false .none
      (.amof .add 7) (.slot none none .n32 .pod)) (fun r => match r with | .done _ _ _ _ => false | .later x => x.lanesHeld) = true ∧
    okAnd (demoVec.detSend .add 0x200004 .pod 7 2) (fun x => x.det.baskets.length == 1) = true := by decide +kernel

theorem witness_Plain_memory : Plain demoMem 0x200000 16 .read 0x200000 ∧ Plain demoMem 0x200000 16 .atomic 0x200000 := by
  refine ⟨⟨by decide, ⟨⟨2 ^ 61 + 0x3E3, 0x200000⟩, by decide +kernel⟩, by decide, by decide +kernel, by decide +kernel, by decide +kernel, by decide +kernel, by decide +kernel, by decide +kernel, by decide +kernel, by decide +kernel⟩,
   ⟨by decide, ⟨⟨2 ^ 61 + 0x3E3, 0x200000⟩, by decide +kernel⟩, by decide, by decide +kernel, by decide +kernel, by decide +kernel, by decide +kernel, by decide +kernel, by decide +kernel, by decide +kernel, by decide +kernel⟩⟩

/-- A future at 0x200000 with a value and a state. -/
def demoCell (v st : Nat) : State := { demo with hbm := tables ++ bytesAt 0x200000 (bytesOf 8 v ++ bytesOf 8 st) }

theorem witness_Futures :
    (0x200000 : Nat) < 2 ^ 56 - 16 ∧ demo.me.sb = [] ∧ (demo.me.addr 8 (.base 3 0)).toNat % 16 = 0 ∧ demo.deferred = [] ∧
    ∀ st ∈ [0, 1, 2], (demoCell 77 st).me.acts g0 = true ∧ (demoCell 77 st).unreadable 0x200000 16 = false ∧
      wordOfBytes ((List.range 8).map (fun i => (demoCell 77 st).rd8 (0x200000 + 8 + i))) = st := by decide +kernel

theorem witness_Futures_waiter :
    ∀ take ∈ [true, false],
      let d : Deferred := ⟨0, 2, 8, 4, 5, 0x200000, take, .pod, 0, 0x200000, none⟩
      let s := { (demoCell 77 0).modSlot 0 2 (fun _ => { runSlot with wait := .future 4, act := some { actUser with serial := 8 } }) with deferred := [d] }
      s.deferred = [d] ∧ d.pa = 0x200000 ∧ (d.core, d.slot) ≠ s.cur ∧ (s.writerAct d.who).isSome = true ∧ (s.slotOf 0 2).wait = .future 4 ∧
      (s.me.act.bind Activation.pendingFault) = none ∧ s.heldStores = [] ∧ s.remoteOut = [] ∧ (s.me.act.map (·.posted)).getD [] = [] := by decide +kernel

/-- A store of the running slot is held at its home. -/
def demoHeld : State := { demo with heldStores := [⟨.store [(0x200000, 9)], { core := 0, slot := 0, serial := 7, va := 0x200000 }, .none⟩] }

theorem witness_FenceAndClose_fence :
    (demo.me.acts g0 = true ∧ smGet (fun _ => []) demo.clusterBuf (clusterOf demo.cur.1) = [] ∧ demo.heldStores = [] ∧
      (demo.me.act.map (·.posted)).getD [] = [] ∧ demo.me.act.bind Activation.pendingFault = none ∧ (demo.me.act.map (·.errs)).getD [] = []) ∧
    (demoHeld.me.acts g0 = true ∧ demoHeld.heldOf 0 0 7 true = true ∧ demoHeld.heldOf 0 0 7 false = true) ∧
    ((demoAct (fun a => { a with posted := [(3, 0x200000)] })).me.act.map (·.posted)).getD [] = [(3, 0x200000)] ∧
    (let s := { demo with remoteOut := [⟨[(0x400000000000, 9)], { core := 0, slot := 0, serial := 7, va := 0x200000, strong := true }, some 3⟩] }
     s.remoteOut.any (fun b => s.strongOwn b.who) = true) ∧
    (let s := demoAct (fun a => { a with storeFail := some (0x0A, 0x1234, 0) })
     s.me.acts g0 = true ∧ (s.me.act.bind Activation.pendingFault).isSome = true ∧ s.cur.2 ≠ 4 ∧ s.me.act.bind (·.gang) = none) ∧
    (let s := demoAct (fun a => { a with errs := [⟨.copy, 1, 5, 0x20, 0x1234⟩] })
     s.me.acts g0 = true ∧ s.me.act.bind Activation.pendingFault = none ∧
     ((s.me.act.map (·.errs)).getD []).filter (fun e => e.unit == 1 || e.unit == 2) = [⟨.copy, 1, 5, 0x20, 0x1234⟩]) := by decide +kernel

/-- An update of round 3 to the element at 0x200000. -/
def update3 : DetUpdate := ⟨0x200000, 3, 64, 0, .add, 0x3F800000, none⟩

theorem witness_FenceAndClose_close :
    (let s := (demoReg demo 3).modMe id
     s.me.acts g0 = true ∧ s.relaxed = false ∧ (s.me.s 6).toNat % 2 ^ 32 = 3 ∧ s.detBlocked 3 = false ∧ s.detLine 0 3 = none ∧ s.otherMember = false) ∧
    { demo with det := { baskets := [⟨0x10000, 3, [update3]⟩] } }.detBlocked 3 = false ∧
    (let s := { demo with det := { baskets := [⟨0x10000, 3, [update3]⟩] }, hostHeld := [(0x200000 / 64, true)] }
     s.detBlocked 3 = false ∧ s.detLine 0 3 = some (0x200000 / 64)) ∧
    { demo with heldStores := [⟨.det 0x200000 update3, { core := 0, slot := 0, serial := 7, va := 0x200000 }, .none⟩] }.detBlocked 3 = true ∧
    { demo with members := [(1, ⟨true, false, 0, 1⟩)] }.otherMember = true := by decide +kernel

/-- The scoreboard of the running slot holds one entry. -/
def demoSb (e : SbEntry) : State := demoWith (fun x => { x with sb := [e] })

/-- An entry for scalar register 5 that has a value. -/
def landing : SbEntry := ⟨3, .load, .scalar, 5, 0, 0, false, some 9, none, none, 0⟩

theorem witness_LateResultsWait :
    { demo with relaxed := true }.me.acts g0 = true ∧ { demo with relaxed := true }.relaxed = true ∧
    (∀ e ∈ [landing, { landing with kind := .token }, { landing with kind := .pred, cls := .pred }, { landing with value := none },
      { landing with cls := .vector, lease := true }],
      ((demoSb e).slotOf 0 0).mode = .running ∧ ((demoSb e).slotOf 0 0).sb.find? (fun x => x.id == 3) = some e ∧ e.fail = none) := by decide +kernel

theorem witness_VectorArithmetic :
    demoVec.me.acts g0 = true ∧ Ty.i32.isInt = true ∧ (tyFmt .f32).isSome = true ∧
    demoVec.me.leaseOf (vregsOf [.reg 2, .reg 3, .reg 4] ++ [9]) = none ∧
    takes demoVec [.reg 2] (fun _ _ u => !u.relaxed) = true ∧ takes demoVec [.reg 2, .reg 3] (fun _ _ u => !u.relaxed) = true ∧
    takes demoVec [.reg 2, .reg 3, .reg 4] (fun _ _ u => !u.relaxed) = true := by decide +kernel

theorem witness_VectorFunctions :
    demoVec.me.acts g0 = true ∧ (tyFmt .f32).isSome = true ∧ (tyFmt .bf16).isSome = true ∧ demoVec.me.leaseOf (vregsOf [.reg 2] ++ [9]) = none ∧
    demoVec.me.leaseOf (vregsOf [.reg 2, .reg 3] ++ [9]) = none ∧ takes demoVec [.reg 2] (fun _ _ u => !u.relaxed) = true ∧
    takes demoVec [.reg 2, .reg 3] (fun _ _ u => !u.relaxed) = true := by decide +kernel

theorem witness_VectorBits :
    demoVec.me.acts g0 = true ∧ demoVec.me.leaseOf (vregsOf [.reg 2, .reg 3] ++ [9]) = none ∧
    takes demoVec (.reg 2 :: VOp.srcs (.vec (.reg 3))) (fun _ _ u => !u.relaxed) = true := by decide +kernel

theorem witness_VectorSelections :
    demoVec.me.acts g0 = true ∧ demoVec.me.leaseOf (vregsOf [.reg 2, .reg 3]) = none ∧ demoVec.me.leaseOf (vregsOf [.reg 2]) = none ∧
    takes demoVec [.reg 2] (fun _ _ u => !u.relaxed) = true ∧ takes demoVec [.reg 2, .reg 3] (fun _ _ u => !u.relaxed) = true ∧
    Ty.i32.isInt = true ∧ (tyFmt .f32).isSome = true := by decide +kernel

theorem witness_VectorMoves :
    demoVec.me.acts g0 = true ∧ demoVec.me.leaseOf (vregsOf [.reg 2, .reg 3, .reg 4] ++ [9]) = none ∧ demoVec.me.leaseOf [9] = none ∧
    takes demoVec [.reg 2, .reg 3] (fun _ _ u => !u.relaxed) = true ∧ takes demoVec [] (fun vs ps u => vs == [] && ps == [] && !u.relaxed) = true := by decide +kernel

theorem witness_VectorConversions :
    demoVec.me.acts g0 = true ∧ demoVec.me.leaseOf (vregsOf [.reg 2, .reg 3, .reg 4] ++ [9]) = none ∧
    takes demoVec [.reg 2] (fun _ _ u => !u.relaxed) = true ∧ takes demoVec [.reg 2, .reg 3, .reg 4] (fun _ _ u => !u.relaxed) = true := by decide +kernel

/-- A member of gang 6 at the running slot, member n of m. -/
def demoGang (n m : Nat) : State := demoWith (fun x => { x with gangInfo := gangWord 6 n m, act := some { actUser with gang := some 6 } })

theorem witness_VectorSources :
    (demo.me.act.map (·.popped)).getD [] = [] ∧
    (let s := demoWith (fun x => { x with chanTag := [(3, 5)], chans := [(3, [⟨9, .none, 0, 0⟩])] })
     s.me.chanTagOf 3 ≠ 0 ∧ s.me.chan 3 = [⟨9, .none, 0, 0⟩]) ∧
    (let s := demoWith (fun x => { x with chanTag := [(3, 5)] })
     s.me.acts g0 = true ∧ s.me.leased 9 = false ∧ s.me.chanTagOf 3 ≠ 0 ∧ s.me.chan 3 = []) ∧
    demo.me.chanTagOf 3 = 0 ∧ demo.cur.2 ≠ 4 ∧ demo.me.act.bind (·.gang) = none ∧
    (demoSb ⟨3, .arith, .vector, 2, 0, 0, true, none, none, none, 0⟩).me.leased 2 = true := by decide +kernel

theorem witness_Futures_plain (st : Nat) (h : st = 0 ∨ st = 1 ∨ st = 2) :
    Plain (demoCell 77 st) 0x200000 16 .read 0x200000 ∧ Plain (demoCell 77 st) 0x200000 16 .atomic 0x200000 ∧
    (demoCell 77 st).me.act.isSome = true := by
  rcases h with rfl | rfl | rfl <;>
    refine ⟨⟨by decide, ⟨⟨2 ^ 61 + 0x3E3, 0x200000⟩, ?_⟩, ?_, ?_, ?_, ?_, ?_, ?_, ?_, ?_, ?_⟩,
      ⟨by decide, ⟨⟨2 ^ 61 + 0x3E3, 0x200000⟩, ?_⟩, ?_, ?_, ?_, ?_, ?_, ?_, ?_, ?_, ?_⟩, rfl⟩ <;> decide +kernel

/-- The matrix queue of core 0 holds one command. -/
def demoMatrix (x : EngCmd) : State := demoMem.modCore 0 (fun k => { k with matrix := { q := [x] } })

/-- The copy queue of core 0 holds one command. -/
def demoCopy (x : EngCmd) : State := demoMem.modCore 0 (fun k => { k with copy := { q := [x] } })

theorem witness_MatrixCommandsQueue :
    demoVec.me.acts g0 = true ∧ demoVec.me.pending .pred 0 = false ∧ demoVec.me.leaseOf (vregsOf [.reg 2, .reg 3]) = none ∧
    takes demoVec [.reg 2, .reg 3] (fun _ _ u => !u.me.pending .pred 0) = true := by decide +kernel

theorem witness_CopyCommandsQueue :
    demoSys.me.acts g0 = true ∧ demoSys.me.pending .pred 0 = false ∧ demoSys.isSystem = true ∧
    (demoSys.me.s 3 + (64#32).signExtend 64).toNat % 64 = 0 ∧ (demoSys.readMem .glob (demoSys.me.s 3 + 64) 64).isOk = true ∧
    (demoSys.readMem .glob (demoSys.me.s 3 + 64) 1088).isOk = true ∧ demo.isSystem = false ∧ demo.cur.2 ≠ 4 ∧
    demo.me.act.bind (·.gang) = none := by decide +kernel

/-- A ring of four crates of 1,024 bytes, its own landing at 16 KiB of core 0, with all its credit. -/
def ring4 : Ring := { s := 4, hid := 16, queue := 1, prio := 3, pred := 1, succ := 2, csize := 1024, pports := 1, sports := 2, lands := [(0, 16)], credit := 4 }

/-- Ring 3 is set up. -/
def demoRing (r : Ring) : State := { demo with rings := [(3, some r)] }

/-- Crate 2 of ring 3 is held, with block 6. -/
def demoCrate : State :=
  (demoRing { ring4 with outn := 3 }).modCore 0 (fun k => { k with res := [⟨.crate 3 2, [(18 * 1024, 1024)], .held, 6, 1024, 1, true⟩] })

theorem witness_RingSendsQueue :
    (∀ r ∈ [ring4, { ring4 with credit := 0 }], (demoRing r).me.acts g0 = true ∧ (demoRing r).me.pending .pred 0 = false ∧
      (demoRing r).me.act.bind (·.ringNum) = none ∧ smGet (fun _ => none) (demoRing r).rings 3 = some r ∧ r.err = false ∧ r.lost = false) ∧
    (1 ≤ (demo.me.s 1).toNat ∧ (demo.me.s 1).toNat ≤ ring4.csize ∧ ring4.outn < ring4.credit ∧ (demo.me.s 0).toNat = 0 ∧
      ring4.csize < (demo.me.s 3).toNat ∧ { ring4 with credit := 0 }.credit ≤ ring4.outn) ∧
    smGet (fun _ => none) demo.rings 3 = none ∧
    (ring4.lands.head?.map (·.1)) = some demoCrate.cur.1 ∧ (demoCrate.me.s 4).toNat < ring4.s ∧
    demoCrate.myCore.crateHeld 3 (demoCrate.me.s 4).toNat = some ⟨.crate 3 2, [(18 * 1024, 1024)], .held, 6, 1024, 1, true⟩ := by decide +kernel

/-- An entry for predicate 2. -/
def predEntry (v : Option Vec) : SbEntry := ⟨3, .pred, .pred, 2, 0, 0, false, v, none, none, 0⟩

theorem witness_GuardedCommandsWait :
    ((⟨true, 2⟩ : Guard).p ≠ 0 ∧ (demoSb (predEntry none)).me.sb.find? (fun x => x.cls == .pred && x.reg == 2) = some (predEntry none)) ∧
    ∀ b ∈ [true, false],
      let x := { cmd (.mxzero ⟨!b, 2⟩ none 7) with guard := some (3, b) }
      let s := (demoSb (predEntry (some 1))).modCore 0 (fun k => { k with matrix := { q := [x] } })
      (s.slotOf 0 0).sb.find? (fun e => e.id == 3 && e.kind == .pred) = some (predEntry (some 1)) ∧ x.slot = 0 ∧
      (s.coreOf 0).matrix.q = [x] ∧ (s.coreOf 0).copy.q = [] := by decide +kernel

/-- The commands of MatrixCommandEffects, with operands that are aligned and one that is not. -/
def matrixCmds : List EngCmd :=
  [cmd (.mxcfgAscale g0 none (.reg 1)) [0xFF], cmd (.mxcfgAreset g0 none), cmd (.mxprg g0 none), cmd (.mxzero g0 none 0x81),
   cmd (.mxrd g0 none 4 1 2 1), cmd (.mxld g0 none (.full 1) 1 4 o0) [0, 256], cmd (.mxld g0 none (.r64 3) 1 4 o0) [0, 64],
   cmd (.mxld g0 none (.acc 7) 1 4 o0) [0, 64], cmd (.mxld g0 none (.acc 7) 1 4 o0) [0, 65], cmd (.mxldv g0 none true 1 1 4 o0) [0x200000, 64],
   cmd (.mxmma g0 none .e4m3 .e4m3 false 1 (.slot 0) (.slot 0) o0) [0, 0], cmd (.mxmma g0 none .i8 .i8 false 1 (.slot 0) (.slot 0) o0) [0, 0],
   cmd (.mxmma g0 none .e4m3 .e4m3 false 1 (.loc 5) (.slot 0) o0) [0x1000, 0], cmd (.mxmma g0 none .e4m3 .cb8 true 1 (.loc 5) (.loc 6) o0) [0x1000, 64],
   cmd (.mxmma g0 none .i8 .i8 false 1 (.slot 0) (.loc 6) o0) [0, 0x2000],
   cmd (.mxsca g0 none .f32 .f32 2 1 (.reg 2) (.reg 3)) [] [0, 0]]

theorem witness_MatrixCommandEffects :
    (∀ x ∈ matrixCmds, ((demoMatrix x).coreOf 0).matrix.q.head? = some x ∧ ((demoMatrix x).coreOf 0).matrix.running = none ∧
      ((demoMatrix x).coreOf 0).matrix.fault = none ∧ ((demoMatrix x).coreOf 0).rolePend = none ∧ x.guard = none ∧ x.late = false ∧
      (∀ n ∈ mxReads x.instr, n ∉ ((demoMatrix x).coreOf 0).badArrays) ∧ x.blk = 0 ∧ x.pre = none ∧ (cmdOrder x.instr).acq = false ∧
      (cmdOrder x.instr).rel = false) ∧
    (List.range 16).all (fun i => !demoMem.myCore.locBad (256 * i) 256 && !demoMem.myCore.locErr (256 * i) 256) = true ∧ ¬ (65 : Nat) % 64 = 0 ∧
    (List.range 16).all (fun i => okAnd ((demoMatrix (cmd (.mxldv g0 none true 1 1 4 o0) [0x200000, 64])).readEng 0 0 true
      (0x200000 + BitVec.ofNat 64 i * 64) 64) (fun bs => bs.length == 64)) = true ∧
    (tyFmt .e4m3).isSome = true ∧ Ty.i8 ≠ .cb8 ∧
    (∀ a ∈ [64, 0x1000, 0x2000], demoMem.myCore.locBad a 4096 = false ∧ demoMem.myCore.locErr a 4096 = false ∧
      demoMem.myCore.locBad a 1024 = false ∧ demoMem.myCore.locErr a 1024 = false) := by decide +kernel

theorem witness_MatrixCommandEffects_MayStart :
    MayStart (demoMatrix (cmd (.mxzero g0 none 1))) 0 .matrix (cmd (.mxzero g0 none 1)) := by
  refine ⟨?_, ?_, ?_, ?_, ?_, ?_, ?_, ?_, ?_, ?_⟩ <;> decide +kernel

/-- An operand array has an uncorrectable error. -/
theorem witness_MatrixCommandEffects_error :
    let s := (demoMatrix (cmd (.mxmma g0 none .e4m3 .e4m3 false 1 (.slot 0) (.slot 0) o0) [0, 0])).modCore 0 (fun k => { k with badArrays := mxReads (.mxmma g0 none .e4m3 .e4m3 false 1 (.slot 0) (.slot 0) o0) })
    mxReads (.mxmma g0 none .e4m3 .e4m3 false 1 (.slot 0) (.slot 0) o0) ≠ [] ∧
    ∃ n ∈ mxReads (.mxmma g0 none .e4m3 .e4m3 false 1 (.slot 0) (.slot 0) o0), n ∈ (s.coreOf 0).badArrays := by decide +kernel

/-- The rows that MXLDV reads are there whatever the cores hold. -/
theorem witness_MatrixCommandEffects_rows :
    let s := demoMatrix (cmd (.mxldv g0 none true 1 1 4 o0) [0x200000, 64])
    let bs := fun i => (List.range 64).map (fun n => s.rd8 (0x200000 + 64 * i + n))
    (∀ (u : State) i, i < 16 → { u with cores := s.cores, cur := s.cur, agenda := s.agenda, choice := s.choice } = s → u.cur = (0, engSlot .matrix) →
      u.readEng 0 0 true (0x200000 + BitVec.ofNat 64 i * 64) 64 = .ok (bs i)) ∧ ∀ i, (bs i).length = 64 := by
  intro s bs
  refine ⟨fun u i hi he hc => ?_, fun i => by simp [bs]⟩
  have hu : u = { ({ s with cur := (0, engSlot .matrix) } : State) with cores := u.cores, agenda := u.agenda, choice := u.choice } := by
    conv_rhs => rw [← he]
    rw [← hc]
  rw [hu, Sys2Proof.Safety.readEng_cores { s with cur := (0, engSlot .matrix) } u.cores u.agenda u.choice rfl]
  · have : ∀ i < 16, State.readEng { s with cur := (0, engSlot .matrix) } 0 0 true (0x200000 + BitVec.ofNat 64 i * 64) 64 = .ok (bs i) := by
      decide +kernel
    exact this i hi
  · have : ∀ i < 16, ∀ x ∈ pageChunks (0x200000 + BitVec.ofNat 64 i * 64) 64,
        (State.translate { s with cur := (0, engSlot .matrix) } 0 0 x.1 .read).toOption.all (fun p => !p.window) = true := by decide +kernel
    intro x hx p hp
    have h := this i hi x hx
    rw [hp] at h
    simpa [Except.toOption] using h

theorem witness_AttentionAndStores :
    (let x := cmd (.mxst g0 none .f32 false .rne 1 1 4 .loc o0) [0x1000, 64]
     let s := demoMatrix x
     (s.coreOf 0).matrix.q.head? = some x ∧ x.ops.map (fun v => v.toNat % 64) = [0, 0] ∧
     okAnd ([0, 15].foldlM (fun (w : State) i => w.writeEng (x.who 0 (0x1000 + BitVec.ofNat 64 i * 64)) false false
       (mxstRow (s.coreOf 0) x .f32 false 1 i).1) (started s 0 .matrix)) (fun u => (u.coreOf 0).matrix.running == some { status := 0 }) = true) ∧
    demoMem.myCore.locBad 0x1000 256 = false ∧ demoMem.myCore.locBad 0x1000 (256 * 64) = false ∧ demoMem.myCore.locBad 0x2000 64 = false ∧ demoMem.myCore.locErr 0x1000 (256 * 64) = false ∧
    (0x1000 : Nat) + 4096 ≤ 0x2000 := by decide +kernel

/-- R175: a record of CPY2D: two rows of eight bytes from global to local memory. -/
def copyRec : List Byte :=
  bytesOf 8 0x1000 ++ bytesOf 8 0x200000 ++ bytesOf 4 8 ++ bytesOf 4 2 ++ bytesOf 8 64 ++ bytesOf 8 64 ++ [1] ++ bytesOf 23 0

/-- A tile of two bytes in one row, at 0x200000. -/
def tile2 : Tile := { gen := 3, state := .live, version := 4, desc := ⟨0x200000, 0, 1, 0, 0, [2, 0, 0, 0], [1, 0, 0, 0]⟩ }

theorem witness_CopyCommandEffects :
    (let x := cmd (.cpy g0 none 2 1 4 (.imm 4) o0) [0x200010, 0, 4]
     let s1 := started (demoCopy x) 0 .copy
     ((demoCopy x).coreOf 0).copy.q.head? = some x ∧ (4 : Nat) ≤ 2 ^ 32 ∧
     okAnd (s1.readEng 0 0 false 0 4) (fun bs => okAnd ((s1.acqSpan 0 x false 0 4).writeEng (x.who 0 0x200010) false true bs)
       (fun u => (u.coreOf 0).copy.running == some { status := 0 })) = true) ∧
    (let x := cmd (.cpy g0 none 0 1 4 (.imm 4) o0) [2, 0, 4]
     ((demoCopy x).coreOf 0).copy.q.head? = some x ∧ 0 < 4 ∧ 0 < 2 + 4 ∧ 2 < 0 + 4) ∧
    (let x := cmd (.cpy2d g0 none 4 0 .loc o0) [] [] copyRec
     let s1 := started (demoCopy x) 0 .copy
     (copyOfDesc copyRec).any (fun p => decide (p.rb * p.rows ≤ 2 ^ 32) && p.dglob != p.sglob && okAnd (s1.copyAll 0 x p.dglob p.sglob 0
       ((List.range p.rows).map (fun r => (p.dst + BitVec.ofNat 64 r * p.ds, p.src + BitVec.ofNat 64 r * p.ss, p.rb))))
       (fun u => (u.coreOf 0).copy.running == some { status := 0 })) = true) ∧
    copyOfDesc (List.replicate 64 0xFF) = none ∧
    (let x := cmd (.cpyt g0 none true 1 4 o0) [0x1000, BitVec.ofNat 64 (mkHandle 3 1)]
     let s1 := { started (demoCopy x) 0 .copy with tiles := [(1, tile2)] }
     okAnd (s1.tileForCopy x (mkHandle 3 1)) (fun td => decide (0x1000 + tileBytes td ≤ 262144) &&
       okAnd (s1.copyAll 0 x true false 0 ((elemAddrs td).zipIdx.map (fun e => (e.1, BitVec.ofNat 64 (0x1000 + 2 ^ td.esz * e.2), 2 ^ td.esz))))
         (fun u => (u.coreOf 0).copy.running == some { status := 0 })) = true) := by decide +kernel

/-- An engine whose head command has run. -/
def demoDone (x : EngCmd) (r : EngRun) : State :=
  (demoSb ⟨0, .token, .scalar, 9, 0x20, 0, false, none, none, none, 0⟩).modCore 0 (fun k => { k with matrix := { q := [x], running := some r } })

theorem witness_CommandsComplete :
    (let x := { cmd (.mxzero g0 (some 9) 7) with tok := some 0 }
     ∀ st ∈ [0, 8], let s := demoDone x { status := st }
       (s.coreOf 0).matrix.q = [x] ∧ (s.coreOf 0).matrix.running = some { status := st } ∧ (s.slotOf 0 0).mode = .running ∧
       (s.slotOf 0 0).act = some actUser ∧ actUser.serial = x.serial ∧ x.dests = [] ∧ cmdUnit x.instr ≤ 2 ∧
       (s.slotOf 0 0).sb.find? (fun y => y.id == 0) = some ⟨0, .token, .scalar, 9, 0x20, 0, false, none, none, none, 0⟩) ∧
    (let s := (demoDone (cmd (.mxwait g0)) { status := 0 }).modMe (fun x => { x with wait := .mx })
     (s.coreOf 0).matrix.q = [cmd (.mxwait g0)] ∧ (s.slotOf 0 0).wait = .mx ∧ (s.slotOf 0 0).act = some actUser ∧ actUser.errs = [] ∧
     actUser.serial = (cmd (.mxwait g0)).serial) := by decide +kernel

/-- An MXRD of two rows into vector registers 4 and 5 has run. -/
def demoRows (st : Nat) : State :=
  (demoWith (fun x => { x with sb := [⟨1, .arith, .vector, 4, 0x20, 0, true, none, none, none, 0⟩, ⟨2, .arith, .vector, 5, 0x20, 0, true, none, none, none, 0⟩] })).modCore 0
    (fun k => { k with matrix := { q := [{ cmd (.mxrd g0 none 4 1 2 1) with dests := [1, 2] }], running := some { status := st, results := [7, 9] } } })

theorem witness_CommandsComplete_rows :
    ∀ st ∈ [0, 4],
      let s := demoRows st
      (s.coreOf 0).matrix.running = some { status := st, results := [7, 9] } ∧ [1, 2].Nodup ∧ (4 : Nat) + 2 ≤ 32 ∧
      (∀ n, n < 2 → (s.slotOf 0 0).sb.find? (fun y => y.id == [1, 2].getD n 0) = some ⟨[1, 2].getD n 0, .arith, .vector, 4 + n, 0x20, 0, true, none, none, none, 0⟩) ∧
      (∀ y ∈ (s.slotOf 0 0).sb, y.lease = true → y.id ∈ [1, 2]) ∧ (s.slotOf 0 0).leased 5 = true ∧ (s.slotOf 0 0).act = some actUser := by decide +kernel

/-- The landing core of ring 3 holds the crates of the ring, the second one landed with block 1. -/
def demoLands (r : Ring) : State :=
  (demoRing r).modCore 0 (fun k => { k with res := [⟨.crate 3 0, [(16 * 1024, 1024)], .filling, 0, 0, 0, false⟩,
    ⟨.crate 3 1, [(17 * 1024, 1024)], .filling, 1, 4, 1, true⟩] })

theorem witness_RingTraffic_blocks :
    (∀ w ∈ [[], [1]],
      let r := { ring4 with waiting := w }
      let s := demoLands r
      smGet (fun _ => none) s.rings 3 = some r ∧ r.lands = [(0, 16)] ∧ r.awaits 0 = true ∧ 2 ≤ r.s ∧ r.skipped = [] ∧ r.inNext ≤ r.told ∧ r.told = 0 ∧
      ((s.coreOf 0).res.find? (fun y => decide (y.owner = .crate 3 (0 % r.s)))).isSome = true ∧
      ((s.coreOf 0).res.find? (fun z => decide (z.owner = .crate 3 ((0 + 1) % r.s)) && z.landed && z.blk == 1)).isSome = true) ∧
    (ring4.awaits 1 = true ∧ ring4.told < 1 ∧ ring4.waiting.contains ring4.told = false) ∧ ring4.awaits 4 = false ∧
    ring4.told = ring4.inNext ∧ 0 < ring4.s ∧ ring4.waiting = [] := by decide +kernel

theorem witness_RingTraffic :
    smGet (fun _ => none) demo.rings 3 = none ∧ smGet (fun _ => none) (demoRing ring4).rings 3 = some ring4 ∧ ring4.succMatch = false ∧
    (5 ≠ ring4.s ∨ 1024 ≠ ring4.csize) ∧ ring4.lands = [(0, 16)] ∧ (List.replicate 1024 (0 : Byte)).length ≤ ring4.csize ∧ 2 ^ 32 - 1 < 2 ^ 32 ∧
    (ring4.skipped.contains ring4.inNext || ring4.lands.all (fun l => ring4.freed.contains (ring4.inNext, l.1))) = false ∧
    ring4.inNext = ring4.arrived ∧ ring4.skipped = [] ∧ ring4.forwarding = [] ∧ ring4.freed = [] ∧
    (demoCrate.coreOf 0).res.find? (fun y => decide (y.owner = .crate 3 2) && y.state == .held) =
      some ⟨.crate 3 2, [(18 * 1024, 1024)], .held, 6, 1024, 1, true⟩ ∧
    (ring4.lands.all (fun l => (ring4.freed ++ [(6, 0)]).contains (ring4.inNext, l.1))) = false := by decide +kernel

/-- A row of MXLDV at the head of the matrix queue has a fault that nobody has raised. -/
def rowFault (s : State) : State := s.modCore 0 (fun k => { k with matrix := {
  q := [cmd (.mxldv g0 none true 1 1 4 o0)], fault := some { addr := 0x99, row := 3, write := false, cycle := 0, since := 0 } } })

theorem witness_RowFaultStops :
    ((rowFault demo).coreOf 0).matrix.q = [cmd (.mxldv g0 none true 1 1 4 o0)] ∧
    ((rowFault demo).coreOf 0).matrix.fault.map (·.raised) = some 0 ∧ ((rowFault demo).slotOf 0 0).mode = .running ∧
    ((rowFault demo).slotOf 0 0).act = some actUser ∧ actUser.serial = (cmd (.mxwait g0)).serial ∧
    ((rowFault (demoWith (fun x => { x with act := none, mode := .free }))).slotOf 0 0).act = none := by decide +kernel

theorem witness_MessagesSent :
    demoVec.me.acts g0 = true ∧ (demoVec.myCore.sendBuf.filter (fun e => e.slot == demoVec.cur.2 && !e.leaving)).length < 32 ∧
    (demoVec.me.s 4).toNat < 2 ^ 22 ∧ (demoVec.readL 0 (localOff (demoVec.me.s 0)) (16 * 15)).isOk = true ∧ demoVec.me.leaseOf [2, 3, 4, 5] = none ∧
    demoVec.me.msgSrc.getLsbD 22 = false ∧ demoVec.me.msgKind.toNat % 8 ≤ 1 ∧ demoVec.cur.2 ≠ 4 ∧ demoVec.me.act.bind (·.gang) = none ∧
    2 ^ 22 ≤ ((demoReg demoVec 0x400000).me.s 6).toNat ∧ (15 : Fin 256).val < 16 ∧ demoVec.isSystem = false ∧
    localOff (demoVec.me.s 4) % 32 ≠ 0 ∧ (1 : Fin 8) ≠ 0 ∧ 16 ≤ (16 : Fin 256).val ∧ (demoVec.me.s 5).toNat < 8 ∧
    localOff (demoVec.me.s 0) % 32 = 0 ∧ (demoVec.readL 0 (localOff (demoVec.me.s 0)) 32).isOk = true ∧ demoVec.relaxed = false := by decide +kernel

/-- Core 5 with a handler 16. -/
def demoFive (f : Core → Core) : State := demo.modCore 5 (fun k => f { k with handlers := [(16, ⟨0x1000, 0, 1⟩)] })

/-- A message to queue 1 of core 5, for handler 16. -/
def toFive : Message := ⟨5, 1, 16, 2, .plain, 3, 0, 0, false, 9, List.replicate 32 1, none⟩

/-- An agent's message to queue 1 of core 5. -/
def agentFive : Message := { toFive with agent := true, kind := .dispatch }

/-- Queue 1 of core 5. -/
def fiveQueue (q : Queue) : State := demoFive (fun k => { k with queues := [(1, q)] })

theorem witness_MessagesArrive :
    (let q := ((demoFive id).coreOf 5).queueOf 1
     (demoFive id).coreUp 5 = true ∧ fromPacket toFive = false ∧ ((demoFive id).coreOf 5).svc = .inService ∧ 1 ≤ toFive.queue ∧ 16 ≤ toFive.hid ∧ q.size ≠ 0 ∧ (demoFive id).entryServes 5 toFive = true ∧ q.heapCount = 0 ∧
     ((demoFive id).coreOf 5).spilling 1 = 0 ∧ ((demoFive id).coreOf 5).agentWaits 1 = false ∧ q.used + msgSize toFive ≤ q.size * 256 ∧
     toFive.src / 4096 = Config.pkg ∧ q.held = false ∧ q.posted = false ∧ q.run = false ∧ (demoFive id).entryServes 5 { toFive with hid := 17 } = false) ∧
    (∀ sp ∈ [false, true],
      let q : Queue := { size := 1, spill := sp, heapCap := 1, msgs := [{ toFive with len := 14 }] }
      let k := (fiveQueue q).coreOf 5
      k.queueOf 1 = q ∧ q.size * 256 < q.used + msgSize toFive ∧ q.heapCount + k.spilling 1 < q.heapCap) ∧
    256 ≤ ((demoFive (fun k => { k with agentPort := List.replicate 256 agentFive })).coreOf 5).agentPort.length ∧
    (let s := demoFive (fun k => { k with agentPort := [agentFive] })
     fromPacket agentFive = false ∧ (s.coreOf 5).agentPort = [agentFive] ∧ ((s.coreOf 5).queueOf 1).used + msgSize agentFive ≤ ((s.coreOf 5).queueOf 1).size * 256) ∧
    (let s := demo.modCore 5 (fun k => { k with agentWait := [agentFive], handlers := [(16, ⟨0x1000, 0, 3⟩)] })
     (s.coreOf 5).agentWait = [agentFive] ∧ agentFive.kind = .dispatch ∧ s.coreUp 5 = true ∧ ((s.coreOf 5).queueOf 1).size ≠ 0 ∧
     ((s.coreOf 5).queueOf 1).used + msgSize agentFive ≤ ((s.coreOf 5).queueOf 1).size * 256 ∧ s.entryServes 5 agentFive = true ∧ (s.coreOf 5).agentWaits 1 = false) ∧
    (let s := demoFive (fun k => { k with sendBuf := [⟨toFive, 0, 7, true⟩] })
     (s.coreOf 5).sendBuf = [⟨toFive, 0, 7, true⟩] ∧ toFive.dest / 4096 = Config.pkg ∧ s.takes (toFive.dest % 4096) toFive = true ∧ s.pkgDown Config.pkg = false) ∧
    (let s := fiveQueue { spill := true, heapCount := 1 }
     let q := (s.coreOf 5).queueOf 1
     q.spill = true ∧ 0 < q.heapCount ∧ q.replaying = false ∧ q.used < q.size * 128) ∧
    (let s := fiveQueue { spill := true, heapCount := 1, replaying := true }
     ((s.coreOf 5).queueOf 1).replaying = true ∧ (s.coreOf 5).replayQueued 1 = false ∧ s.replayFits 5 1 = true) ∧
    ((fiveQueue { run := true }).coreOf 5).queueOf 1 = { run := true } ∧ ((fiveQueue { held := true }).coreOf 5).queueOf 1 = { held := true } := by decide +kernel

/-- A tag: a gang, a core, a slot and a channel. -/
def tagTo (gid core slot chan : Nat) : Word := BitVec.ofNat 64 (gid * 2 ^ 32 + core * 2 ^ 10 + slot * 2 ^ 7 + chan)

/-- Gang 6 of two members, on slot 0 of core 0 and slot 2 of core 1. -/
def gang6 (bars : SMap (Option Barrier)) : Gang := ⟨0, 0, 3, [⟨0, 16, 1, [], some 0, true, false⟩, ⟨1, 16, 1, [], some 2, true, false⟩], bars, false⟩

/-- The running slot is member 0 of gang 6, whose member 1 runs too. -/
def demoBar (bars : SMap (Option Barrier)) : State :=
  { demoGang 0 2 with gangs := [(6, some (gang6 bars))] }.modSlot 1 2
    (fun _ => { runSlot with gangInfo := gangWord 6 1 2, act := some { actUser with gang := some 6 }, level := 3 })

theorem witness_PipesBarriersTasks_pipes :
    (let s := demoReg (demoGang 0 2) (tagTo 6 0 0 3)
     let tag := s.me.s 6
     s.me.acts g0 = true ∧ s.me.gid ≠ 0 ∧ bits tag.toNat 6 3 = 0 ∧ tagGid tag = s.me.gid ∧ tagCore tag = globalCore s.cur.1 ∧ tagSlot tag = s.cur.2 ∧
     tagChan tag = 3 ∧ smGet (fun _ => 0) s.me.chanTag 3 = 0 ∧ smGet (fun _ => 0) s.me.chanSeen 3 = 0 ∧ smGet (fun _ => 0) s.me.portTag 3 = 0 ∧
     smGet (fun _ => 0) s.me.portSeen 3 = 0) ∧
    (demo.me.gid = 0 ∧ demo.cur.2 ≠ 4 ∧ demo.me.act.bind (·.gang) = none) ∧
    (let s := (demoGang 0 2).modMe (fun x => { x with chanTag := [(3, tagTo 6 0 0 3)], portTag := [(3, tagTo 6 5 1 2)], credits := [(3, 4)] })
     smGet (fun _ => 0) s.me.chanTag 3 ≠ 0 ∧ smGet (fun _ => 0) s.me.portTag 3 ≠ 0 ∧ s.me.leaseOf (vregsOf [.reg 2]) = none ∧
     takes s [.reg 2] (fun _ _ u => u.cur == s.cur && smGet (fun _ => []) u.clusterBuf (clusterOf u.cur.1) == []) = true ∧ o0.rel = false) ∧
    (tagCore (tagTo 6 0 0 3) / 4096 = Config.pkg ∧ tagSlot (tagTo 6 0 0 3) = 0 ∧ (demoGang 0 2).me.act.bind (·.gang) = some (tagGid (tagTo 6 0 0 3)) ∧
     (demoGang 0 2).me.mode = .running ∧ ((demoGang 0 2).slotOf 0 1).act = none ∧ ((demoGang 0 2).slotOf 0 1).act.bind (·.gang) ≠ some 6) ∧
    (let s := { demo with cycle := 100 }.modMe (fun x => { x with tests := [⟨0, 3, 93, 7⟩] })
     (s.slotOf 0 0).tests = [⟨0, 3, 93, 7⟩] ∧ (7#64).toNat ≤ (s.cycle - 93).toNat) := by decide +kernel

theorem witness_PipesBarriersTasks_barriers :
    (∀ bars ∈ [([] : SMap (Option Barrier)), [(2, some ⟨3, .cluster, [1]⟩)]],
      let s := demoBar bars
      s.me.acts g0 = true ∧ s.me.gid ≠ 0 ∧ s.gangOf s.me.gid = some (gang6 bars) ∧ barRefused s.me (gang6 bars) 0 .cluster 3 = false ∧
      smGet (fun _ => []) s.clusterBuf (clusterOf s.cur.1) = [] ∧ s.heldStores = [] ∧ (s.me.act.map (·.posted)).getD [] = [] ∧
      (gang6 bars).members[s.me.gangInfo.toNat % 64]?.map (fun m => (m.core, m.slot)) = some (s.cur.1, some s.cur.2)) ∧
    (let bars : SMap (Option Barrier) := [(2, some ⟨3, .cluster, [0]⟩)]
     (demoBar bars).gangOf 6 = some (gang6 bars) ∧ (gang6 bars).bars = bars ∧ (0, 0) ≠ (1, 2)) := by decide +kernel

/-- R353: a task descriptor. -/
def taskDesc (h q p : Nat) : List Byte := bytesOf 1 h ++ bytesOf 1 q ++ bytesOf 1 p ++ List.replicate 61 0

theorem witness_PipesBarriersTasks_spawn :
    ∀ h ∈ [15, 16],
      let s := { demo with hbm := tables ++ bytesAt 0x200000 (taskDesc h 1 4), launches := [(1, some ⟨0, 0, [(0, 1)], [], false, none⟩)] }.modMe
        (fun x => { x with launchInfo := 0x8000000000000001 })
      s.me.acts g0 = true ∧ s.me.launchInfo.getLsbD 63 = true ∧ okAnd (s.readDesc .glob (s.me.addr 1 (.base 3 0)) 64) (fun bs => taskOk bs == (h == 16)) = true ∧
      s.myCore.deque.length + s.myCore.spillDeque.length < s.myCore.dequeRoom ∧ (smGet (fun _ => none) s.launches (s.me.launchInfo.toNat % 2 ^ 32)).isSome = true := by decide +kernel

/-- A message at the head of queue 1 of core 5, whose handler serves class n. -/
def demoHead (m : Message) (n : Nat) : State :=
  demo.modCore 5 (fun k => { k with handlers := [(16, ⟨0x1000, 0x2000, BitVec.ofNat 64 (1 + 2 * n)⟩)], queues := [(1, { msgs := [m], code := true })] })

/-- A submission of handler 16, of no tile. -/
def sub16 : Submission := ⟨bytesOf 1 16 ++ bytesOf 2 0 ++ bytesOf 1 1 ++ List.replicate 380 0, 0, none, none, []⟩

/-- Transaction number 0 of round 1. -/
def num1 : Nat := txnNumber false 1 0

/-- A transaction dispatched to core 5. -/
def txn5 : Txn :=
  { sub := { sub16 with asid := 3 }, phase := .dispatched, core := 5, map := 0x3000, ranges := [], granted := [true, true], gver := [0, 0], frozen := [false, false] }

/-- A gang of one member on slot 1 of core 5. -/
def gangFive : Gang := { gang6 [] with members := [⟨5, 16, 1, [], some 1, false, false⟩] }

theorem witness_ActivationsStart :
    ((demoHead toFive 0).nextStart 5 = some (0, 1) ∧ (demoHead toFive 0).headOf 5 1 = some toFive ∧ (demoHead toFive 0).entryServes 5 toFive = true ∧
      ((demoHead toFive 0).queueOf 5 1).spoiled.contains toFive = false ∧ toFive.kind ≠ .dispatch ∧ toFive.kind ≠ .gang) ∧
    (let m := { toFive with kind := .code, len := 4, clines := 1, payload := lineOf 0x010000000000000000000000#96 }
     (demoHead m 0).nextStart 5 = some (0, 1) ∧ (demoHead m 0).headOf 5 1 = some m ∧ (demoHead m 0).entryServes 5 m = true) ∧
    (let m := { agentFive with msgid := num1 % 2 ^ 32 }
     let s := { demoHead m 1 with txns := [(num1, some txn5)] }
     (s.queueOf 5 1).spoiled.contains m = false ∧ txn5.mismatch = false ∧ s.nextStart 5 = some (0, 1) ∧ s.headOf 5 1 = some m ∧ s.entryServes 5 m = true ∧ s.dispatchTxn 5 m = some num1 ∧ s.txnOf num1 = some txn5 ∧
     ((s.coreOf 5).handlerOf 16).restart ≠ 0) ∧
    (let m := gangMessage 6 gangFive 0 ⟨5, 16, 1, [], some 1, false, false⟩
     let s := { demoHead m 2 with gangs := [(6, some gangFive)] }.modSlot 5 1 (fun x => { x with reserved := some (6, 0) })
     (s.queueOf 5 1).spoiled.contains m = false ∧ s.nextStart 5 = some (1, 1) ∧ s.headOf 5 1 = some m ∧ s.entryServes 5 m = true ∧ m.kind = .gang ∧ s.gangOf m.msgid = some gangFive ∧
     gangFive.ended = false ∧ ((s.coreOf 5).slotOf 1).reserved = some (m.msgid, 0)) := by decide +kernel

/-- R297: a descriptor of two tiles, the first for writing. -/
def txnTwo : List Byte :=
  bytesOf 1 16 ++ bytesOf 1 2 ++ bytesOf 1 0 ++ bytesOf 1 1 ++ List.replicate 92 0 ++ (bytesOf 8 (mkHandle 1 0) ++ bytesOf 4 0 ++ bytesOf 4 1) ++
    (bytesOf 8 (mkHandle 1 1) ++ bytesOf 4 0 ++ bytesOf 4 0) ++ List.replicate 256 0

/-- A transaction that runs on core 0. -/
def txnRuns : Txn :=
  { sub := { sub16 with desc := txnTwo, sizes := [8, 8] }, phase := .running, core := 0, map := 0x3000, ranges := [(0, 8), (0x1000, 8)],
    granted := [true, true], gver := [0, 0], frozen := [false, false] }

/-- Slot 0 of core 0 drains, having ended. -/
def demoEnding (e : Ending) (q : Queue) : State :=
  (demoWith (fun x => { x with mode := .draining, act := some { actUser with ending := some e, heldSubs := [sub16] } })).modCore 0
    (fun k => { k with queues := [(1, { q with msgs := [hello, toFive], run := true })] })

/-- Slot 0 of core 0 is in fault service and the porter's list is not empty. -/
def demoWork (w : WorkItem) : State :=
  (demoWith (fun x => { x with mode := .faultService, frec := { cause := 0x80000010 } })).modCore 0
    (fun k => { k with work := [w, .bookkeeping], handlers := [(1, ⟨0x5000, 7, 1⟩), (2, ⟨0x5000, 7, 1⟩)] })

theorem witness_ActivationsEnd :
    (let a := { actUser with queue := none, system := true, ending := some .reth }
     let s := demoPorter.modSlot 0 4 (fun x => { x with mode := .draining, act := some a })
     demoPorter.me.acts g0 = true ∧ demoPorter.cmdError (fun _ => true) = none ∧ demoPorter.me.act.bind Activation.pendingFault = none ∧
     (demoPorter.me.act.map (·.posted)) = some [] ∧ smGet (fun _ => []) demoPorter.clusterBuf (clusterOf demoPorter.cur.1) = [] ∧
     (s.slotOf 0 4).mode = .draining ∧ (s.slotOf 0 4).act = some a ∧ s.drained 0 4 a = true) ∧
    (demo.me.acts g0 = true ∧ demo.cmdError (fun _ => true) = none ∧ demo.me.act = some actUser ∧ actUser.txn = none ∧
      Activation.pendingFault actUser = none ∧ actUser.posted = []) ∧
    (let s := { demo with txns := [(num1, some txnRuns)] }.modMyAct (fun a => { a with txn := some num1 })
     s.me.acts g0 = true ∧ s.cmdError (fun _ => true) = none ∧ s.txnOf num1 = some txnRuns ∧ s.ownOut = false ∧
     (List.range 2).all (fun k => handlePkg (txnEntry txnRuns.sub.desc k).handle == Config.pkg) = true) ∧
    (∀ e ∈ [Ending.reth, .fault 7 false, .fault 7 true], ∀ n ∈ [1, 2],
      let s := demoEnding e { aborts := n }
      (s.slotOf 0 0).mode = .draining ∧ (s.slotOf 0 0).act = some { actUser with ending := some e, heldSubs := [sub16] } ∧
      s.drained 0 0 { actUser with ending := some e, heldSubs := [sub16] } = true ∧ actUser.queue = some 1 ∧ actUser.gang = none ∧
      actUser.launch = none ∧ actUser.storeFail = none ∧ s.relaxed = false ∧ s.coreUp 0 = true ∧ (s.coreOf 0).spillDeque = [] ∧ actUser.msg.kind = .plain) ∧
    ((demo.slotOf 0 0).budget = 0 ∧ (demo.slotOf 0 0).mode = .running) ∧
    (∀ w ∈ [WorkItem.bookkeeping, .forward 0, .service 0],
      let s := demoWork w
      (s.coreOf 0).work = [w, .bookkeeping] ∧ (s.slotOf 0 4).mode = .free ∧ (s.coreOf 0).serving = none ∧ (s.slotOf 0 0).mode = .faultService ∧
      (s.slotOf 0 0).act.bind (·.gang) = none ∧ s.fe.fsqLog2 = 0 ∧ (s.slotOf 0 0).frec.cause.toNat % 256 = 0x10) := by decide +kernel

/-- An entry whose restart address is not the firmware's is a replaced one. -/
theorem witness_ActivationsEnd_entry (w : WorkItem) :
    ((demoWork w).coreOf 0).firmwareEntry 1 = false ∧ ((demoWork w).coreOf 0).firmwareEntry 2 = false ∧ ((demo.modCore 0 (fun k => { k with work := [w] })).coreOf 0).firmwareEntry 2 = true := by
  refine ⟨?_, ?_, ?_⟩
  · have h : ((demoWork w).coreOf 0).handlerOf 1 = ⟨0x5000, 7, 1⟩ := rfl
    rw [Core.firmwareEntry, h, beq_eq_false_iff_ne]
    exact fun e => absurd (congrArg Handler.restart e) (by decide)
  · have h : ((demoWork w).coreOf 0).handlerOf 2 = ⟨0x5000, 7, 1⟩ := rfl
    rw [Core.firmwareEntry, h, beq_eq_false_iff_ne]
    exact fun e => absurd (congrArg Handler.restart e) (by decide)
  · rw [Core.firmwareEntry, beq_iff_eq]
    rfl

/-- Two tasks on the deque of core 5, the second kept by slot 2. -/
def demoTasks : State :=
  { demoFive (fun k => { k with deque := [⟨taskDesc 16 1 4, 4, 1, none, none⟩, ⟨taskDesc 17 1 4, 4, 1, some 2, none⟩] }) with
    launches := [(1, some ⟨0, 9, [(0, 2)], [], false, none⟩)] }

theorem witness_WorkAndReports :
    (let s := demoCode.modMe (fun x => { x with age := 4096 })
     s.slotReady 0 0 = true ∧ 4096 ≤ (s.slotOf 0 0).age) ∧
    (demoTasks.takeable 5).isSome = true ∧ (demoTasks.coreOf 5).deque.length ≤ 64 ∧ (∀ e ∈ (demoTasks.coreOf 5).spillDeque, e.pos.isSome = true) ∧
    (∀ c ∈ [6, 600],
      let s := demoTasks.modCore c (fun k => { k with handlers := [(16, ⟨0x1000, 0, 1⟩)] })
      (s.stealFrom c).map (fun e => (e.1, e.2.1)) = some (5, c == 6) ∧ 5 ≠ c ∧ (sgOf 5 = sgOf c ↔ c = 6)) ∧
    (∀ l ∈ [(⟨0, 9, [(0, 2)], [(0, 3)], true, some [(0, 3)]⟩ : Launch), ⟨0, 9, [], [(0, 3)], true, none⟩, ⟨0, 9, [], [(0, 3)], true, some [(0, 3)]⟩],
      smGet (fun _ => none) { demo with launches := [(1, some l)] }.launches 1 = some l) ∧
    smGet (fun _ => []) demo.clusterBuf 0 = [] ∧
    (let w : Who := { core := 0, slot := 0, serial := 7, va := 0x55 }
     let s := { demo with clusterBuf := [(0, [⟨[(0x200000, 9)], w, none⟩])] }
     smGet (fun _ => []) s.clusterBuf 0 = [⟨[(0x200000, 9)], w, none⟩] ∧ s.hostWait (0x200000 / 32 * 32) 32 = [] ∧
     { s with hostHeld := [(0x200000 / 64, true)] }.hostWait (0x200000 / 32 * 32) 32 ≠ [] ∧ s.homeFate 0x200000 = .now ∧ s.offlineAt (0x200000 / 32 * 32) = false ∧
     smGet (fun _ => false) s.poison (0x200000 / 32) = false ∧
     let b : BufStore := ⟨[(0x400000000000, 9)], w, some 3⟩
     smGet (fun _ => []) { demo with clusterBuf := [(0, [b])] }.clusterBuf 0 = [b] ∧
     let a := { actUser with posted := [(3, 0x55)] }
     let s := { demoAct (fun _ => a) with remoteOut := [b] }
     s.remoteOut = [b] ∧ w.ord = 0 ∧ w.core < agentCore ∧ s.writerAct w = some a ∧ a.storeFail = none ∧ a.posted = [(3, w.va)]) ∧
    (let u : DetUpdate := ⟨0x200000, 3, 64, 0, .add, 0x3F800000, none⟩
     let s := { demo with heldStores := [⟨.det 0x200000 u, { core := 0, slot := 0, serial := 7, va := 0x200000 }, .none⟩] }
     s.detBlocked 3 = true ∧ s.det.closing.contains 3 = false) ∧
    (demo.coreOf 0).missTrap = false ∧ demo.fe.flogLog2 = 0 ∧ demo.det.closed.contains 3 = false ∧ demo.det.spilled = [] ∧ demo.det.baskets = [] := by
  decide +kernel

/-- A tile descriptor of 4 by 8 words at a base. -/
def tile48 (base : Nat) : TileDesc := ⟨base, 2, 2, 0, 0, [8, 4, 0, 0], [4, 64, 0, 0]⟩

/-- The record of tile48. -/
def tile48Rec (base : Nat) : List Byte :=
  bytesOf 8 base ++ [2, 2, 0, 0, 0, 0, 0, 0] ++ bytesOf 2 8 ++ bytesOf 2 4 ++ bytesOf 4 0 ++ bytesOf 8 4 ++ bytesOf 8 64 ++ bytesOf 24 0

/-- A tile of generation 3. -/
def liveTile : Tile := { gen := 3, state := .live, version := 4, desc := tile48 0x200000 }

/-- Entries of the lock managers. -/
def demoTiles (l : List (Nat × Tile)) : State := { demo with tiles := l }

/-- Entry 1, of generation 3. -/
def h31 : Nat := mkHandle 3 1

theorem witness_TileOperations_issue :
    (demo.me.acts g0 = true ∧ h31 % 2 ^ 19 = 0 ∧ handlePkg h31 = Config.pkg ∧ (h31 + 2 ^ 42) % 2 ^ 19 = 0 ∧
      { demo with members := [(1, ⟨true, true, 0, 1⟩)] }.pkgDown (handlePkg (h31 + 2 ^ 42)) = true ∧ (h31 + 1) % 2 ^ 19 ≠ 0 ∧ demo.cur.2 ≠ 4 ∧
      demo.me.act.bind (·.gang) = none) ∧
    (let s := { demo with hbm := tables ++ bytesAt 0x200000 (tile48Rec 0x300000) }
     s.me.acts g0 = true ∧ okAnd (s.readDesc .glob (s.me.addr 1 (.base 3 0)) 64) (fun bs => parseTile bs == tile48 0x300000 && tileOk bs &&
       okAnd (s.translate 0 0 (BitVec.ofNat 64 (parseTile bs).base) .atomic) (fun p => paPkg p.pa == Config.pkg)) = true) ∧
    (let s := demoWith (fun x => { x with wait := .tile 9 3 0 })
     (s.slotOf 0 0).wait = .tile 9 3 0 ∧ (s.slotOf 0 0).act.bind (·.gang) = none ∧ (s.slotOf 0 0).mode = .running) := by decide +kernel

theorem witness_TileOperations_home :
    (5 < 4096 ∧ ((demoTiles []).lmOf 0).moving = false ∧ (demoTiles [(0, liveTile)]).overlaps (tile48 0x200000) 0 false (fun _ => false) = true ∧
      (demoTiles [(0, liveTile)]).overlaps (tile48 0x300000) 0 false (fun _ => false) = false ∧ ((demoTiles [(0, liveTile)]).tileAt 1).state = .free ∧
      ((demoTiles [(0, liveTile)]).tileAt 0).state ≠ .free ∧ bits (tile48 0x300000).base 37 29 = 0) ∧
    ((demoTiles []).lmOf (handleLmi h31)).moving = false ∧ tileKey h31 = 1 ∧ (demoTiles [(1, { liveTile with gen := 4 })]).stale h31 = true ∧
    (demoTiles [(1, liveTile)]).stale h31 = false ∧ ((demoTiles [(1, { liveTile with asid := 9 })]).tileAt 1).asid ≠ 0 ∧
    liveTile.parent = 0 ∧ liveTile.tenures = [] ∧ (demoTiles [(1, liveTile)]).pendingOn 1 = false ∧ { liveTile with tenures := [⟨1, true⟩] }.tenures ≠ [] ∧
    (demoTiles [(1, { liveTile with state := .frozen })]).overlaps liveTile.desc 0 false (fun k => k == 1) = false ∧
    (liveTile.depth < 3 ∧ 0 < liveTile.desc.rank ∧ liveTile.desc.dims.getD 0 0 % 2 = 0 ∧ (demoTiles [(1, liveTile)]).findRun (1 / 16384) 2 16384 0 = some 2) ∧
    (let s := demoTiles [(1, { liveTile with state := .split, nchild := 2, first := 2 }), (2, liveTile), (3, liveTile)]
     s.stale h31 = false ∧ ∀ j ∈ [0, 1], (s.tileAt (2 + j)).state ≠ .split ∧ (s.tileAt (2 + j)).tenures = [] ∧ s.pendingOn (2 + j) = false ∧ 2 + j ≠ 1) ∧
    (let s := { demoTiles [(1, liveTile)] with lmmap := [(0, ⟨0, true⟩)], lmHeld := [.tileOperationArrival 5 2 0 (.join h31)] }
     opIndex (.join h31) = 0 ∧ (s.lmOf 0).moving = true ∧ structural (.join h31) = true ∧ s.lmHeld = [.tileOperationArrival 5 2 0 (.join h31)]) := by decide +kernel

theorem witness_TransactionInstructions :
    (let s := { demo with hbm := tables ++ bytesAt 0x200000 sub16.desc }
     s.me.acts g0 = true ∧ okAnd (s.readDesc .glob (s.me.addr 1 (.base 3 0)) 384) (fun bs => (s.checkTxn bs 0 false).1 == 0) = true ∧ s.relaxed = false) ∧
    okAnd (demo.readDesc .glob (demo.me.addr 1 (.base 3 0)) 384) (fun bs => (demo.checkTxn bs 0 false).1 != 0) = true ∧
    (let s := demoWith (fun x => { x with txnNum := 5, tileMap := 2 * 2 ^ 18 + 0x3000 })
     s.me.txnNum ≠ 0 ∧ (1 : Fin 16).val < bits s.me.tileMap.toNat 22 18) ∧
    demo.me.txnNum = 0 ∧ demo.cur.2 ≠ 4 ∧ demo.me.act.bind (·.gang) = none := by decide +kernel

/-- A submission that names core 5. -/
def subFive : Submission :=
  { sub16 with desc := bytesOf 1 16 ++ bytesOf 1 0 ++ bytesOf 1 0 ++ bytesOf 1 1 ++ List.replicate 4 0 ++ bytesOf 4 5 ++ List.replicate 372 0 }

/-- A transaction numbered in round 1. -/
def txnNumbered : Txn :=
  { txn5 with phase := .numbered, sub := { sub16 with desc := txnTwo, sizes := [128, 128] }, ranges := [(0x1000, 256), (0x2000, 256)] }

/-- A number of package 1 in round 1. -/
def numFar : Nat := 2 ^ 12 + 2 ^ 22

/-- A request by a number for entry 1. -/
def reqOf (num : Nat) : TenReq := ⟨num, h31, true⟩

/-- A descriptor with entry 1 for writing. -/
def txnOne : List Byte :=
  bytesOf 1 16 ++ bytesOf 1 1 ++ bytesOf 1 0 ++ bytesOf 1 1 ++ List.replicate 92 0 ++ (bytesOf 8 h31 ++ bytesOf 4 0 ++ bytesOf 4 1) ++ List.replicate 272 0

/-- A transaction that waits for its tile. -/
def txnWaits : Txn :=
  { txn5 with phase := .requested, sub := { sub16 with desc := txnOne, sizes := [128] }, ranges := [(0x1000, 128)], granted := [false], gver := [0], frozen := [false] }

/-- A request for entry 1 at the head of its queue, rounds 1 and 2 closed. -/
def demoPend (num : Nat) (txs : SMap (Option Txn)) : State :=
  { demoTiles [(1, liveTile)] with pend := [⟨reqOf num, 0, false⟩], txns := txs, seq := { round := 3, closures := [(1, 3)] } }

theorem witness_SequencerSteps_numbering :
    (let s := { demoFive id with seq := { intake := [subFive, sub16] } }
     s.toPlace = [] ∧ s.seq.intake = [subFive, sub16] ∧ s.seq.roundOpen = true ∧ s.seq.closedHere.length < 8 ∧
     (s.chooseCore (s.placement (parseTxn subFive.desc)) subFive.sizes).map (·.1) = some 5 ∧ s.seq.nextPk < 4096) ∧
    (let s := { demoFive id with wall := 100000, txns := [(num1, some txnNumbered)], members := [(1, ⟨true, false, 0, 1⟩)] }
     s.closable = true ∧ s.seq.joinHold = [] ∧ s.otherMember = true ∧ s.txnOf num1 = some txnNumbered ∧ numRound num1 = s.seq.round ∧ txnNumbered.phase = .numbered) ∧
    { demo with seq := { closing := [(1, 2)], unacked := [reqOf num1] } }.seq.closing = [(1, 2)] := by decide +kernel

theorem witness_SequencerSteps_tenure :
    (let s := demoTiles [(1, liveTile)]
     (s.lmOf (handleLmi h31)).moving = false ∧ s.reqDead (reqOf numFar) = false ∧ s.stale h31 = false ∧ (s.tileAt 1).state ≠ .retiring ∧ s.pend = [] ∧ liveTile.tenures = [] ∧
     (s.pendAt (s.physOf h31)).length < 4096 ∧ (demoTiles []).stale h31 = true ∧ (demoTiles []).reqDead (reqOf numFar) = false ∧ numPkg numFar ≠ Config.pkg) ∧
    (let s := { demoTiles [(1, liveTile)] with pend := List.replicate 4096 ⟨reqOf num1, 0, false⟩, txns := [(num1 + 1, some txnWaits)] }
     let r := reqOf (num1 + 1)
     4096 ≤ (s.pendAt (s.physOf h31)).length ∧ numPod num1 = numPod r.num ∧ numBefore num1 r.num = true ∧ numPkg (num1 + 1) = Config.pkg ∧ r ≠ reqOf num1 ∧ s.reqDead r = false ∧
     s.stale h31 = false) ∧
    (let s := { demoTiles [(1, liveTile)] with pend := List.replicate 4096 ⟨reqOf (num1 + 1), 0, false⟩, txns := [(num1, some txnWaits)] }
     4096 ≤ (s.pendAt (s.physOf h31)).length ∧ numPod (num1 + 1) = numPod num1 ∧ numBefore (num1 + 1) num1 = false ∧ s.reqDead (reqOf num1) = false) ∧
    (let s := { demoTiles [(1, { liveTile with state := .retiring })] with lmBack := [⟨reqOf numFar, 0, true⟩] }
     s.stale h31 = false ∧ (s.tileAt 1).state = .retiring ∧ s.lmBack.any (fun q => q.req == reqOf numFar) = true ∧ s.reqDead (reqOf numFar) = false) ∧
    (let s := { demoTiles [(1, liveTile)] with seq := { returned := [⟨reqOf numFar, 0, false⟩] } }
     s.seq.returned = [⟨reqOf numFar, 0, false⟩] ∧ s.pendAt (s.physOf h31) = [] ∧ s.reqDead (reqOf numFar) = false) ∧
    (∀ num ∈ [numFar, num1],
      let s := demoPend num [(num1, some txnWaits)]
      handlePkg h31 = Config.pkg ∧ s.repushes (reqOf num) = false ∧ s.grantReady (reqOf num) = true ∧ s.pend.any (fun q => q.req == reqOf num) = true ∧
      s.clusterBuf = [] ∧ liveTile.state = .live ∧ txnWaits.evicted = false ∧ txnWaits.phase = .requested ∧ txnWaits.granted = [false] ∧ txnWaits.gver.length = 1 ∧
      s.victimOf (reqOf num) = none ∧ okAnd (s.readTile liveTile) (fun bs => bs.length == (txnWaits.ranges.getD 0 (0, 0)).2) = true ∧ s.txnOf num1 = some txnWaits ∧ (txnEntry txnWaits.sub.desc 0).handle = h31) := by decide +kernel

theorem witness_SequencerSteps_commit :
    (let x := { txnWaits with granted := [true], gver := [4] }
     let s := { demo with txns := [(num1, some x)] }.modCore 5 (fun k => { k with res := [⟨.txn num1, [(0x1000, 256), (0x3000, 256)], .filling, 0, 0, 0, false⟩] })
     s.txnOf num1 = some x ∧ s.dispatchReady num1 x = true ∧ x.granted.length ≤ 16) ∧
    (let s := demoTiles [(1, { liveTile with tenures := [⟨num1, true⟩, ⟨9, false⟩] })]
     s.stale h31 = false ∧ (s.tileAt (tileKey h31)).state = .live ∧ smWf (fun _ => {}) s.tiles ∧ s.heldStores = [] ∧ s.hostOut = [] ∧ s.pend = [] ∧
     (s.tileAt (tileKey h31)).tenures.any (fun n => n.num == num1 && n.w) = true ∧ numPkg num1 = Config.pkg) ∧
    (let s := { demoTiles [(1, liveTile)] with commits := [{ num := numFar, handle := h31, desc := liveTile.desc, asid := 0 }] }
     s.commits = [{ num := numFar, handle := h31, desc := liveTile.desc, asid := 0 }] ∧ s.txnOf numFar = none ∧ s.heldStores = [] ∧ s.hostOut = [] ∧ numPkg numFar ≠ Config.pkg ∧
     (s.writeTile 0 (tileRuns liveTile.desc) (padTo 128 [5])).isOk = true ∧ tileBytes liveTile.desc = 128 ∧
     (match ({ s with hbm := [] } : State).writeTile 0 (tileRuns liveTile.desc) (padTo 128 [5]) with | .error (.line _ _) => false | .error _ => true | .ok _ => false) = true) ∧
    (let s := { demo with members := [(1023, ⟨true, false, 0, 1⟩)] }
     1023 ≠ Config.pkg ∧ 1023 < 1024 ∧ s.seq.joinHold = [] ∧ s.seq.joining = false ∧ s.seq.roundOpen = true ∧ s.seq.round = 1 ∧ s.seq.nextPk = 0 ∧
     s.seq.nextPod = 0 ∧ { demo with seq := { joinHold := [2, 1023] } }.seq.joinHold = [2, 1023] ∧ { demo with seq := { joining := true } }.seq.joining = true ∧ s.fe.booting = false ∧
     { demo with fe := { booting := true } }.fe.booting = true ∧ smGet (fun _ => ({} : Member)) s.members 1023 = ⟨true, false, 0, 1⟩) := by decide +kernel

/-- R344: a packet of a type. -/
def packet (ty : Nat) (body : List Byte) : List Byte := (bytesOf 8 (ty + 256) ++ bytesOf 8 0 ++ body ++ List.replicate 48 0).take 64

/-- Host queue 0, at packet 2 of a ring at 0x400000. -/
def queue0 : HQueue := { ring := 0x400000, log2n := 4, ridx := 2, widx := 3, state := .running }

/-- Host queue 0 has read a packet and is next to start it. -/
def demoPacket (bs : List Byte) (mem : SMap Byte := []) : State :=
  { demoFive id with hbm := tables ++ mem ++ bytesAt 0x400080 bs, hqueues := [(0, { queue0 with prioMax := 9, pre := [(0x400080, bs)], nextStart := 4 })] }

/-- What PacketNext asks. -/
def mayStart (s : State) (ty : Nat) (bs : List Byte) : Bool :=
  let h := s.hq 0
  h.levels == [] && h.state == .running && !h.disabling && decide (h.ridx < h.widx) && h.ringAt h.ridx == 0x400080 && h.preOf 0x400080 == some bs &&
  !h.cancelled.contains h.ridx && pktType bs == ty && packetOk bs && !s.fe.updating && !s.fe.booting && decide (h.started.length < 64) &&
  (!(pktBar bs || ty == 7) || h.started == []) && (s.atomicPage (frontWho h.asid 0x400080) true 8).isOk

/-- A packet that signals or waits at 0x300000, with a value. -/
def at3 (v : Nat) : List Byte := bytesOf 8 0x300000 ++ bytesOf 8 v

/-- An 8-byte atomic of the front end at 0x300000 acts at once. -/
def agentActs (s : State) : Bool :=
  okAnd (s.translate agentCore 0 0x300000 .atomic) (fun pg => !pg.host && !pg.window && s.hostLine agentCore pg.pa 8 true == none &&
    !s.unreadable pg.pa 8 && s.homeFate pg.pa == .now)

theorem witness_PacketsStart_alone :
    (∀ ty ∈ [0, 7], mayStart (demoPacket (packet ty [])) ty (packet ty []) = true) ∧
    (∀ ty ∈ [8, 5, 6], mayStart (demoPacket (packet ty (at3 3)) (bytesAt 0x300000 [3])) ty (packet ty (at3 3)) = true) ∧
    BitVec.ofNat 64 (fieldOf (packet 8 (at3 3)) 16 8) ≠ queue0.ring ∧
    (∀ v ∈ [3, 2], okAnd ((demoPacket (packet 5 (at3 v)) (bytesAt 0x300000 [3])).readG agentCore 0 0x300000 8) (fun bs => wordOfBytes bs == 3) = true) ∧
    (let s := demoPacket (packet 6 (at3 2)) (bytesAt 0x300000 [3])
     (s.atomicPage (frontWho 0 0x300000) true 8).isOk = true ∧ agentActs (s.clearV 0 0x400080) = true) ∧
    (4 + 1) % 64 ≠ 0 := by decide +kernel

/-- R346: the header of a MSG packet to a core. -/
def msgBody (dest : Nat) : List Byte := bytesOf 16 (headerNat { toFive with dest := dest, len := 0, payload := [] }) ++ bytesOf 8 0

theorem witness_PacketsStart_named :
    (let bs := packet 1 (bytesOf 8 0x300000 ++ bytesOf 4 1)
     let s := demoPacket bs (bytesAt 0x300000 subFive.desc)
     mayStart s 1 bs = true ∧ fieldOf bs 24 4 = 1 ∧ s.packetIntake < 65536 ∧ okAnd (s.readNamed 0 0x400080 (namedBy bs).1 (namedBy bs).2) (fun d =>
       (s.checkTxn (descAt d 0) 0 false).1 == 0) = true) ∧
    (let bs := packet 2 (msgBody 5)
     let s := demoPacket bs
     mayStart s 2 bs = true ∧ okAnd (s.readNamed 0 0x400080 (namedBy bs).1 (namedBy bs).2) (fun d =>
       let m := packetMessage 0 4 bs d 9
       m.dest / 4096 == Config.pkg && m.dest % 4096 == 5 && m.queue != 0 && decide (16 ≤ m.hid) && fromPacket m && (s.coreOf 5).svc == .inService &&
       s.checkMessage 5 m true == 0 && decide ((s.coreOf 5).frontHeld < 128) && !(s.coreOf 5).portFull && !(s.coreOf 5).agentWaits m.queue &&
       ((s.coreOf 5).queueOf m.queue).fits m && s.coreUp 5) = true ∧
     ((s.modCore 5 (fun k => { k with agentWait := [agentFive] })).coreOf 5).portFull = true ∧
     ((s.modCore 5 (fun k => { k with agentWait := [agentFive] })).coreOf 5).frontHeld < 128) ∧
    (let bs := packet 2 (bytesOf 16 (headerNat { toFive with hid := 2, len := 0, payload := [] }) ++ bytesOf 8 0)
     let s := demoPacket bs
     mayStart s 2 bs = true ∧ (s.hq 0).sys = false ∧ okAnd (s.readNamed 0 0x400080 (namedBy bs).1 (namedBy bs).2) (fun d =>
       decide ((packetMessage 0 4 bs d 9).hid < 16)) = true) ∧
    (let bs := packet 2 (msgBody 4101)
     let s := { demoPacket bs with members := [(1, ⟨true, false, 0, 1⟩)] }
     mayStart s 2 bs = true ∧ okAnd (s.readNamed 0 0x400080 (namedBy bs).1 (namedBy bs).2) (fun d => (packetMessage 0 4 bs d 9).dest / 4096 == 1 && (packetMessage 0 4 bs d 9).queue == 1 &&
       (packetMessage 0 4 bs d 9).hid == 16 && !s.pkgDown 1) = true) ∧
    (let bs := packet 3 (bytesOf 2 5 ++ bytesOf 6 0 ++ bytesOf 8 0x300000)
     let s := demoPacket bs (bytesAt 0x300000 (taskDesc 16 1 4))
     mayStart s 3 bs = true ∧ fieldOf bs 16 2 = 5 ∧ okAnd (s.readNamed 0 0x400080 (namedBy bs).1 (namedBy bs).2) taskOk = true ∧ s.launches.length < 1024 ∧
     (s.coreOf 5).deque.length + (s.coreOf 5).spillDeque.length < (s.coreOf 5).dequeRoom ∧ (s.coreOf 5).svc = .inService) ∧
    (let bs := packet 4 (bytesOf 8 0x300000 ++ [1])
     let s := demoPacket bs (bytesAt 0x300000 (bytesOf 2 5 ++ [16, 1]))
     mayStart s 4 bs = true ∧ fieldOf bs 24 1 = 1 ∧ s.placingGang = none ∧ okAnd (s.readNamed 0 0x400080 (namedBy bs).1 (namedBy bs).2) (fun d =>
       gangOk d 1 && (match gangMembers d 1 with | [m] => (s.gangSlot m).isSome | _ => false)) = true) ∧
    (let bs := packet 9 (bytesOf 8 0x300000)
     let s := demoPacket bs
     mayStart s 9 bs = true ∧ fieldOf bs 16 8 % 64 = 0 ∧ (s.readNamed 0 0x400080 (namedBy bs).1 (namedBy bs).2).isOk = true) := by decide +kernel

/-- Host queue 0 in a state. -/
def demoQueue (h : HQueue) : State := { demo with hqueues := [(0, h)] }

/-- A packet that has started. -/
def startedPkt : Started := { id := 4, index := 2, parent := none, bytes := (bytesOf 8 (256 + 1024) ++ at3 0 ++ List.replicate 48 0).take 64 }

/-- R349: a queue descriptor. -/
def queueRec : List Byte := bytesOf 8 0x400000 ++ [4, 1] ++ bytesOf 2 3 ++ [7, 0, 0, 0] ++ bytesOf 8 20 ++ bytesOf 8 0x300 ++ bytesOf 32 0

/-- Host queue 0 is at a packet that it has not read. -/
def demoUnread (bs : List Byte) (st : Bool) : State :=
  { demoFive id with hbm := tables ++ bytesAt 0x400080 bs, hqueues := [(0, { queue0 with stalled := st })] }

theorem witness_HostQueues_control :
    (demo.hq 0).state = .disabled ∧
    (queue0.state = .running ∧ queue0.stalled = false ∧ Nat.max queue0.widx 18 ≤ queue0.ridx + 2 ^ queue0.log2n ∧ queue0.ridx + 2 ^ queue0.log2n < 19 ∧
      (demoQueue queue0).hq 0 = queue0) ∧
    (queue0.ridx ≤ 2 ∧ 2 < queue0.widx ∧ 1 < queue0.ridx ∧ queue0.widx ≤ 3 ∧
      ({ queue0 with ran := [(1, 2)] }.ran.any (fun e => decide (e.1 ≤ 1 ∧ 1 < e.2)) = true)) ∧
    ((demoQueue { queue0 with state := .held }).hq 0).state = .held ∧
    (let s := { demo with hbm := bytesAt 0 queueRec ++ tables }
     (s.hq 0).state = .disabled ∧ s.queueDesc 0 = some 0 ∧ descOk (s.rdHbm 0 64) = true ∧ s.hostLine agentCore 0 64 false = none ∧
      s.unreadable 0 64 = false) ∧
    ((demoQueue { queue0 with started := [startedPkt] }).hq 0).started ≠ [] ∧ queue0.started = [] ∧
    ((demoQueue { queue0 with disabling := true }).hq 0).disabling = true ∧
    ((demoQueue { queue0 with state := .error, err := 7 }).hq 0).err = 7 := by decide +kernel

theorem witness_HostQueues_packets :
    (∀ bs ∈ [List.replicate 64 0, packet 0 [], packet 0 [1]],
      let s := demoUnread bs true
      (s.hq 0).nextAt = some 0x400080 ∧ (s.hq 0).going = true ∧ (s.hq 0).preOf 0x400080 = none ∧ okAnd (s.readLine 0 0x400080) (· == bs) = true ∧
      (s.hq 0).isCancelled = false ∧ (s.hq 0).stalled = true) ∧
    (pktValid (List.replicate 64 0) = false ∧ pktValid (packet 0 []) = true ∧ packetOk (packet 0 []) = true ∧ pktValid (packet 0 [1]) = true ∧
      packetOk (packet 0 [1]) = false) ∧
    (let s := { demo with hbm := tables ++ bytesAt 0x300000 [1], hqueues := [(0, { queue0 with started := [startedPkt, { startedPkt with id := 3 }], msix := 12, msixEn := true })] }
     startedPkt ∈ (s.hq 0).started ∧ (∀ x ∈ (s.hq 0).started, x.id = startedPkt.id → x = startedPkt) ∧ startedPkt.pending = 0 ∧ startedPkt.whole = true ∧
     startedPkt.parent = none ∧ (s.hq 0).started.any (fun x => x.id != startedPkt.id) = true ∧ pktSig startedPkt.bytes ≠ 0 ∧
     pktIrq startedPkt.bytes = true ∧ (s.hq 0).msixEn = true ∧
     pktSig startedPkt.bytes = 0x300000 ∧ agentActs s = true ∧ (s.slotOf agentCore 8).act = none ∧
     (BitVec.ofNat 64 (s.rdNat 0x300000 8 + 2 ^ 64 - 1)).toInt ≤ 0) ∧
    (∀ v ∈ [0, 1],
      let p : Started := { id := 4, index := 2, parent := none, bytes := packet 5 (at3 v), pending := 1 }
      let s := { demo with hbm := tables ++ bytesAt 0x300000 [1], hqueues := [(0, { queue0 with started := [p] })] }
      (s.hq 0).started.find? (fun e => e.id == 4 && pktType e.bytes == 5 && e.pending == 1) = some p ∧
      okAnd (s.readG agentCore 0 (BitVec.ofNat 64 (fieldOf p.bytes 16 8)) 8) (fun bs => wordOfBytes bs == 1) = true) ∧
    (let g : Gang := ⟨0, 0, 3, [⟨5, 16, 1, [], none, false, false⟩], [], false⟩
     let s := { demoFive id with gangs := [(6, some g)] }
     s.placingGang = some 6 ∧ s.gangOf 6 = some g ∧ g.ended = false ∧ g.members.all (fun m => m.slot == none && !m.returned) = true ∧ (s.gangSlot ⟨5, 16, 1, [], none, false, false⟩).isSome = true) ∧
    ((1#64).getLsbD 0 = true ∧ demo.fe.updating = false ∧ demo.fe.standbyOk = false ∧
      { demo with fe := { standbyOk := true } }.fe.standbyReads = true ∧ { demo with fe := { standbyOk := true } }.fe.updating = false ∧ { demo with fe := { updating := true } }.fe.updating = true) := by decide +kernel

/-- R235: a request record of a kind, with a signal at 0x300000. -/
def invRec (kind : Nat) : List Byte :=
  bytesOf 2 0 ++ bytesOf 1 kind ++ bytesOf 1 4 ++ bytesOf 4 0 ++ bytesOf 8 0 ++ bytesOf 8 65536 ++ bytesOf 8 0x300000

theorem witness_MemoryService :
    (let s := { demo with hbm := tables ++ bytesAt 0x400000 (invRec 0) }
     (0x400000#64).toNat % 32 = 0 ∧ (0x400000#64).toNat < 2 ^ 56 ∧ paPkg 0x400000 = Config.pkg ∧ paOff 0x400000 < hbmBytes ∧
     (parseInv (s.rdHbm 0x400000 32)).sig % 8 = 0 ∧ (0x400001#64).toNat % 32 ≠ 0 ∧ s.fe.flogLog2 = 0 ∧ s.doorbells = [] ∧
      s.hostLine agentCore 0x400000 32 false = none ∧ s.unreadable 0x400000 32 = false ∧ { s with poison := [(0x400000 / 32, true)] }.unreadable 0x400000 32 = true ∧ { s with doorbells := [7] }.doorbells = [7]) ∧
    (∀ k ∈ [0, 1, 2],
      let r := parseInv (invRec k)
      demo.hostLine agentCore r.sig 8 true = none ∧ demo.relaxed = false ∧ r.bad = false ∧ r.sig = 0x300000 ∧ r.scope = 4 ∧
      demo.unreadable r.sig 8 = false ∧ demo.tiles = [] ∧ demo.heldStores = [] ∧ demo.remoteOut = [] ∧ demo.inv = [] ∧ demo.deferred = [] ∧
      invMeets r 0 0x8000 0x8000 = true ∧ (Deferred.mk 0 2 8 4 5 0x200000 true .pod 0 0x8000 none).who.core ≠ agentCore ∧
      { demo with inv := [r] }.inv = [r] ∧ { demo with inv := [{ r with scope := 5 }] }.otherMember = false ∧
      { demo with inv := [{ r with scope := 6 }] }.inv = [{ r with scope := 6 }] ∧ ({ r with scope := 6 } : InvReq).bad = false) ∧
    (demo.walkVa 0 0 (BitVec.ofNat 64 (7 * 65536))).isOk = true ∧
    ((0x300000 : Nat) + 64 ≤ hbmBytes ∧ demo.bisnp = [] ∧ demo.hostOut = [] ∧ demo.unreadable (ownPa 0x300000) 64 = false ∧ ownPa 0x300010 / 64 ≤ 0xC000 ∧
      0xC000 * 64 < ownPa 0x300010 + 3) ∧
    (let s := { demoWith (fun x => { x with wait := .line 5 }) with bisnp := [5] }
     s.bisnp = [5] ∧ s.hostReqs = [] ∧ s.sigPend = [] ∧ s.doorbells = [] ∧ s.fe.fsqHeld = [] ∧ (∀ e ∈ s.hqueues, e.2.ridxDue = false) ∧ s.heldStores = [] ∧ s.farHeld = [] ∧ (s.slotOf 0 0).wait = .line 5) ∧
    (let s := demoWith (fun x => { x with mode := .faultService, frec := { cause := 0x10, since := 0 } })
     (s.slotOf 0 0).mode = .faultService ∧ 2 ^ 28 ≤ (0x10000000#64).toNat ∧ s.fe.fsqHeld = [] ∧
     { s with wall := 2399999999 }.wall - (s.slotOf 0 0).frec.since < 2400000000 ∧ 2400000000 ≤ { s with wall := 2400000000 }.wall - (s.slotOf 0 0).frec.since ∧
     (s.slotOf 0 0).act.bind (·.gang) = none ∧ (s.slotOf 0 0).frec.cause.toNat % 256 = 0x10) := by decide +kernel

theorem witness_MemoryService_core :
    (demo.coreOf 0).codebookRead = false ∧
    ((demoMatrix (cmd (.mxmma g0 none .e4m3 .cb8 false 1 (.slot 0) (.slot 1) o0) [0, 0])).coreOf 0).codebookRead = true ∧
    (demo.coreOf 0).roleRefused 0xAAAAAA5500000001 = false ∧ (demo.coreOf 0).roleRefused 0xAAAAAA5540000000 = true ∧
    (demo.coreOf 0).rolePend = none ∧ (demo.coreOf 0).roleDrains demo.serial = false ∧
    ((demoCore (fun k => { k with rolePend := some (0xAAAAAA5500000001, 3, 0), copy := { q := [{ cmd (.mxwait g0) with ord := 2 }] } })).coreOf 0).roleDrains 3 = true ∧ (1#64).getLsbD 0 = true := by decide +kernel

/-- The package demo with its front end changed. -/
def demoFe (f : FrontEnd → FrontEnd) : State := { demo with fe := f demo.fe }

theorem witness_PackageService :
    (∀ v ∈ [4, 64], 4 ≤ v % 128 ∧ v % 128 ≤ 64) ∧ (∀ v ∈ [3, 65], v % 128 < 4 ∨ 64 < v % 128) ∧ (∀ v ∈ [50, 10000], 50 ≤ v % 2 ^ 32 ∧ v % 2 ^ 32 ≤ 10000) ∧
    (paPkg (bits (0x50000#64).toNat 55 16 * 65536) = Config.pkg ∧
      paOff (bits (0x50000#64).toNat 55 16 * 65536) / 65536 ∈ (demoFe (fun f => { f with vacate := [5, 6] })).fe.vacate) ∧
    (∀ u ∈ [HwUnit.bank 0 3, .link 2 0, .core 5], u ∈ (demoFe (fun f => { f with tests := [u] })).fe.tests) ∧ demo.fe.flogLog2 = 0 ∧
    ((demo.modCore 5 (fun k => { k with svc := .testing })).coreOf 5).svc = .testing ∧
    (∀ t ∈ [true, false], ∀ n ∈ [0, 7, 8], smGet (fun _ => ({} : Port)) { demo with ports := [(2, { replays := n, training := t })] }.ports 2 =
      { replays := n, training := t }) ∧
    (demo.coreUp 5 = true ∧ demo.fe.drains = [] ∧ (demoFe (fun f => { f with drains := [6] })).fe.drains = [6]) ∧
    (let s := (demoFe (fun f => { f with drains := [5] })).modCore 5 (fun k => { k with svc := .draining })
     s.drainReady 5 = true ∧ s.fe.tests = [] ∧ s.fe.drains = [5] ∧ (s.coreOf 5).queues = [] ∧ (s.coreOf 5).agentPort = [] ∧
     (s.coreOf 5).agentWait = [] ∧ (s.coreOf 5).work = [] ∧
     { s with fe := { s.fe with tests := [.core 5] } }.fe.tests.contains (.core 5) = true ∧
     { s with fe := { s.fe with tests := [.core 5] } }.drainReady 5 = true) ∧
    (∀ v ∈ [SvcState.drained, .retired], ((demo.modCore 5 (fun k => { k with svc := v })).coreOf 5).svc = v) ∧
    (demo.fe.maxPt ≤ 3 ∧ demo.fe.booting = false ∧ (demoFe (fun f => { f with maxPt := 2 })).fe.maxPt = 2 ∧
      (let s := demoFe (fun f => { f with booting := true, pt := 3 })
       s.fe.booting = true ∧ s.fe.maxPt ≤ 3 ∧ s.fe.tests = [] ∧ (∀ e ∈ s.ports, e.2.training = false) ∧ s.seq.joining = false ∧
       { s with seq := { joining := true } }.seq.joining = true) ∧
      (demoFe (fun f => { f with booting := true, tests := [.core 5] })).fe.tests ≠ []) ∧
    (∀ w ∈ [24000000, 23999999], let s := { demoFe (fun f => { f with hotSince := some 0 }) with wall := w }
      s.fe.hotSince = some 0 ∧ (w = 24000000 ↔ 0 + 24000000 ≤ s.wall)) ∧
    (∀ w ∈ [2400000000, 2399999999], let s := { demoFe (fun f => { f with coolSince := some 0, maxPt := 0, pt := 3 }) with wall := w }
      s.fe.coolSince = some 0 ∧ s.fe.maxPt < s.fe.pt ∧ (w = 2400000000 ↔ 0 + 2400000000 ≤ s.wall)) ∧
    (demo.fe.pt ≤ demo.fe.maxPt ∧ (demoFe (fun f => { f with pt := 3, tmax := 106 })).fe.pt = 3 ∧ 105 < (demoFe (fun f => { f with pt := 3, tmax := 106 })).fe.tmax.toNat ∧
      (demoFe (fun f => { f with pt := 3, tmax := 105 })).fe.tmax.toNat ≤ 105) := by decide +kernel

/-! Single steps against the spec's own values. -/

/-- R105, R107: the worked example of the pointer chapter: BASE 0x10000, STEP 192, LIMIT 512; three steps on, CUR is 64. -/
theorem test_pointer_ring :
    (let s := demoWith (fun x => { x with sregs := [(2, 0x10000), (3, 0x200000000C0)] })
     runs (.ptset g0 (.all (.reg 3)) 1 2) s (fun t => t.me.ptr 1 == ⟨0x10000, 0, 192, 512⟩) = true) ∧
    (let s := demoWith (fun x => x.setPtr 1 ⟨0x10000, 0, 192, 512⟩)
     runs (.ptadv g0 true 1 (.imm 3)) s (fun t => (t.me.ptr 1).cur == 64) = true) ∧
    (let s := demoWith (fun x => x.setPtr 1 ⟨0x10000, 64, 192, 512⟩)
     runs (.ptget g0 .addr 4 1) s (fun t => t.me.s 4 == 0x10040) = true) := by decide +kernel

/-- Sixteen sizes that rise by 3 from 5. -/
def sizes16 : Vec := packLanes 32 ((List.range 16).map (fun i => 5 + 3 * i))

/-- R153, R154, R156, R157: the worked example of the scan: offsets 0, 5, 13, ..., 390, total 440. -/
theorem test_scan_offsets :
    (let s := demoWith (fun x => x.setS 2 5)
     runs (.vldi g0 .n32 ⟨0, false⟩ 4 2 3) s (fun t => t.me.v 4 == sizes16) = true) ∧
    (let s := demoWith (fun x => x.setV 4 sizes16)
     runs (.vscan g0 .add true .n32 .rne ⟨0, false⟩ 6 (.reg 4) (.imm 0)) s (fun t =>
       t.me.v 6 == packLanes 32 [0, 5, 13, 24, 38, 55, 75, 98, 124, 153, 185, 220, 258, 299, 343, 390] && t.me.flags == 0) = true ∧
     runs (.vred g0 .add .n32 .rne 0 7 (.reg 4)) s (fun t => t.me.s 7 == 440 && t.me.flags == 0) = true ∧
     runs (.vext g0 .n32 8 (.reg 4) (.imm 15)) s (fun t => t.me.s 8 == 50) = true) := by decide +kernel

/-- R153: one rounding: 256 and 31 times 0.0625 sum to 258 in BF16, with NX. -/
theorem test_vred_bf16 :
    runs (.vred g0 .add .bf16 .rne 0 3 (.reg 2)) (demoWith (fun x => x.setV 2 (packLanes 16 (0x4380 :: List.replicate 31 0x3D80))))
      (fun t => t.me.s 3 == 0x4381 && t.me.flags == fNX) = true := by decide +kernel

/-- R128: the worked example of stochastic rounding: lanes 0x3F80, 0x3F81, 0x3F80, and the state 0x00042021. -/
theorem test_stochastic :
    runs (.vcvt g0 .bf16 .f32 0 false .sto ⟨0, false⟩ 4 (.reg 2)) (demoWith (fun x => x.setV 2 (packLanes 32 [0x3F80C000, 0x3F80C000, 0x3F80C000])))
      (fun t => Machine.laneOf 16 (t.me.v 4) 0 == 0x3F80 && Machine.laneOf 16 (t.me.v 4) 1 == 0x3F81 && Machine.laneOf 16 (t.me.v 4) 2 == 0x3F80 &&
        t.me.srseed == 0x00042021 && t.me.flags == fNX) = true := by decide +kernel

/-- R135: the worked block: 500, 0.1, −infinity, 0.003, −0 give 0x7E, 0x1D, 0xFE, 0x02, 0x80, scale 0x7F. -/
theorem test_quantise :
    runs (.vqnt g0 .e4m3 false 4 (.reg 2) (.reg 3) 7) (demoWith (fun x => x.setV 2 (packLanes 32 [0x43FA0000, 0x3DCCCCCD, 0xFF800000, 0x3B449BA6, 0x80000000])))
      (fun t => (List.range 32).map (Machine.laneOf 8 (t.me.v 4)) == [0x7E, 0x1D, 0xFE, 0x02, 0x80] ++ List.replicate 27 0 && t.me.s 7 == 0x7F && t.me.flags == (fSAT ||| fNX ||| fUF ||| fQNT)) = true := by
  decide +kernel

/-- R130: the worked group: 2^24 and 31 times 0.5 round once, to 16,777,232. -/
theorem test_group_sum :
    (matrixSum .fp32 0 (bf16.val 0x4580 :: List.replicate 31 (bf16.val 0x3F80)) (bf16.val 0x4580 :: List.replicate 31 (bf16.val 0x3F00))).1 = 0x4B800008 := by
  decide +kernel

/-- R121: the worked index of the codebook: 0x0013. -/
theorem test_codebook :
    (List.range 8).map (fun i => (roundTo e4m3 0 0 false (deqVal ({} : Core) .bf16 .cb8 0 i (packLanes 16 [0x0013]))).1) =
      [0xB0, 0x30, 0x30, 0xB0, 0x46, 0x42, 0x3C, 0xB0] := by decide +kernel

/-- R198: the worked attention: m 5, l 1.5625 and O 4.125 after both steps. -/
theorem test_attention :
    let k := fun (x : Nat) => bf16.val x :: List.replicate 127 (bf16.val 0)
    let v := fun (x : Nat) => List.replicate 128 (bf16.val x)
    let r := attnRow (k 0x3F80) [k 0x3F80, k 0x4040] [v 0x4000, v 0x4080] 0x3F800000 0xFF800000 0 (List.replicate 128 0)
    let u := attnRow (k 0x3F80) [k 0x40A0, k 0x4040] [v 0x3F80, v 0x4100] 0x3F800000 r.m r.l r.o
    r.m = 0x40400000 ∧ r.l = 0x3FA00000 ∧ r.o.getD 127 0 = 0x40900000 ∧ u.m = 0x40A00000 ∧ u.l = 0x3FC80000 ∧ u.o.getD 127 0 = 0x40840000 := by
  decide +kernel

/-- R199: the outputs of that attention: 0x4029, and 0x40B49A78. -/
theorem test_attention_end :
    (afinRow { tiles := [(0, 0x40840000)], mxm := [(0, 0x40A00000)], mxl := [(0, 0x3FC80000)] } 0).1.take 2 = [0x29, 0x40] ∧
    (afinRow { tiles := [(0, 0x40840000)], mxm := [(0, 0x40A00000)], mxl := [(0, 0x3FC80000)] } 0).2.1 = [0x78, 0x9A, 0xB4, 0x40] := by decide +kernel

/-- R203: the worked header: core 152,786 to core 77 of package 5. -/
theorem test_header :
    bytesOf 16 (headerNat ⟨0x504D, 2, 40, 2, .plain, 12, 0, 0x254D2, false, 7, [], none⟩) =
      [0x4D, 0x50, 0x80, 0x50, 0x04, 0x0C, 0x00, 0x00, 0xD2, 0x54, 0x02, 0x00, 0x07, 0x00, 0x00, 0x00] := by decide +kernel

/-- R15, R16, R237: core 1,234 is in stack group 2; offset 0x23455000 has home slice 99 and channel 244. -/
theorem test_places : sgOf 1234 = 2 ∧ clusterOf 1234 - 2 * 32 = 13 ∧ homeSlice 0x23455000 = 99 ∧ pseudoChan 0x23455000 = 244 := by decide +kernel

/-- R98: sums wrap, and the corners of DIV. -/
theorem test_scalar_corners :
    runs (.add g0 9 2 (.imm 0x1000)) demo (fun t => t.me.s 9 == 0) = true ∧
    (let s := demoWith (fun x => { x with sregs := [(2, 0x8000000000000000), (3, 0xFFFFFFFFFFFFFFFF)] })
     runs (.div g0 9 2 (.reg 3)) s (fun t => t.me.s 9 == 0x8000000000000000) = true ∧ runs (.rem g0 9 2 (.reg 3)) s (fun t => t.me.s 9 == 0) = true ∧
     runs (.div g0 9 2 (.imm 0)) s (fun t => t.me.s 9 == 0xFFFFFFFFFFFFFFFF) = true) := by decide +kernel

/-- R170: a signed byte is extended, and a store puts its low bytes down. -/
theorem test_load_store :
    runs (.ld g0 .i8 9 (.base 0 3) .loc o0) demoMem (fun t => t.me.s 9 == 0xFFFFFFFFFFFFFF99) = true ∧
    runs (.st g0 .n16 (.base 3 14) 2 .glob o0) demoMem (fun t => t.rdHbm 0x20000D 3 == [14, 0x00, 0xF0]) = true := by decide +kernel

/-- R62, R363, R376: a TRAP drains the slot, with cause 0x0E and its immediate in FAULT_ADDR. -/
theorem test_trap :
    runs (.trap g0 false 7) demo (fun t => decide (t.me.mode = .draining) && t.me.frec.cause == 0x0E && t.me.frec.addr == 7 && t.me.frec.pc == 0x40) = true := by
  decide +kernel
end Sys2Proof.Tests
end

section
/-! PROOFS. The issue slots: NOP, PRIO, branches, calls and LOOP (R81 to R86). -/
namespace Sys2Proof.Laws
open Sys2Proof.Machine Sys2Proof.Safety

/-! A scalar register written beside another change of the slot. -/

/-- R43: the register written reads the value, s0 reads zero. -/
theorem s_setS_dest (x : Slot) (d : Sreg) (v : Word) : (x.setS d v).s d = if d = 0 then 0 else v := by
  rw [Slot.s_setS]
  by_cases h : d = 0 <;> simp [h]

/-- A slot whose scalar file is that of a scalar write holds what was written. -/
theorem scalarSet_of_sregs {s t : State} {d : Sreg} {v : Word} (h : t.me.sregs = (s.me.setS d v).sregs) : ScalarSet s t d v := by
  have reads : ∀ r, t.me.s r = (s.me.setS d v).s r := fun r => by unfold Slot.s; rw [h]
  exact ⟨(reads d).trans (s_setS_dest _ d v), fun r hr => (reads r).trans (Slot.s_setS_ne _ v hr)⟩

/-! R86: PRIO. -/

@[simp] theorem setLevel_level (x : Slot) (req : Nat) : (x.setLevel req).level = Nat.min req x.ceil := rfl

/-- The level of a slot has no part in its scalar file. -/
theorem setLevel_setS_sregs (x : Slot) (req : Nat) (d : Sreg) (v : Word) :
    ((x.setLevel req).setS d v).sregs = (x.setS d v).sregs := by
  unfold Slot.setS
  split <;> rfl

/-- R86: what PRIO leaves: the level under the ceiling, one scalar register, and nothing else but the PC and RETIRED. -/
theorem setLevel_setS_complete (s : State) (req : Nat) (d : Sreg) (v : Word) :
    let t := (s.modMe (fun x => (x.setLevel req).setS d v)).complete
    OnlySlot s t ∧ Retired s t ∧ t.me.level = Nat.min req s.me.ceil ∧ ScalarSet s t d v ∧
      { t.me with pc := s.me.pc, sregs := s.me.sregs, level := s.me.level } = s.me := by
  refine ⟨onlySlot_update s _, retired_update s _ (by simp [Slot.setLevel]), by simp, ?_, ?_⟩
  · exact scalarSet_of_sregs (by simp [setLevel_setS_sregs])
  · simp [Slot.setLevel]

/-- R86: the level requested, unsigned: a register, or the immediate zero-extended. -/
theorem srcZ_toNat (x : Slot) (b : Src) :
    (x.srcZ b).toNat = match b with | .reg r => (x.s r).toNat | .imm v => v.toNat := by
  cases b with
  | reg r => rfl
  | imm v => exact BitVec.toNat_setWidth_of_le (by decide)

/-- R86: PRIO under a guard that acts answers the old level. -/
theorem execPrio_acts {g : Guard} {d : Sreg} {b : Src} {s : State} (hg : s.me.acts g = true) :
    execPrio g d b s = .next (s.modMe (fun x => (x.setLevel (s.me.srcZ b).toNat).setS d (BitVec.ofNat 64 s.me.level))).complete :=
  guarded_acts hg

/-! R30, R32: control passed to a target. -/

@[simp] theorem me_jump (s : State) (target : Word) : (s.jump target).me = { s.me with pc := target } := by
  simp [State.jump]

theorem onlySlot_jump (s : State) (target : Word) : OnlySlot s (s.jump target) :=
  (onlySlot_modMe s _).trans (onlySlot_retire _)

/-- R30, R112: a jump passes control to its target and counts once in RETIRED. -/
theorem jumped_jump (s : State) (target : Word) : Jumped s (s.jump target) target :=
  ⟨by simp, by simp [State.jump]⟩

/-- An update of the slot before the jump counts nothing in RETIRED. -/
theorem jumped_update (s : State) (f : Slot → Slot) (target : Word) : Jumped s ((s.modMe f).jump target) target :=
  ⟨by simp, by simp [State.jump]⟩

/-- A jump beside a scalar write changes the destination register, the PC and RETIRED, and nothing else. -/
theorem setS_jump (s : State) (d : Sreg) (v target : Word) :
    let t := (s.modMe (fun x => x.setS d v)).jump target
    OnlySlot s t ∧ Jumped s t target ∧ ScalarSet s t d v ∧ { t.me with pc := s.me.pc, sregs := s.me.sregs } = s.me :=
  ⟨(onlySlot_modMe s _).trans (onlySlot_jump _ target), jumped_update s _ target, scalarSet_of_sregs (by simp), by simp⟩

/-- R32: a target that passes its check raises no fault. -/
theorem withTarget_ok {s : State} {target : Word} (h : s.checkTarget s.cur.1 s.cur.2 target = .ok ()) (f : State → State) :
    s.withTarget target f = f s := by
  simp [State.withTarget, h]

/-- R82: BR under a guard that acts jumps to such a target. -/
theorem execBr_ok {g : Guard} {imm : BitVec 32} {s : State} (hg : s.me.acts g = true)
    (ok : s.checkTarget s.cur.1 s.cur.2 (branchTarget s.me.pc imm) = .ok ()) :
    execBr g imm s = .next (s.jump (branchTarget s.me.pc imm)) := by
  simp only [execBr, guarded_acts hg, withTarget_ok ok]

/-- R83: a call to such a target links the next PC and jumps. -/
theorem call_ok {s : State} {target : Word} (h : s.checkTarget s.cur.1 s.cur.2 target = .ok ()) (d : Sreg) :
    s.call d target = (s.modMe (fun x => x.setS d (nextPc s.me.pc))).jump target :=
  withTarget_ok h _

theorem execJal_ok {g : Guard} {d : Sreg} {imm : BitVec 32} {s : State} (hg : s.me.acts g = true)
    (ok : s.checkTarget s.cur.1 s.cur.2 (branchTarget s.me.pc imm) = .ok ()) :
    execJal g d imm s = .next ((s.modMe (fun x => x.setS d (nextPc s.me.pc))).jump (branchTarget s.me.pc imm)) := by
  simp only [execJal, guarded_acts hg, call_ok ok]

/-- R83: JALR reads sA before the link is written. -/
theorem execJalr_ok {g : Guard} {d a : Sreg} {imm : BitVec 32} {s : State} (hg : s.me.acts g = true)
    (ok : s.checkTarget s.cur.1 s.cur.2 (s.me.s a + sext32 imm) = .ok ()) :
    execJalr g d a imm s = .next ((s.modMe (fun x => x.setS d (nextPc s.me.pc))).jump (s.me.s a + sext32 imm)) := by
  simp only [execJalr, guarded_acts hg, call_ok ok]

/-! R32: the target that IMM carries: the signed line offset in bits 31 to 3, the slot in bits 2 to 0. -/

/-- The upper 29 bits of IMM, sign-extended, are IMM shifted right by three, sign-extended. -/
theorem signExtend_lineOffset (imm : BitVec 32) :
    (BitVec.ofNat 29 (imm.toNat / 8)).signExtend 64 = (imm.sshiftRight 3).signExtend 64 := by
  apply BitVec.eq_of_toInt_eq
  rw [BitVec.toInt_signExtend_of_le (by decide), BitVec.toInt_signExtend_of_le (by decide), BitVec.toInt_sshiftRight,
    BitVec.toInt_ofNat', Int.shiftRight_eq_div_pow, BitVec.toInt_eq_toNat_bmod]
  have := imm.isLt
  simp only [Int.bmod_def]
  omega

theorem branchTarget_eq (pc : Word) (imm : BitVec 32) :
    branchTarget pc imm = (pc &&& ~~~(0x3F#64)) + (imm.sshiftRight 3).signExtend 64 * 64 + BitVec.ofNat 64 (imm.toNat % 8) := by
  rw [← signExtend_lineOffset]
  rfl

/-! R85: LOOP, by the count that it reads. -/

/-- R85: the count saturates at zero. -/
theorem countDown_of_le_one {n : Word} (h : n.toNat ≤ 1) : (if n = 0 then 0 else n - 1) = 0 := by
  split
  · rfl
  · bv_omega

/-- R85: a count above one goes down by one and is not used up. -/
theorem countDown_of_one_lt {n : Word} (h : 1 < n.toNat) : (if n = 0 then 0 else n - 1) = n - 1 ∧ n - 1 ≠ 0 := by
  have pos : n ≠ 0 := by bv_omega
  exact ⟨if_neg pos, by bv_omega⟩

/-- R85: a LOOP whose count is used up writes zero and falls through. -/
theorem execLoop_falls {g : Guard} {d : Sreg} {imm : BitVec 32} {s : State} (hg : s.me.acts g = true) (h : (s.me.s d).toNat ≤ 1) :
    execLoop g d imm s = .next (s.putReg d 0) := by
  simp only [execLoop, guarded_acts hg, countDown_of_le_one h, if_true]
  rfl

/-- R85: a LOOP that goes on writes the count and jumps. -/
theorem execLoop_goes {g : Guard} {d : Sreg} {imm : BitVec 32} {s : State} (hg : s.me.acts g = true) (h : 1 < (s.me.s d).toNat)
    (ok : s.checkTarget s.cur.1 s.cur.2 (branchTarget s.me.pc imm) = .ok ()) :
    execLoop g d imm s = .next ((s.modMe (fun x => x.setS d (s.me.s d - 1))).jump (branchTarget s.me.pc imm)) := by
  obtain ⟨count, goes⟩ := countDown_of_one_lt h
  simp only [execLoop, guarded_acts hg, count, if_neg goes, withTarget_ok ok]

/-! The obligations. -/

/-- Settles O12: NOP only completes, and PRIO is an update of the level and of one scalar register that completes. -/
theorem nopAndPrio : Obligations.NopAndPrio := by
  unfold Obligations.NopAndPrio
  intro s g hg
  refine ⟨gives_guarded hg rfl (complete_passed s), fun d b => ?_⟩
  intro req
  rw [show req = (s.me.srcZ b).toNat from (srcZ_toNat s.me b).symm]
  exact gives_of (execPrio_acts hg) (setLevel_setS_complete s _ d _)

/-- Settles O13: each is a jump to its checked target, a call and LOOP with one scalar write before it. -/
theorem branchesTaken : Obligations.BranchesTaken := by
  unfold Obligations.BranchesTaken
  intro s g imm hg
  simp only [← branchTarget_eq]
  refine ⟨fun ok => ⟨?br, fun d => ?jal, fun d h => ?loopGoes⟩, fun d a ok => ?jalr, fun d h => ?loopFalls⟩
  case br =>
    exact gives_of (execBr_ok hg ok) ⟨onlySlot_jump s _, jumped_jump s _, by simp⟩
  case jal =>
    exact gives_of (execJal_ok hg ok) (setS_jump s d _ _)
  case loopGoes =>
    exact gives_of (execLoop_goes hg h ok) (setS_jump s d _ _)
  case jalr =>
    exact gives_of (execJalr_ok hg ok) (setS_jump s d _ _)
  case loopFalls =>
    exact gives_of (execLoop_falls hg h) (putReg_wrote s d 0)

end Sys2Proof.Laws
end

section
/-! PROOFS. Predicates, masks and pointers: compares, predicate logic and moves, mask tests (R100 to R103), pointers (R104 to R107) and
the mask instructions (R109). -/
namespace Sys2Proof.Laws
open Sys2Proof.Machine Sys2Proof.Safety

/-- R41: a second scalar operand: a register, or the immediate sign-extended. -/
theorem src_eq (x : Slot) (b : Src) : x.src b = match b with | .reg r => x.s r | .imm v => v.signExtend 64 := by
  cases b with
  | reg r => rfl
  | imm v => rfl

/-- The Boolean test for inequality decides it. -/
theorem bne_eq_decide_ne {α : Type} [DecidableEq α] (x y : α) : (x != y) = decide (x ≠ y) := by
  simp [bne, beq_eq_decide]

/-! What the functions of Machine/Scalar.lean compute, in the words of the rules. -/

/-- R100: each condition of CMP is the relation that it names, signed, unsigned or by common bits. -/
theorem condHolds_eq (c : Cond) (x y : Word) : condHolds c x y = match c with
    | .eq => decide (x = y) | .ne => decide (x ≠ y)
    | .lt => decide (x.toInt < y.toInt) | .ge => decide (x.toInt ≥ y.toInt)
    | .ltu => decide (x.toNat < y.toNat) | .geu => decide (x.toNat ≥ y.toNat)
    | .tst => decide (x &&& y ≠ 0) | .ntst => decide (x &&& y = 0) := by
  cases c with
  | eq | ntst => exact beq_eq_decide _ _
  | ne | tst => exact bne_eq_decide_ne _ _
  | lt => exact BitVec.slt_eq_decide
  | ge => exact BitVec.sle_eq_decide
  | ltu | geu => rfl

/-- R101: PLOG is Boolean algebra on two predicates. -/
theorem plogOp_eq (op : POp) (x y : Bool) : plogOp op x y = match op with
    | .and => x && y | .or => x || y | .xor => x ^^ y | .andn => x && !y | .nand => !(x && y) | .nor => !(x || y) := by
  cases op with
  | and | or | xor | andn | nand | nor => rfl

/-- R103: the tested bits are not all zero when one of them is set. -/
theorem maskLow_ne_zero_iff (ty : Ty) (m : Word) : maskLow ty m ≠ 0 ↔ ∃ i, i < ty.lanes ∧ m.getLsbD i = true := by
  rw [maskLow, ne_eq, mask_low_zero]
  push Not
  simp only [ne_eq, Bool.not_eq_false]

/-- R103: each condition of TSTM is a statement about bits [L − 1:0]. -/
theorem tstmHolds_eq (c : MCond) (ty : Ty) (m : Word) : tstmHolds c ty m = match c with
    | .any => decide (∃ i, i < ty.lanes ∧ m.getLsbD i = true)
    | .all => decide (∀ i, i < ty.lanes → m.getLsbD i = true)
    | .none => decide (∀ i, i < ty.lanes → m.getLsbD i = false) := by
  cases c with
  | any => exact (bne_eq_decide_ne _ _).trans (decide_eq_decide.2 (maskLow_ne_zero_iff ty m))
  | all => exact (beq_eq_decide _ _).trans (decide_eq_decide.2 (mask_low_ones ty.lanes m))
  | none => exact (beq_eq_decide _ _).trans (decide_eq_decide.2 (mask_low_zero ty.lanes m))

/-- R105: the upper half of the operand of PTSET, as a number. -/
theorem upperHalf_eq (y : Word) : (y >>> 32).setWidth 32 = BitVec.ofNat 32 (y.toNat / 2 ^ 32) := by
  bv_omega

/-- R106: PTGET reads the address or one field, STEP sign-extended and LIMIT zero-extended. -/
theorem ptgetField_eq (f : PtGet) (p : Ptr) : ptgetField f p = match f with
    | .addr => p.base + p.cur
    | .base => p.base
    | .cur => p.cur
    | .step => p.step.signExtend 64
    | .limit => p.limit.setWidth 64 := by
  cases f with
  | addr | base | cur | step | limit => rfl

/-! The obligations. -/

/-- Settles O10: each instruction is one write of a predicate, a mask or a scalar register, and its value is what the rule says. -/
theorem predicateAndMaskResults : Obligations.PredicateAndMaskResults := by
  unfold Obligations.PredicateAndMaskResults
  refine ⟨fun s g d hg => ⟨?cmp, ?plog, ?pmov, ?nz, ?imm, ?tstm⟩,
    fun s g d a b hg => ⟨?mkand, ?mkor, ?mkxor, ?mknot, ?masksAndScalars, ?mksetImm, fun ty r _ => ⟨?mkpop, ?mkfst⟩⟩⟩
  case cmp =>
    intro c a b x y
    rw [show y = s.me.src b from (src_eq s.me b).symm]
    exact gives_of (guarded_acts hg : execCmp g c d a b s = _) (wroteP_eq (putPred_wrote s d _) (condHolds_eq c _ _))
  case plog =>
    intro op a b
    exact gives_of (guarded_acts hg : execPlog g op d a b s = _) (wroteP_eq (putPred_wrote s d _) (plogOp_eq op _ _))
  case pmov =>
    intro a
    exact ⟨gives_of (guarded_acts hg : execPmov g (.mov d a) s = _) (putPred_wrote s d _),
      gives_of (guarded_acts hg : execPmov g (.not d a) s = _) (putPred_wrote s d _),
      fun r => gives_of (guarded_acts hg : execPmov g (.get r a) s = _) (putReg_wrote s r _)⟩
  case nz =>
    intro a
    exact gives_of (guarded_acts hg : execPmov g (.nz d a) s = _) (wroteP_eq (putPred_wrote s d _) (bne_eq_decide_ne _ _))
  case imm =>
    intro v
    exact gives_of (guarded_acts hg : execPmov g (.imm d v) s = _) (putPred_wrote s d v)
  case tstm =>
    intro c ty m _
    exact gives_of (guarded_acts hg : execTstm g c ty d m s = _) (wroteP_eq (putPred_wrote s d _) (tstmHolds_eq c ty _))
  case mkand => exact gives_of (guarded_acts hg : execMkand g d a b s = _) (putMask_wrote s d _)
  case mkor => exact gives_of (guarded_acts hg : execMkor g d a b s = _) (putMask_wrote s d _)
  case mkxor => exact gives_of (guarded_acts hg : execMkxor g d a b s = _) (putMask_wrote s d _)
  case mknot => exact gives_of (guarded_acts hg : execMknot g d a s = _) (putMask_wrote s d _)
  case masksAndScalars =>
    intro r
    exact ⟨gives_of (guarded_acts hg : execMkset g d (.reg r) s = _) (putMask_wrote s d _),
      gives_of (guarded_acts hg : execMkget g r a s = _) (putReg_wrote s r _)⟩
  case mksetImm =>
    intro v
    exact gives_of (guarded_acts hg : execMkset g d (.imm v) s = _) (putMask_wrote s d _)
  case mkpop =>
    exact gives_of (guarded_acts hg : execMkpop g ty r a s = _)
      (wroteS_eq (putReg_wrote s r _) (congrArg (BitVec.ofNat 64) (onesIn_eq_length ty.lanes _)))
  case mkfst =>
    exact ⟨_, gives_of (guarded_acts hg : execMkfst g ty r a s = _) (putReg_wrote s r _), find_range_least (s.me.m a).getLsbD ty.lanes⟩

/-- Settles O11: each instruction is one write of a pointer or a scalar register; the wrap of the statement is Ptr.wrap (R104). -/
theorem pointerResults : Obligations.PointerResults := by
  unfold Obligations.PointerResults
  intro s g d a hg
  refine ⟨?operand, ?base, ?cur, ?step, ?limit, ?ptget⟩
  case operand =>
    intro b y
    rw [show y = s.me.src b from (src_eq s.me b).symm]
    refine ⟨?ptset, ?ptadv, ?ptadvSteps⟩
    case ptset =>
      exact gives_of (guarded_acts hg : execPtset g (.all b) d a s = _)
        (wrotePtr_eq (putPtr_wrote s d _) (congrArg (Ptr.mk _ _ _) (upperHalf_eq _)))
    case ptadv => exact gives_of (guarded_acts hg : execPtadv g false d b s = _) (putPtr_wrote s d _)
    case ptadvSteps => exact gives_of (guarded_acts hg : execPtadv g true d b s = _) (putPtr_wrote s d _)
  case base => exact gives_of (guarded_acts hg : execPtset g .base d a s = _) (putPtr_wrote s d _)
  case cur => exact gives_of (guarded_acts hg : execPtset g .cur d a s = _) (putPtr_wrote s d _)
  case step => exact gives_of (guarded_acts hg : execPtset g .step d a s = _) (putPtr_wrote s d _)
  case limit => exact gives_of (guarded_acts hg : execPtset g .limit d a s = _) (putPtr_wrote s d _)
  case ptget =>
    intro f e q
    exact gives_of (guarded_acts hg : execPtget g f e q s = _) (wroteS_eq (putReg_wrote s e _) (ptgetField_eq f _))

end Sys2Proof.Laws
end

section
/-! PROOFS. The vector lanes: bit operations and shifts (R146), VCMP and VSEL (R147, R148), VRED (R153), VEXT (R156), and the
instructions that move lanes (R155 to R158). -/
namespace Sys2Proof.Laws
open Sys2Proof.Machine Sys2Proof.Safety

section Moulds
variable {i : Instr} {s u : State} {vs ps : List Vec} {g : Guard} {t : Ty} {z : MaskZ} {d : Vreg} {srcs : List VSrc}

/-- R146: a bit operation combines the lanes of its two sources one by one, up to the lane width. -/
theorem gives_vecBits {a : VSrc} {b : VOp} (f : Nat → Nat → Nat) {f' : Nat → Nat → Nat} (hi : exec i s = vecBits g t z d a b f s)
    (hg : s.me.acts g = true) (hr : u.relaxed = false) (hl : s.me.leaseOf (vregsOf (a :: VOp.srcs b) ++ [d.val]) = none)
    (ht : s.takeSrcs (a :: VOp.srcs b) = .ok vs ps u) (e : ∀ x y, f x y % 2 ^ t.width = f' x y % 2 ^ t.width) :
    Gives i s (fun t' => WroteV u t' .rne d t.width t.lanes (u.me.m z.msk) z.zro
      (fun j => (f' (Machine.laneOf t.width (vs.getD 0 0) j) (VOp.lane b t vs j), 0))) :=
  gives_vecMove g t z d (a :: VOp.srcs b) (fun vs i => f (laneAt t vs 0 i) (VOp.lane b t vs i)) hi hg hl ht hr (fun _ _ => e _ _)

/-- R140: an instruction that reads registers of the slot and merges a lane value made of them. -/
theorem gives_vecMerge (f : State → Nat → Nat) {f' : Nat → Nat}
    (hi : exec i s = vecOp g [d.val] srcs (fun s _ _ =>
      s.putV d (mergeLanes t.width t.lanes (s.me.m z.msk) z.zro (s.me.v d) (fun j => (f s j, 0)))) s)
    (hg : s.me.acts g = true) (hr : u.relaxed = false) (hl : s.me.leaseOf (vregsOf srcs ++ [d.val]) = none)
    (ht : s.takeSrcs srcs = .ok vs ps u) (e : ∀ j, f u j % 2 ^ t.width = f' j % 2 ^ t.width) :
    Gives i s (fun t' => WroteV u t' .rne d t.width t.lanes (u.me.m z.msk) z.zro (fun j => (f' j, 0))) :=
  gives_of (hi.trans (vecOp_gives g _ srcs _ s u vs ps hg hl ht))
    (wroteV_congr (merged_wrote u .rne d t.width t.lanes _ _ (fun j => (f u j, 0)) hr (Ty.width_lanes t)) (fun j _ => ⟨e j, rfl⟩))

/-- R148, R156: an instruction that writes every lane of its destination. -/
theorem gives_vecPack (f : State → List Vec → Nat → Nat) {f' : Nat → Nat}
    (hi : exec i s = vecOp g [d.val] srcs (fun s vs _ => s.putV d (packLanes t.width ((List.range t.lanes).map (f s vs)), 0)) s)
    (hg : s.me.acts g = true) (hr : u.relaxed = false) (hl : s.me.leaseOf (vregsOf srcs ++ [d.val]) = none)
    (ht : s.takeSrcs srcs = .ok vs ps u) (e : ∀ j, f u vs j % 2 ^ t.width = f' j % 2 ^ t.width) :
    Gives i s (fun t' => WroteV u t' .rne d t.width t.lanes (BitVec.allOnes 64) false (fun j => (f' j, 0))) := by
  have ones : ∀ j, j < t.lanes → (BitVec.allOnes 64).getLsbD j = true := fun j hj =>
    BitVec.getLsbD_allOnes.trans (decide_eq_true (hj.trans_le (lanes_le_64 t)))
  have packed : ∀ j, j < t.lanes → ((List.range t.lanes).map (f u vs)).getD j 0 % 2 ^ t.width = f' j % 2 ^ t.width := fun j hj => by
    simpa [hj] using e j
  exact gives_of (hi.trans (vecOp_gives g _ srcs _ s u vs ps hg hl ht))
    (putV_packed_wrote u d t.width _ _ _ hr (by simp [Ty.lanes]) ones false packed (fun _ => rfl))

/-- R96, R108: an instruction with vector sources that writes no vector register. -/
theorem vecOp_reads_gives (f : State → List Vec → List Vec → State) (hg : s.me.acts g = true) (hl : s.me.leaseOf (vregsOf srcs) = none)
    (ht : s.takeSrcs srcs = .ok vs ps u) : vecOp g [] srcs f s = .next (f u vs ps) :=
  vecOp_gives g [] srcs f s u vs ps hg (by rwa [List.append_nil]) ht

end Moulds

/-! R147: the mask that VCMP puts together bit by bit. -/

/-- A word put together from n bits has them, and zeros above. -/
theorem getLsbD_foldBits {n : Nat} (hn : n ≤ 64) (f : Nat → Bool) (i : Nat) :
    (BitVec.ofNat 64 ((List.range n).foldl (fun acc j => acc + (f j).toNat * 2 ^ j) 0)).getLsbD i = (decide (i < n) && f i) := by
  rw [BitVec.getLsbD_ofNat, (fold_bits f n).2 i, ← Bool.and_assoc]
  congr 1
  simpa using fun hi : i < n => hi.trans_le hn

/-! R153: reductions. -/

/-- R153: what a lane of an integer type becomes in a scalar. -/
theorem widenLane_int {t : Ty} (h : t.isInt = true) (x : Nat) : widenLane t x = BitVec.ofInt 64 (tyInt t x) := if_pos h

/-- R141: an integer type has no floating format. -/
theorem tyFmt_of_isInt {t : Ty} (h : t.isInt = true) : tyFmt t = none := by
  cases t with
  | i8 | i16 | i32 | i64 | n8 | n16 | n32 | n64 => rfl
  | f32 | f16 | bf16 | e4m3 | e5m2 | cb8 | e8m0 => cases h

/-- R153: the bits of a floating lane in a scalar. -/
theorem widenLane_float {t : Ty} {f : Fmt} (h : tyFmt t = some f) (x : Nat) : widenLane t x = BitVec.ofNat 64 x := by
  refine if_neg fun int => ?_
  rw [tyFmt_of_isInt int] at h
  cases h

/-- R153: the lanes of a vector that a mask makes active, in order. -/
def activeLanes (t : Ty) (m : Word) (v : Vec) : List Nat :=
  ((List.range t.lanes).filter (fun i => m.getLsbD i)).map (fun i => Machine.laneOf t.width v i)

/-- R153: what VRED leaves: its scalar, its flags and SRSEED written, and nothing else. -/
def Reduced (u t' : State) (r : Rnd) (e : Sreg) (v : Word) (fl : Flags) : Prop :=
  OnlySlot u t' ∧ Retired u t' ∧ SeedAfter u t' r ∧ ScalarSet u t' e v ∧ t'.me.flags = u.me.flags ||| fl ∧
    { t'.me with pc := u.me.pc, sregs := u.me.sregs, flags := u.me.flags, srseed := u.me.srseed } = u.me

/-- R153: VRED writes the reduction of the active lanes, widened. -/
theorem gives_vred {s u : State} {g : Guard} {t : Ty} {a : VSrc} {vs ps : List Vec} (hg : s.me.acts g = true) (hr : u.relaxed = false)
    (hl : s.me.leaseOf (vregsOf [a]) = none) (ht : s.takeSrcs [a] = .ok vs ps u) (r : Rnd) (k : Fin 8) (e : Sreg) {xs : List Nat}
    (active : xs = activeLanes t (u.me.m k) (vs.getD 0 0)) (op : RedOp) :
    let x := reduce op t (u.me.modeOf r) (srDraw (seedOf u r) 0) xs
    Gives (.vred g op t r k e a) s (fun t' => Reduced u t' r e (widenLane t x.1) x.2) := by
  subst active
  intro x
  obtain ⟨_, mode, seed, _, _, me⟩ := rounding_eq u r
  have mask : (u.rounding r).2.2.me.m k = u.me.m k := by rw [me]; rfl
  refine gives_of (vecOp_reads_gives _ hg hl ht) ?_
  dsimp only
  rw [mask, mode, seed]
  exact reduction_ends u r e _ _ hr

/-- R153: a fold that keeps the lane of the lesser key gives a lane of the least key, or e of no lane. -/
theorem foldLanes_least {t : Ty} (h : tyFmt t = none) (key : Nat → Int) {op : Nat → Nat → Nat}
    (hop : ∀ x y, op x y = if key y < key x then y else x) (e : Nat) (xs : List Nat) :
    (xs = [] ∧ foldLanes t op e xs = e) ∨ (foldLanes t op e xs ∈ xs ∧ ∀ y ∈ xs, key (foldLanes t op e xs) ≤ key y) := by
  cases xs with
  | nil => exact .inl ⟨rfl, rfl⟩
  | cons x xs =>
    have fold : foldLanes t op e (x :: xs) = xs.foldl op x := by simp [foldLanes, h]
    rw [fold]
    refine .inr (fold_best (fun x y => key x ≤ key y) (fun _ _ _ => le_trans) (fun _ => le_rfl) op (fun x y => ?_) (fun x y => ?_) xs x)
    · rw [hop]
      split <;> simp
    · rw [hop]
      split <;> omega

/-- R153: with a floating type a NaN that the fold of the lanes gives is the default NaN. -/
theorem foldLanes_float {t : Ty} {f : Fmt} (h : tyFmt t = some f) (op : Nat → Nat → Nat) (e x : Nat) (xs : List Nat) :
    foldLanes t op e (x :: xs) = if f.val (xs.foldl op x) = .nan then f.nan else xs.foldl op x := by
  simp [foldLanes, h]

theorem laneMin_int {t : Ty} (h : tyFmt t = none) (x y : Nat) : laneMin t x y = if tyInt t y < tyInt t x then y else x := by
  simp [laneMin, h]

theorem laneMax_int {t : Ty} (h : tyFmt t = none) (x y : Nat) : laneMax t x y = if tyInt t x < tyInt t y then y else x := by
  simp [laneMax, h]

theorem laneMin_float {t : Ty} {f : Fmt} (h : tyFmt t = some f) : laneMin t = fminC f := by
  funext x y
  simp [laneMin, h]

theorem laneMax_float {t : Ty} {f : Fmt} (h : tyFmt t = some f) : laneMax t = fmaxC f := by
  funext x y
  simp [laneMax, h]

/-- R153: the lane that stands for no lane under MIN reads as the greatest value of its type. -/
theorem tyInt_topLane {t : Ty} (h : t.isInt = true) : tyInt t (topLane t) = tyHi t := by
  cases t with
  | i8 | i16 | i32 | i64 | n8 | n16 | n32 | n64 => decide
  | f32 | f16 | bf16 | e4m3 | e5m2 | cb8 | e8m0 => cases h

/-- R153: the lane that stands for no lane under MAX reads as the least value of its type. -/
theorem tyInt_botLane {t : Ty} (h : t.isInt = true) : tyInt t (botLane t) = tyLo t := by
  cases t with
  | i8 | i16 | i32 | i64 | n8 | n16 | n32 | n64 => decide
  | f32 | f16 | bf16 | e4m3 | e5m2 | cb8 | e8m0 => cases h

/-- R153: a sum of integer lanes wraps. -/
theorem reduce_add_int {t : Ty} (h : tyFmt t = none) (mode draw : Nat) (xs : List Nat) :
    reduce .add t mode draw xs = (xs.foldl (· + ·) 0 % 2 ^ t.width, 0) := by
  simp [reduce, h]

/-- R153: a sum of floating lanes is exact and rounded once. -/
theorem reduce_add_float {t : Ty} {f : Fmt} (h : tyFmt t = some f) (mode draw : Nat) (xs : List Nat) :
    reduce .add t mode draw xs = roundFl f mode draw (fsum true mode (xs.map f.val)) := by
  simp [reduce, h]

/-- R153: a reduction of integer lanes sets no flag. -/
theorem reduce_int_flags {t : Ty} (h : tyFmt t = none) (op : RedOp) (mode draw : Nat) (xs : List Nat) :
    (reduce op t mode draw xs).2 = 0 := by
  cases op with
  | add => rw [reduce_add_int h]
  | min | max | and | or | xor => rfl

/-- R153: the least of integer lanes, the greatest value of the type with none. -/
theorem reduce_min_int {t : Ty} (h : t.isInt = true) (mode draw : Nat) (xs : List Nat) :
    let v := (reduce .min t mode draw xs).1
    (xs = [] ∧ tyInt t v = tyHi t) ∨ (v ∈ xs ∧ ∀ y ∈ xs, tyInt t v ≤ tyInt t y) := by
  have fmt := tyFmt_of_isInt h
  exact (foldLanes_least fmt (tyInt t) (laneMin_int fmt) (topLane t) xs).imp_left
    fun ⟨empty, top⟩ => ⟨empty, (congrArg (tyInt t) top).trans (tyInt_topLane h)⟩

/-- R153: the greatest of integer lanes, the least value of the type with none. -/
theorem reduce_max_int {t : Ty} (h : t.isInt = true) (mode draw : Nat) (xs : List Nat) :
    let v := (reduce .max t mode draw xs).1
    (xs = [] ∧ tyInt t v = tyLo t) ∨ (v ∈ xs ∧ ∀ y ∈ xs, tyInt t y ≤ tyInt t v) := by
  have fmt := tyFmt_of_isInt h
  have keeps : ∀ x y, laneMax t x y = if -tyInt t y < -tyInt t x then y else x := by simpa using laneMax_int fmt
  exact (foldLanes_least fmt (fun x => -tyInt t x) keeps (botLane t) xs).imp
    (fun ⟨empty, bot⟩ => ⟨empty, (congrArg (tyInt t) bot).trans (tyInt_botLane h)⟩)
    (fun ⟨mem, best⟩ => ⟨mem, fun y hy => neg_le_neg_iff.1 (best y hy)⟩)

/-- R153: MIN of floating lanes starts from +infinity. -/
theorem reduce_min_float {t : Ty} {f : Fmt} (h : tyFmt t = some f) (mode draw : Nat) (xs : List Nat) :
    reduce .min t mode draw xs = (foldLanes t (fminC f) (f.infCode false) xs, 0) := by
  simp [reduce, laneMin_float h, topLane, h]

/-- R153: MAX of floating lanes starts from -infinity. -/
theorem reduce_max_float {t : Ty} {f : Fmt} (h : tyFmt t = some f) (mode draw : Nat) (xs : List Nat) :
    reduce .max t mode draw xs = (foldLanes t (fmaxC f) (f.infCode true) xs, 0) := by
  simp [reduce, laneMax_float h, botLane, h]

/-! R139: the immediate of VBCAST. -/

/-- R139, R156: an immediate as a lane is its value, sign-extended for .i64 and else zero-extended, modulo the lane width. -/
theorem laneImm_mod (t : Ty) (v : BitVec 32) :
    laneImm t v % 2 ^ t.width = (if t = .i64 then (v.signExtend 64).toNat else v.toNat) % 2 ^ t.width := by
  cases t with
  | i64 => rfl
  | i8 | i16 | i32 | n8 | n16 | n32 | n64 | f32 | f16 | bf16 | e4m3 | e5m2 | cb8 | e8m0 => exact Nat.mod_mod _ _

/-! R155, R156, R158: lanes chosen by index. -/

/-- R155: VPERM of one source register gives zero for an index past its lanes. -/
theorem execVperm_one (g : Guard) (t : Ty) (z : MaskZ) (d : Vreg) (a b : VSrc) (s : State) :
    execVperm g t z d a b none s = vecMove g t z d [a, b]
      (fun vs i => if laneAt t vs 1 i < t.lanes then laneAt t vs 0 (laneAt t vs 1 i) else 0) s := by
  simp [execVperm]

/-- R155: VPERM of two source registers goes on in the second. -/
theorem execVperm_two (g : Guard) (t : Ty) (z : MaskZ) (d : Vreg) (a b c : VSrc) (s : State) :
    execVperm g t z d a b (some c) s = vecMove g t z d [a, b, c]
      (fun vs i => if laneAt t vs 1 i < t.lanes then laneAt t vs 0 (laneAt t vs 1 i)
        else if laneAt t vs 1 i < 2 * t.lanes then laneAt t vs 2 (laneAt t vs 1 i - t.lanes) else 0) s := by
  simp [execVperm]

/-- R156: a lane inserted is cut to the lane width, as every lane is when it is written. -/
theorem inserted_mod (c : Prop) [Decidable c] (x y m : Nat) : (if c then x % m else y) % m = (if c then x else y) % m := by
  split
  · exact Nat.mod_mod x m
  · rfl

/-- R158: the lanes that VZIP interleaves: the even ones from the first source, the odd ones from the second. -/
theorem zipLane_eq (t : Ty) (vs : List Vec) (part : Bool) (i : Nat) :
    laneAt t vs (i % 2) (part.toNat * (t.lanes / 2) + i / 2) =
      laneAt t vs (if i % 2 = 0 then 0 else 1) ((if part then t.lanes / 2 else 0) + i / 2) := by
  have parity : i % 2 = if i % 2 = 0 then 0 else 1 := by split <;> omega
  rw [← parity]
  cases part <;> simp

/-! The obligations. -/

/-- Settles O33: each instruction is the mould of bit operations with its own operation; VSHL drops the bits above the lane. -/
theorem vectorBits : Obligations.VectorBits := by
  unfold Obligations.VectorBits
  intro s u g t z d a b vs ps hg hr hl ht
  refine ⟨?vand, ?vor, ?vxor, ?vshl, ?vshr, ?vsar⟩
  case vand => exact gives_vecBits (fun x y => x &&& y) rfl hg hr hl ht (fun _ _ => rfl)
  case vor => exact gives_vecBits (fun x y => x ||| y) rfl hg hr hl ht (fun _ _ => rfl)
  case vxor => exact gives_vecBits (fun x y => x ^^^ y) rfl hg hr hl ht (fun _ _ => rfl)
  case vshl => exact gives_vecBits (fun x y => x * 2 ^ (y % t.width) % 2 ^ t.width) rfl hg hr hl ht (fun _ _ => Nat.mod_mod _ _)
  case vshr => exact gives_vecBits (fun x y => x / 2 ^ (y % t.width)) rfl hg hr hl ht (fun _ _ => rfl)
  case vsar =>
    exact gives_vecBits (fun x y => truncInt (sextInt x t.width / 2 ^ (y % t.width)) t.width) rfl hg hr hl ht (fun _ _ => rfl)

/-- Settles O34: VCMP writes the word of its bits, VSEL packs every lane, VEXT is a scalar write, and VRED writes the reduction of its
active lanes, whose value is that of its operation and type. -/
theorem vectorSelections : Obligations.VectorSelections := by
  unfold Obligations.VectorSelections
  intro s u g t z a b vs ps hg hr
  refine ⟨fun cond k w hl ht => ?vcmp, fun d k hl ht => ?vsel, fun e n hl ht => ?vext, fun op r k e hl ht => ?vred⟩
  case vcmp =>
    refine gives_of (vecOp_reads_gives _ hg hl ht) ⟨_, putMask_wrote u k _, fun i hi => ?_, fun i hi => ?_⟩
    · rw [getLsbD_foldBits (lanes_le_64 t)]
      simp [Nat.not_lt.2 hi]
    · rw [getLsbD_foldBits (lanes_le_64 t)]
      simp [hi, laneAt]
  case vsel =>
    refine gives_vecPack (fun s vs j => laneAt t vs (if (s.me.m k).getLsbD j then 0 else 1) j) rfl hg hr hl ht (fun j => ?_)
    split <;> rfl
  case vext =>
    refine gives_of (vecOp_reads_gives _ hg hl ht) (wroteS_eq (putS_wrote u _ e _ hr) ?_)
    cases n with
    | imm n | reg q => rfl
  case vred =>
    intro js xs ends
    have run := gives_vred (t := t) hg hr hl ht r k e (rfl : xs = _)
    clear_value xs
    refine ⟨fun int => ?ints, fun f fmt => ?floats⟩
    case ints =>
      obtain ⟨t', next, ended⟩ := run op
      rw [widenLane_int int, reduce_int_flags (tyFmt_of_isInt int)] at ended
      refine ⟨t', next, _, ended, ?_⟩
      cases op with
      | add => exact congrArg Prod.fst (reduce_add_int (tyFmt_of_isInt int) _ _ _)
      | min => exact reduce_min_int int _ _ _
      | max => exact reduce_max_int int _ _ _
      | and | or | xor => rfl
    case floats =>
      intro sum q one
      have best : ∀ op top, foldLanes t op top xs = one op top := fun op top => by
        cases xs with
        | nil => rfl
        | cons x rest => exact foldLanes_float fmt op top x rest
      simp only [widenLane_float fmt] at run
      refine ⟨?fadd, ?fmin, ?fmax⟩
      case fadd =>
        have sums := run .add
        rw [reduce_add_float fmt] at sums
        exact sums
      case fmin =>
        have least := run .min
        rw [reduce_min_float fmt, best] at least
        exact least
      case fmax =>
        have greatest := run .max
        rw [reduce_max_float fmt, best] at greatest
        exact greatest

/-- Settles O35: each instruction merges or packs lanes chosen by index. -/
theorem vectorMoves : Obligations.VectorMoves := by
  unfold Obligations.VectorMoves
  intro s u g t z d a b vs ps hg hr
  refine ⟨fun hl ht => ⟨?vperm, fun part => ⟨?vzip, ?vunzip⟩, fun k => ?vslide⟩, fun c hl ht => ?vpermTwo,
    fun hl ht => ⟨?vmov, fun k => ?vbcastLane⟩,
    fun hl u0 ht hr0 => ⟨fun q => ⟨?vbcastScalar, fun imm => ?vldi, fun k => ?vins⟩, fun imm => ?vbcastImm⟩⟩
  case vperm => exact gives_vecMove g t z d [a, b] _ (execVperm_one g t z d a b s) hg hl ht hr (fun _ _ => rfl)
  case vzip =>
    refine gives_vecMove g t z d [a, b] _ rfl hg hl ht hr (fun i _ => ?_)
    rw [zipLane_eq]
    dsimp only
    split <;> rfl
  case vunzip =>
    refine gives_vecMove g t z d [a, b] _ rfl hg hl ht hr (fun i _ => ?_)
    cases part <;> rfl
  case vslide => exact gives_vecMove g t z d [a, b] _ rfl hg hl ht hr (fun _ _ => rfl)
  case vpermTwo => exact gives_vecMove g t z d [a, b, c] _ (execVperm_two g t z d a b c s) hg hl ht hr (fun _ _ => rfl)
  case vmov => exact gives_vecMove g t z d [a] _ rfl hg hl ht hr (fun _ _ => rfl)
  case vbcastLane => exact gives_vecMove g t z d [a] _ rfl hg hl ht hr (fun _ _ => rfl)
  case vbcastScalar =>
    exact gives_vecMerge (fun s _ => (s.me.s q).toNat % 2 ^ t.width) rfl hg hr0 hl ht (fun _ => Nat.mod_mod _ _)
  case vldi =>
    exact gives_vecMerge (fun s j => (s.me.s q + BitVec.ofNat 64 j * sext32 imm).toNat % 2 ^ t.width) rfl hg hr0 hl ht
      (fun _ => Nat.mod_mod _ _)
  case vins =>
    refine gives_vecPack (fun s _ j => if j = LaneSel.index s.me k then (s.me.s q).toNat % 2 ^ t.width
      else Machine.laneOf t.width (s.me.v d) j) rfl hg hr0 hl ht (fun j => ?_)
    cases k with
    | imm n | reg p => exact inserted_mod _ _ _ _
  case vbcastImm => exact gives_vecMove g t z d [] _ rfl hg hl ht hr0 (fun _ _ => laneImm_mod t imm)

end Sys2Proof.Laws
end
